-- ==== Sys2Proof/Syntax.lean ====
section
/-! DEFINITION. The instruction set of the Lerhira L7 as syntax: one constructor for each row of the opcode table.
Rows with an encoding carry the fields of that encoding as bit vectors, the stage field `s` first (06 R182, R183).
Rows without an encoding are the steps that the part's other agents take (95); their arguments say which core,
queue, command or register the step concerns, and bring what comes from outside the module (log 2). -/

namespace Sys2Proof

/-- The three walkers of a core (02 R44): access, execute, store. -/
inductive Walker where
  | A | X | S
  deriving DecidableEq, Repr

/-- What the meeting of a collective shows of one other participant (12 R381): the fabric context and TAG by which it is matched, its
index and the fields that must agree. -/
structure PeerColl where
  fctx : BitVec 16
  tag : BitVec 32
  index : Nat
  sub : BitVec 3
  dims : BitVec 3
  fmt : BitVec 4
  ofmt : BitVec 4
  count : BitVec 32
  deriving DecidableEq, Repr

/-- What the links bring for one local collective (12 R388, R391, R392, R397). -/
inductive Flit where
  /-- the source elements of participant `peer` of a fabric context and TAG, byte for byte, and which of them are damaged -/
  | source (fctx : BitVec 16) (tag : BitVec 32) (peer : Nat) (data : List (BitVec 8)) (bad : List Nat)
  /-- the bytes that a CGET reads at the target, and which of them are damaged -/
  | windowData (data : List (BitVec 8)) (bad : List Nat)
  /-- every remote write of a CPUT is performed, and the RSIG raise made -/
  | windowDone
  /-- the target refuses the access (code 4) -/
  | windowRefused
  /-- another participant's supervisor aborted the collective (code 5) -/
  | aborted
  /-- a link that the collective needs has failed elsewhere (code 6) -/
  | linkFailed
  deriving DecidableEq, Repr

/-- A remote window request served by this module (12 R392). -/
inductive RemoteOp where
  | read (len : Nat)
  /-- the bytes of a CPUT, which of them are damaged, and RSOFF when RSIG is 1 -/
  | write (data : List (BitVec 8)) (bad : List Nat) (rsoff : Option (BitVec 48))
  deriving DecidableEq, Repr

/-- What boot finds outside the digital state (24 R531, R538): the stacks that train, their bank-row extension,
the links that train, those of them whose peer shares no version, and the device's place in the torus (01 R31). -/
structure BootEnv where
  failStack : Option (BitVec 4)
  ext : BitVec 16
  links : BitVec 12
  strange : BitVec 12
  idDev : BitVec 24
  flashError : Bool
  deriving DecidableEq, Repr

/-- One reading of a cooling zone's sensors (23 R521). -/
structure ZoneReading where
  temp : BitVec 8
  flow : BitVec 12
  deriving DecidableEq, Repr

/-- What a patrol scrub finds in a line (22 R517). -/
inductive ScrubFinding where
  | clean
  /-- a correctable error: the corrected value equals the line's value (22 R510) -/
  | corrected
  | uncorrectable
  deriving DecidableEq, Repr

/-- Storage other than HBM that can lose its data (22 R510): a line, by its place; of a core, a scratchpad byte, an accumulator element, an L1
sector by its place, a cell or a scale code of an array plane, or what a walker reads of a queue, register or descriptor; or the store's
copy of a graph version. -/
inductive SramAt where
  | line (place : Nat)
  | spad (off : Nat)
  | acc (row col : Nat)
  | l1 (place : Nat)
  | cell (shadow : Bool) (key : Nat)
  | scale (shadow : Bool) (key : Nat)
  | queue (w : Walker)
  | graph (uid : Nat)
  deriving DecidableEq, Repr

/-- The head of a request over the management channel (24 R530): whether a reserved bit is set, and TAG. -/
structure ReqHead where
  rsv : Bool
  tag : BitVec 32
  deriving DecidableEq, Repr
/-- The head of a request whose TYPE has no row of its own, or is 1. -/
structure RawHead where
  type : BitVec 8
  rsv : Bool
  tag : BitVec 32
  deriving DecidableEq, Repr
/-- The queue pair of a write over the host port and the partition that it names (24 R529). -/
structure QueuePair where
  qp : Nat
  part : Nat
  deriving DecidableEq, Repr
/-- A virtual address of a partition. -/
structure PageAddr where
  part : Nat
  va : Nat
  deriving DecidableEq, Repr
/-- An access of a hart to the control space (19 R438): a load or a store, its number of bytes, its offset. -/
structure CsAccess where
  load : Bool
  size : Nat
  off : BitVec 64
  deriving DecidableEq, Repr

/-- The instruction set: one constructor for each row of the opcode table. -/
inductive Instr where
  -- K stream and LIMM (07 R220; 06 R189)
  /-- NOP (R221): K syllable with no effect. -/
  | nop (s : BitVec 2)
  /-- KSET (R223): Each walker writes the sign-extended immediate to its copy of kd. -/
  | kset (s : BitVec 2) (d : BitVec 6) (i : BitVec 16)
  /-- KADDI (R223): Each walker adds the immediate to ka and writes kd. -/
  | kaddi (s : BitVec 2) (d : BitVec 6) (a : BitVec 6) (i : BitVec 10)
  /-- KADD (R219): K add of ka and kb into kd. -/
  | kadd (s : BitVec 2) (d : BitVec 6) (a : BitVec 6) (b : BitVec 6)
  /-- KSUB (R219): K subtract. -/
  | ksub (s : BitVec 2) (d : BitVec 6) (a : BitVec 6) (b : BitVec 6)
  /-- KAND (R219): K bitwise and. -/
  | kand (s : BitVec 2) (d : BitVec 6) (a : BitVec 6) (b : BitVec 6)
  /-- KOR (R219): K bitwise or. -/
  | kor (s : BitVec 2) (d : BitVec 6) (a : BitVec 6) (b : BitVec 6)
  /-- KXOR (R219): K bitwise exclusive or. -/
  | kxor (s : BitVec 2) (d : BitVec 6) (a : BitVec 6) (b : BitVec 6)
  /-- KANDN (R219): K and with complement of b. -/
  | kandn (s : BitVec 2) (d : BitVec 6) (a : BitVec 6) (b : BitVec 6)
  /-- KSHL (R219): K shift left by b[5:0]. -/
  | kshl (s : BitVec 2) (d : BitVec 6) (a : BitVec 6) (b : BitVec 6)
  /-- KSHR (R219): K logical shift right. -/
  | kshr (s : BitVec 2) (d : BitVec 6) (a : BitVec 6) (b : BitVec 6)
  /-- KSRA (R219): K arithmetic shift right. -/
  | ksra (s : BitVec 2) (d : BitVec 6) (a : BitVec 6) (b : BitVec 6)
  /-- KMIN (R219): K signed minimum. -/
  | kmin (s : BitVec 2) (d : BitVec 6) (a : BitVec 6) (b : BitVec 6)
  /-- KMAX (R219): K signed maximum. -/
  | kmax (s : BitVec 2) (d : BitVec 6) (a : BitVec 6) (b : BitVec 6)
  /-- KMINU (R219): K unsigned minimum. -/
  | kminu (s : BitVec 2) (d : BitVec 6) (a : BitVec 6) (b : BitVec 6)
  /-- KMAXU (R219): K unsigned maximum. -/
  | kmaxu (s : BitVec 2) (d : BitVec 6) (a : BitVec 6) (b : BitVec 6)
  /-- KADDW (R219): K 32-bit add, sign-extended. -/
  | kaddw (s : BitVec 2) (d : BitVec 6) (a : BitVec 6) (b : BitVec 6)
  /-- KSUBW (R219): K 32-bit subtract, sign-extended. -/
  | ksubw (s : BitVec 2) (d : BitVec 6) (a : BitVec 6) (b : BitVec 6)
  /-- KCLZ (R219): K count of leading zeros. -/
  | kclz (s : BitVec 2) (d : BitVec 6) (a : BitVec 6)
  /-- KMOVQ (R224): Each walker pops KQ at its own read position into kd. -/
  | kmovq (s : BitVec 2) (d : BitVec 6) (w : BitVec 4)
  /-- LOOP (R226): Opens a counted loop at the next depth. -/
  | loop (s : BitVec 2) (c : BitVec 6) (i : BitVec 1) (l : BitVec 13)
  /-- PLOOP (R226): Opens a modulo-scheduled loop of depth D. -/
  | ploop (s : BitVec 2) (c : BitVec 6) (e : BitVec 2) (i : BitVec 1) (l : BitVec 13)
  /-- BR (R229): Unconditional branch closing loops left. -/
  | br (s : BitVec 2) (o : BitVec 22)
  /-- BEQZ (R228): Branch if ka is zero. -/
  | beqz (s : BitVec 2) (a : BitVec 6) (o : BitVec 10)
  /-- BNEZ (R228): Branch if ka is non-zero. -/
  | bnez (s : BitVec 2) (a : BitVec 6) (o : BitVec 10)
  /-- BLTZ (R228): Branch if ka is negative. -/
  | bltz (s : BitVec 2) (a : BitVec 6) (o : BitVec 10)
  /-- BGEZ (R228): Branch if ka is not negative. -/
  | bgez (s : BitVec 2) (a : BitVec 6) (o : BitVec 10)
  /-- BGTZ (R228): Branch if ka is positive. -/
  | bgtz (s : BitVec 2) (a : BitVec 6) (o : BitVec 10)
  /-- BLEZ (R228): Branch if ka is not positive. -/
  | blez (s : BitVec 2) (a : BitVec 6) (o : BitVec 10)
  /-- BRQ (R230): Pops BQ and branches when the bit is 1. -/
  | brq (s : BitVec 2) (w : BitVec 4) (o : BitVec 17)
  /-- BRQZ (R230): Pops BQ and branches when the bit is 0. -/
  | brqz (s : BitVec 2) (w : BitVec 4) (o : BitVec 17)
  /-- CALL (R229): Pushes return address and loop depth, then branches. -/
  | call (s : BitVec 2) (o : BitVec 22)
  /-- RET (R229): Pops the call stack, closes loops, and returns. -/
  | ret (s : BitVec 2)
  /-- MARK (R54): A and S rendezvous and order loads against stores. -/
  | mark (s : BitVec 2)
  /-- BARA (R232): Arrives at the gang barrier without waiting. -/
  | bara (s : BitVec 2) (w : BitVec 4)
  /-- BARW (R234): Waits for the barrier phase named by ka. -/
  | barw (s : BitVec 2) (a : BitVec 6) (w : BitVec 4)
  /-- BAR (R232): Arrives at the gang barrier and waits for that phase. -/
  | bar (s : BitVec 2) (w : BitVec 4)
  /-- SLIPSET (R236): A writes the clamped slip bound. -/
  | slipset (s : BitVec 2) (i : BitVec 16)
  /-- TDEF (R238): Defines a tile from the value of ka. -/
  | tdef (s : BitVec 2) (t : BitVec 6) (a : BitVec 6)
  /-- TDEF_TABLE (R238): Defines a tile from a tile-table entry of the image. -/
  | tdefTable (s : BitVec 2) (t : BitVec 6) (e : BitVec 6) (u : BitVec 3)
  /-- TUNDEF (R239): Last walker clears the tile definition. -/
  | tundef (s : BitVec 2) (t : BitVec 6)
  /-- BUDGET (R237): Writes a walker's copy of wbN. -/
  | budget (s : BitVec 2) (n : BitVec 4) (i : BitVec 16)
  /-- PHASE (R240): Walkers rendezvous and start a carve-out size change. -/
  | phase (s : BitVec 2) (i : BitVec 16)
  /-- KSEED (R241): X writes ka to SRKEY. -/
  | kseed (s : BitVec 2) (a : BitVec 6)
  /-- KSEEDX (R241): X exclusive-ors ka into SRKEY. -/
  | kseedx (s : BitVec 2) (a : BitVec 6)
  /-- END (R222): A walker issues END and issues nothing further. -/
  | endK (s : BitVec 2)
  /-- LIMM (R189): Extends the immediate of its base syllable. -/
  | limm (t : BitVec 2) (s : BitVec 2) (e : BitVec 22)
  -- A stream (08)
  /-- AADD (R259): A add. -/
  | aadd (s : BitVec 2) (d : BitVec 6) (a : BitVec 6) (b : BitVec 6)
  /-- ASUB (R259): A subtract. -/
  | asub (s : BitVec 2) (d : BitVec 6) (a : BitVec 6) (b : BitVec 6)
  /-- AAND (R259): A and. -/
  | aand (s : BitVec 2) (d : BitVec 6) (a : BitVec 6) (b : BitVec 6)
  /-- AOR (R259): A or. -/
  | aor (s : BitVec 2) (d : BitVec 6) (a : BitVec 6) (b : BitVec 6)
  /-- AXOR (R259): A exclusive or. -/
  | axor (s : BitVec 2) (d : BitVec 6) (a : BitVec 6) (b : BitVec 6)
  /-- AANDN (R259): A and-not. -/
  | aandn (s : BitVec 2) (d : BitVec 6) (a : BitVec 6) (b : BitVec 6)
  /-- ASHL (R259): A shift left. -/
  | ashl (s : BitVec 2) (d : BitVec 6) (a : BitVec 6) (b : BitVec 6)
  /-- ASHR (R259): A logical shift right. -/
  | ashr (s : BitVec 2) (d : BitVec 6) (a : BitVec 6) (b : BitVec 6)
  /-- ASRA (R259): A arithmetic shift right. -/
  | asra (s : BitVec 2) (d : BitVec 6) (a : BitVec 6) (b : BitVec 6)
  /-- AMIN (R259): A signed minimum. -/
  | amin (s : BitVec 2) (d : BitVec 6) (a : BitVec 6) (b : BitVec 6)
  /-- AMAX (R259): A signed maximum. -/
  | amax (s : BitVec 2) (d : BitVec 6) (a : BitVec 6) (b : BitVec 6)
  /-- AMINU (R259): A unsigned minimum. -/
  | aminu (s : BitVec 2) (d : BitVec 6) (a : BitVec 6) (b : BitVec 6)
  /-- AMAXU (R259): A unsigned maximum. -/
  | amaxu (s : BitVec 2) (d : BitVec 6) (a : BitVec 6) (b : BitVec 6)
  /-- AADDW (R259): A 32-bit add. -/
  | aaddw (s : BitVec 2) (d : BitVec 6) (a : BitVec 6) (b : BitVec 6)
  /-- ASUBW (R259): A 32-bit subtract. -/
  | asubw (s : BitVec 2) (d : BitVec 6) (a : BitVec 6) (b : BitVec 6)
  /-- ACLZ (R259): A count of leading zeros. -/
  | aclz (s : BitVec 2) (d : BitVec 6) (a : BitVec 6)
  /-- AADDI (R259): A add immediate. -/
  | aaddi (s : BitVec 2) (d : BitVec 6) (a : BitVec 6) (i : BitVec 10)
  /-- ALI (R259): A load immediate. -/
  | ali (s : BitVec 2) (d : BitVec 6) (i : BitVec 16)
  /-- AMOVK (R259): A adds rb shifted by sh to ra. -/
  | amovk (s : BitVec 2) (d : BitVec 6) (a : BitVec 6) (b : BitVec 6) (h : BitVec 4)
  /-- AQPOP (R260): Pops an AQ entry into an a register. -/
  | aqpop (s : BitVec 2) (d : BitVec 6) (w : BitVec 4)
  /-- LD (R262): Loads 1 to 8 bytes into an a register or LQ. -/
  | ld (s : BitVec 2) (d : BitVec 6) (a : BitVec 6) (b : BitVec 6) (z : BitVec 2) (x : BitVec 1) (c : BitVec 1)
  /-- LDS (R263): Speculative load into LQ that defers faults as poison. -/
  | lds (s : BitVec 2) (a : BitVec 6) (b : BitVec 6) (z : BitVec 2) (x : BitVec 1) (c : BitVec 1)
  /-- TLD (R269): Loads a box of a tensor into a tile. -/
  | tld (s : BitVec 2) (t : BitVec 6) (g : BitVec 6)
  /-- TLDP (R269): Loads a box into a peer scratchpad through the gang window. -/
  | tldp (s : BitVec 2) (t : BitVec 6) (g : BitVec 6)
  /-- TLDS (R270): Speculative tile load that poisons instead of faulting. -/
  | tlds (s : BitVec 2) (t : BitVec 6) (g : BitVec 6)
  /-- TLDSC (R271): Pushes square-block scales to the scale queue. -/
  | tldsc (s : BitVec 2) (t : BitVec 6) (g : BitVec 6)
  /-- TCOPY (R276): Starts a tensor copy on a channel. -/
  | tcopy (s : BitVec 2) (g : BitVec 6) (w : BitVec 4) (c : BitVec 4)
  /-- TGATH (R278): Starts a bitmask gather to memory on a channel. -/
  | tgath (s : BitVec 2) (g : BitVec 6) (w : BitVec 4) (c : BitVec 4)
  /-- TGATH_TILE (R278): Starts a bitmask gather into a tile. -/
  | tgathTile (s : BitVec 2) (t : BitVec 6) (g : BitVec 6) (w : BitVec 4) (c : BitVec 4)
  /-- TXP (R276): Starts a transposing copy to memory on a channel. -/
  | txp (s : BitVec 2) (g : BitVec 6) (w : BitVec 4) (c : BitVec 4)
  /-- TXP_TILE (R276): Starts a transposing copy into a tile. -/
  | txpTile (s : BitVec 2) (t : BitVec 6) (g : BitVec 6) (w : BitVec 4) (c : BitVec 4)
  /-- ATOM_SWAP (R285): Atomic swap returning old to LQ. -/
  | atomSwap (s : BitVec 2) (o : BitVec 2) (a : BitVec 6) (b : BitVec 6) (z : BitVec 1)
  /-- ATOM_CAS (R285): Atomic compare and swap. -/
  | atomCas (s : BitVec 2) (o : BitVec 2) (a : BitVec 6) (b : BitVec 6) (z : BitVec 1)
  /-- ATOM_ADD (R285): Atomic integer add. -/
  | atomAdd (s : BitVec 2) (o : BitVec 2) (a : BitVec 6) (b : BitVec 6) (z : BitVec 1)
  /-- ATOM_AND (R285): Atomic and. -/
  | atomAnd (s : BitVec 2) (o : BitVec 2) (a : BitVec 6) (b : BitVec 6) (z : BitVec 1)
  /-- ATOM_OR (R285): Atomic or. -/
  | atomOr (s : BitVec 2) (o : BitVec 2) (a : BitVec 6) (b : BitVec 6) (z : BitVec 1)
  /-- ATOM_XOR (R285): Atomic exclusive or. -/
  | atomXor (s : BitVec 2) (o : BitVec 2) (a : BitVec 6) (b : BitVec 6) (z : BitVec 1)
  /-- ATOM_MIN (R285): Atomic signed minimum. -/
  | atomMin (s : BitVec 2) (o : BitVec 2) (a : BitVec 6) (b : BitVec 6) (z : BitVec 1)
  /-- ATOM_MAX (R285): Atomic signed maximum. -/
  | atomMax (s : BitVec 2) (o : BitVec 2) (a : BitVec 6) (b : BitVec 6) (z : BitVec 1)
  /-- ATOM_MINU (R285): Atomic unsigned minimum. -/
  | atomMinu (s : BitVec 2) (o : BitVec 2) (a : BitVec 6) (b : BitVec 6) (z : BitVec 1)
  /-- ATOM_MAXU (R285): Atomic unsigned maximum. -/
  | atomMaxu (s : BitVec 2) (o : BitVec 2) (a : BitVec 6) (b : BitVec 6) (z : BitVec 1)
  /-- ATOM_INCW (R285): Atomic wrapping increment. -/
  | atomIncw (s : BitVec 2) (o : BitVec 2) (a : BitVec 6) (b : BitVec 6) (z : BitVec 1)
  /-- ATOM_DECW (R285): Atomic wrapping decrement. -/
  | atomDecw (s : BitVec 2) (o : BitVec 2) (a : BitVec 6) (b : BitVec 6) (z : BitVec 1)
  /-- ATOM_FADDB (R285): Atomic bounded add returning the bound-hit flag. -/
  | atomFaddb (s : BitVec 2) (o : BitVec 2) (a : BitVec 6) (b : BitVec 6) (z : BitVec 1)
  /-- ATOM_FADDT (R289): Atomic add that wakes registered address waiters. -/
  | atomFaddt (s : BitVec 2) (o : BitVec 2) (a : BitVec 6) (b : BitVec 6) (z : BitVec 1)
  /-- ATOM_FADD_F32 (R285): Atomic FP32 add. -/
  | atomFaddF32 (s : BitVec 2) (o : BitVec 2) (a : BitVec 6) (b : BitVec 6)
  /-- ATOM_FMAX_F32 (R285): Atomic FP32 maximum. -/
  | atomFmaxF32 (s : BitVec 2) (o : BitVec 2) (a : BitVec 6) (b : BitVec 6)
  /-- AWAIT (R288): Reads and registers on a word and waits for a threshold. -/
  | await (s : BitVec 2) (a : BitVec 6) (t : BitVec 6) (w : BitVec 4) (z : BitVec 1)
  /-- PREF (R265): Prefetches a line into L1 or the LLC. -/
  | pref (s : BitVec 2) (l : BitVec 1) (a : BitVec 6) (b : BitVec 6) (z : BitVec 2) (c : BitVec 1)
  /-- RINIT (R281): A or S initialises one of its own rings. -/
  | rinit (x : BitVec 1) (s : BitVec 2) (c : BitVec 6) (n : BitVec 3)
  /-- RCLAIM (R281): A or S claims a ring slot. -/
  | rclaim (x : BitVec 1) (s : BitVec 2) (d : BitVec 6) (n : BitVec 6) (w : BitVec 4)
  /-- RPUB (R281): A or S releases and publishes a claimed slot. -/
  | rpub (x : BitVec 1) (s : BitVec 2) (h : BitVec 6) (n : BitVec 6)
  /-- RWAITF (R281): A or S waits for the head slot's fill. -/
  | rwaitf (x : BitVec 1) (s : BitVec 2) (n : BitVec 3) (w : BitVec 4)
  /-- RREL (R281): A or S releases the head slot. -/
  | rrel (x : BitVec 1) (s : BitVec 2) (n : BitVec 3)
  /-- NMRED (R359): Indexed reduction of table rows at memory into a tile. -/
  | nmred (s : BitVec 2) (t : BitVec 6) (g : BitVec 6)
  /-- INVL1 (R291): Flash-invalidates the core's L1. -/
  | invl1 (s : BitVec 2)
  /-- INVL1R (R291): Invalidates L1 sectors of a range. -/
  | invl1r (s : BitVec 2) (a : BitVec 6) (b : BitVec 6)
  -- X stream, scalar (07 R242-R252)
  /-- ADD (R242): X add. -/
  | add (s : BitVec 2) (d : BitVec 6) (a : BitVec 6) (b : BitVec 6)
  /-- SUB (R242): X subtract. -/
  | sub (s : BitVec 2) (d : BitVec 6) (a : BitVec 6) (b : BitVec 6)
  /-- AND (R242): X and. -/
  | and (s : BitVec 2) (d : BitVec 6) (a : BitVec 6) (b : BitVec 6)
  /-- OR (R242): X or. -/
  | or (s : BitVec 2) (d : BitVec 6) (a : BitVec 6) (b : BitVec 6)
  /-- XOR (R242): X exclusive or. -/
  | xor (s : BitVec 2) (d : BitVec 6) (a : BitVec 6) (b : BitVec 6)
  /-- ANDN (R242): X and-not. -/
  | andn (s : BitVec 2) (d : BitVec 6) (a : BitVec 6) (b : BitVec 6)
  /-- SHL (R242): X shift left. -/
  | shl (s : BitVec 2) (d : BitVec 6) (a : BitVec 6) (b : BitVec 6)
  /-- SHR (R242): X logical shift right. -/
  | shr (s : BitVec 2) (d : BitVec 6) (a : BitVec 6) (b : BitVec 6)
  /-- SRA (R242): X arithmetic shift right. -/
  | sra (s : BitVec 2) (d : BitVec 6) (a : BitVec 6) (b : BitVec 6)
  /-- MIN (R242): X signed minimum. -/
  | min (s : BitVec 2) (d : BitVec 6) (a : BitVec 6) (b : BitVec 6)
  /-- MAX (R242): X signed maximum. -/
  | max (s : BitVec 2) (d : BitVec 6) (a : BitVec 6) (b : BitVec 6)
  /-- MINU (R242): X unsigned minimum. -/
  | minu (s : BitVec 2) (d : BitVec 6) (a : BitVec 6) (b : BitVec 6)
  /-- MAXU (R242): X unsigned maximum. -/
  | maxu (s : BitVec 2) (d : BitVec 6) (a : BitVec 6) (b : BitVec 6)
  /-- ADDW (R242): X 32-bit add. -/
  | addw (s : BitVec 2) (d : BitVec 6) (a : BitVec 6) (b : BitVec 6)
  /-- SUBW (R242): X 32-bit subtract. -/
  | subw (s : BitVec 2) (d : BitVec 6) (a : BitVec 6) (b : BitVec 6)
  /-- CLZ (R242): X count of leading zeros. -/
  | clz (s : BitVec 2) (d : BitVec 6) (a : BitVec 6)
  /-- MUL (R244): Low 64 bits of the product. -/
  | mul (s : BitVec 2) (d : BitVec 6) (a : BitVec 6) (b : BitVec 6)
  /-- MULH (R244): High bits of signed product. -/
  | mulh (s : BitVec 2) (d : BitVec 6) (a : BitVec 6) (b : BitVec 6)
  /-- MULHU (R244): High bits of unsigned product. -/
  | mulhu (s : BitVec 2) (d : BitVec 6) (a : BitVec 6) (b : BitVec 6)
  /-- MULHSU (R244): High bits of signed by unsigned product. -/
  | mulhsu (s : BitVec 2) (d : BitVec 6) (a : BitVec 6) (b : BitVec 6)
  /-- DIV (R244): Signed division. -/
  | div (s : BitVec 2) (d : BitVec 6) (a : BitVec 6) (b : BitVec 6)
  /-- DIVU (R244): Unsigned division. -/
  | divu (s : BitVec 2) (d : BitVec 6) (a : BitVec 6) (b : BitVec 6)
  /-- REM (R244): Signed remainder. -/
  | rem (s : BitVec 2) (d : BitVec 6) (a : BitVec 6) (b : BitVec 6)
  /-- REMU (R244): Unsigned remainder. -/
  | remu (s : BitVec 2) (d : BitVec 6) (a : BitVec 6) (b : BitVec 6)
  /-- MULW (R244): 32-bit multiply. -/
  | mulw (s : BitVec 2) (d : BitVec 6) (a : BitVec 6) (b : BitVec 6)
  /-- DIVW (R244): 32-bit signed division. -/
  | divw (s : BitVec 2) (d : BitVec 6) (a : BitVec 6) (b : BitVec 6)
  /-- DIVUW (R244): 32-bit unsigned division. -/
  | divuw (s : BitVec 2) (d : BitVec 6) (a : BitVec 6) (b : BitVec 6)
  /-- REMW (R244): 32-bit signed remainder. -/
  | remw (s : BitVec 2) (d : BitVec 6) (a : BitVec 6) (b : BitVec 6)
  /-- REMUW (R244): 32-bit unsigned remainder. -/
  | remuw (s : BitVec 2) (d : BitVec 6) (a : BitVec 6) (b : BitVec 6)
  /-- ADDI (R242): X add immediate. -/
  | addi (s : BitVec 2) (d : BitVec 6) (a : BitVec 6) (i : BitVec 10)
  /-- ANDI (R243): X and with immediate. -/
  | andi (s : BitVec 2) (d : BitVec 6) (i : BitVec 10)
  /-- ORI (R243): X or with immediate. -/
  | ori (s : BitVec 2) (d : BitVec 6) (i : BitVec 10)
  /-- XORI (R243): X exclusive or with immediate. -/
  | xori (s : BitVec 2) (d : BitVec 6) (i : BitVec 10)
  /-- ANDNI (R243): X and with complemented immediate. -/
  | andni (s : BitVec 2) (d : BitVec 6) (i : BitVec 10)
  /-- SHLI (R243): X shift left by immediate. -/
  | shli (s : BitVec 2) (d : BitVec 6) (i : BitVec 10)
  /-- SHRI (R243): X logical shift right by immediate. -/
  | shri (s : BitVec 2) (d : BitVec 6) (i : BitVec 10)
  /-- SRAI (R243): X arithmetic shift right by immediate. -/
  | srai (s : BitVec 2) (d : BitVec 6) (i : BitVec 10)
  /-- RORI (R243): X rotate right by immediate. -/
  | rori (s : BitVec 2) (d : BitVec 6) (i : BitVec 10)
  /-- LI (R242): X load immediate. -/
  | li (s : BitVec 2) (d : BitVec 6) (i : BitVec 16)
  /-- SEQ (R245): Set if equal. -/
  | seq (s : BitVec 2) (d : BitVec 6) (a : BitVec 6) (b : BitVec 6)
  /-- SNE (R245): Set if not equal. -/
  | sne (s : BitVec 2) (d : BitVec 6) (a : BitVec 6) (b : BitVec 6)
  /-- SLT (R245): Set if less, signed. -/
  | slt (s : BitVec 2) (d : BitVec 6) (a : BitVec 6) (b : BitVec 6)
  /-- SLTU (R245): Set if less, unsigned. -/
  | sltu (s : BitVec 2) (d : BitVec 6) (a : BitVec 6) (b : BitVec 6)
  /-- SLE (R245): Set if less or equal, signed. -/
  | sle (s : BitVec 2) (d : BitVec 6) (a : BitVec 6) (b : BitVec 6)
  /-- SLEU (R245): Set if less or equal, unsigned. -/
  | sleu (s : BitVec 2) (d : BitVec 6) (a : BitVec 6) (b : BitVec 6)
  /-- SEL (R245): Selects ga or gb by gd. -/
  | sel (s : BitVec 2) (d : BitVec 6) (a : BitVec 6) (b : BitVec 6)
  /-- PUSHS (R246): Pushes ga to SQ. -/
  | pushs (s : BitVec 2) (g : BitVec 6)
  /-- PUSHA (R246): Pushes ga to AQ. -/
  | pusha (s : BitVec 2) (g : BitVec 6)
  /-- PUSHB (R246): Pushes a decision bit to BQ. -/
  | pushb (s : BitVec 2) (g : BitVec 6)
  /-- PUSHK (R246): Pushes ga to KQ. -/
  | pushk (s : BitVec 2) (g : BitVec 6)
  /-- POPL (R246): Pops LQ into gd. -/
  | popl (s : BitVec 2) (d : BitVec 6) (w : BitVec 4)
  /-- QPOPF (R246): Pops LQ value and flag into two g registers. -/
  | qpopf (s : BitVec 2) (d : BitVec 6) (b : BitVec 6) (w : BitVec 4)
  /-- CHK (R248): Traps if ga is poisoned. -/
  | chk (s : BitVec 2) (g : BitVec 6)
  /-- CHKT (R248): Traps if the tile is poisoned. -/
  | chkt (s : BitVec 2) (t : BitVec 6)
  /-- FADD (R249): Scalar FP32 add. -/
  | fadd (s : BitVec 2) (d : BitVec 6) (a : BitVec 6) (b : BitVec 6)
  /-- FSUB (R249): Scalar FP32 subtract. -/
  | fsub (s : BitVec 2) (d : BitVec 6) (a : BitVec 6) (b : BitVec 6)
  /-- FMUL (R249): Scalar FP32 multiply. -/
  | fmul (s : BitVec 2) (d : BitVec 6) (a : BitVec 6) (b : BitVec 6)
  /-- FMAC (R249): Scalar fused multiply-accumulate. -/
  | fmac (s : BitVec 2) (d : BitVec 6) (a : BitVec 6) (b : BitVec 6)
  /-- FMIN (R249): Scalar FP32 minimum. -/
  | fmin (s : BitVec 2) (d : BitVec 6) (a : BitVec 6) (b : BitVec 6)
  /-- FMAX (R249): Scalar FP32 maximum. -/
  | fmax (s : BitVec 2) (d : BitVec 6) (a : BitVec 6) (b : BitVec 6)
  /-- FEQ (R249): FP32 equality test. -/
  | feq (s : BitVec 2) (d : BitVec 6) (a : BitVec 6) (b : BitVec 6)
  /-- FLT (R249): FP32 less-than test. -/
  | flt (s : BitVec 2) (d : BitVec 6) (a : BitVec 6) (b : BitVec 6)
  /-- FLE (R249): FP32 less-or-equal test. -/
  | fle (s : BitVec 2) (d : BitVec 6) (a : BitVec 6) (b : BitVec 6)
  /-- FCVTIF (R249): INT64 to FP32. -/
  | fcvtif (s : BitVec 2) (d : BitVec 6) (a : BitVec 6)
  /-- FCVTFI (R249): FP32 to INT64. -/
  | fcvtfi (s : BitVec 2) (d : BitVec 6) (a : BitVec 6)
  /-- FABS (R249): FP32 absolute value. -/
  | fabs (s : BitVec 2) (d : BitVec 6) (a : BitVec 6)
  /-- FNEG (R249): FP32 negation. -/
  | fneg (s : BitVec 2) (d : BitVec 6) (a : BitVec 6)
  /-- RDSYS (R250): Reads a system register into gd. -/
  | rdsys (s : BitVec 2) (d : BitVec 6) (n : BitVec 14)
  /-- WRSYS (R250): Writes ga to a system register. -/
  | wrsys (s : BitVec 2) (a : BitVec 6) (n : BitVec 14)
  /-- TRAP (R250): Takes a program trap. -/
  | trap (s : BitVec 2) (c : BitVec 14)
  /-- EBREAK (R250): Takes a breakpoint trap. -/
  | ebreak (s : BitVec 2) (c : BitVec 14)
  -- X stream, vector (09)
  /-- VFADD (R298): Masked FP32 lane add. -/
  | vfadd (s : BitVec 2) (d : BitVec 5) (a : BitVec 5) (b : BitVec 5) (m : BitVec 3)
  /-- VFSUB (R298): Masked FP32 lane subtract. -/
  | vfsub (s : BitVec 2) (d : BitVec 5) (a : BitVec 5) (b : BitVec 5) (m : BitVec 3)
  /-- VFMUL (R298): Masked FP32 lane multiply. -/
  | vfmul (s : BitVec 2) (d : BitVec 5) (a : BitVec 5) (b : BitVec 5) (m : BitVec 3)
  /-- VFMIN (R298): Masked FP32 lane minimum. -/
  | vfmin (s : BitVec 2) (d : BitVec 5) (a : BitVec 5) (b : BitVec 5) (m : BitVec 3)
  /-- VFMAX (R298): Masked FP32 lane maximum. -/
  | vfmax (s : BitVec 2) (d : BitVec 5) (a : BitVec 5) (b : BitVec 5) (m : BitVec 3)
  /-- VFABS (R298): Masked FP32 lane absolute value. -/
  | vfabs (s : BitVec 2) (d : BitVec 5) (a : BitVec 5) (m : BitVec 3)
  /-- VFNEG (R298): Masked FP32 lane negation. -/
  | vfneg (s : BitVec 2) (d : BitVec 5) (a : BitVec 5) (m : BitVec 3)
  /-- VFMA (R299): Lane fused a*b+c. -/
  | vfma (s : BitVec 2) (d : BitVec 5) (a : BitVec 5) (b : BitVec 5) (c : BitVec 5)
  /-- VFMS (R299): Lane fused a*b-c. -/
  | vfms (s : BitVec 2) (d : BitVec 5) (a : BitVec 5) (b : BitVec 5) (c : BitVec 5)
  /-- VFNMA (R299): Lane fused -(a*b)+c. -/
  | vfnma (s : BitVec 2) (d : BitVec 5) (a : BitVec 5) (b : BitVec 5) (c : BitVec 5)
  /-- VFNMS (R299): Lane fused -(a*b)-c. -/
  | vfnms (s : BitVec 2) (d : BitVec 5) (a : BitVec 5) (b : BitVec 5) (c : BitVec 5)
  /-- VADD (R300): INT32 lane add. -/
  | vadd (s : BitVec 2) (d : BitVec 5) (a : BitVec 5) (b : BitVec 5) (m : BitVec 3)
  /-- VSUB (R300): INT32 lane subtract. -/
  | vsub (s : BitVec 2) (d : BitVec 5) (a : BitVec 5) (b : BitVec 5) (m : BitVec 3)
  /-- VMUL (R300): INT32 lane multiply low. -/
  | vmul (s : BitVec 2) (d : BitVec 5) (a : BitVec 5) (b : BitVec 5) (m : BitVec 3)
  /-- VMULH (R300): INT32 lane multiply high. -/
  | vmulh (s : BitVec 2) (d : BitVec 5) (a : BitVec 5) (b : BitVec 5) (m : BitVec 3)
  /-- VMIN (R300): Lane signed minimum. -/
  | vmin (s : BitVec 2) (d : BitVec 5) (a : BitVec 5) (b : BitVec 5) (m : BitVec 3)
  /-- VMAX (R300): Lane signed maximum. -/
  | vmax (s : BitVec 2) (d : BitVec 5) (a : BitVec 5) (b : BitVec 5) (m : BitVec 3)
  /-- VMINU (R300): Lane unsigned minimum. -/
  | vminu (s : BitVec 2) (d : BitVec 5) (a : BitVec 5) (b : BitVec 5) (m : BitVec 3)
  /-- VMAXU (R300): Lane unsigned maximum. -/
  | vmaxu (s : BitVec 2) (d : BitVec 5) (a : BitVec 5) (b : BitVec 5) (m : BitVec 3)
  /-- VAND (R300): Lane and. -/
  | vand (s : BitVec 2) (d : BitVec 5) (a : BitVec 5) (b : BitVec 5) (m : BitVec 3)
  /-- VOR (R300): Lane or. -/
  | vor (s : BitVec 2) (d : BitVec 5) (a : BitVec 5) (b : BitVec 5) (m : BitVec 3)
  /-- VXOR (R300): Lane exclusive or. -/
  | vxor (s : BitVec 2) (d : BitVec 5) (a : BitVec 5) (b : BitVec 5) (m : BitVec 3)
  /-- VANDN (R300): Lane and-not. -/
  | vandn (s : BitVec 2) (d : BitVec 5) (a : BitVec 5) (b : BitVec 5) (m : BitVec 3)
  /-- VADDS (R300): Lane saturating add. -/
  | vadds (s : BitVec 2) (d : BitVec 5) (a : BitVec 5) (b : BitVec 5) (m : BitVec 3)
  /-- VSUBS (R300): Lane saturating subtract. -/
  | vsubs (s : BitVec 2) (d : BitVec 5) (a : BitVec 5) (b : BitVec 5) (m : BitVec 3)
  /-- VABS (R300): Lane clamped absolute value. -/
  | vabs (s : BitVec 2) (d : BitVec 5) (a : BitVec 5) (m : BitVec 3)
  /-- VPOPC (R300): Lane population count. -/
  | vpopc (s : BitVec 2) (d : BitVec 5) (a : BitVec 5) (m : BitVec 3)
  /-- VSHL (R301): Lane shift left by lane amount. -/
  | vshl (s : BitVec 2) (d : BitVec 5) (a : BitVec 5) (b : BitVec 5) (m : BitVec 3)
  /-- VSHR (R301): Lane logical shift right. -/
  | vshr (s : BitVec 2) (d : BitVec 5) (a : BitVec 5) (b : BitVec 5) (m : BitVec 3)
  /-- VSRA (R301): Lane arithmetic shift right. -/
  | vsra (s : BitVec 2) (d : BitVec 5) (a : BitVec 5) (b : BitVec 5) (m : BitVec 3)
  /-- VROT (R301): Lane rotate right. -/
  | vrot (s : BitVec 2) (d : BitVec 5) (a : BitVec 5) (b : BitVec 5) (m : BitVec 3)
  /-- VSHLI (R301): Lane shift left by immediate. -/
  | vshli (s : BitVec 2) (d : BitVec 5) (a : BitVec 5) (n : BitVec 5) (m : BitVec 3)
  /-- VSHRI (R301): Lane logical shift right by immediate. -/
  | vshri (s : BitVec 2) (d : BitVec 5) (a : BitVec 5) (n : BitVec 5) (m : BitVec 3)
  /-- VSRAI (R301): Lane arithmetic shift right by immediate. -/
  | vsrai (s : BitVec 2) (d : BitVec 5) (a : BitVec 5) (n : BitVec 5) (m : BitVec 3)
  /-- VFEQ (R302): FP32 equal compare into a mask. -/
  | vfeq (s : BitVec 2) (d : BitVec 3) (a : BitVec 5) (b : BitVec 5) (m : BitVec 3)
  /-- VFLT (R302): FP32 less compare into a mask. -/
  | vflt (s : BitVec 2) (d : BitVec 3) (a : BitVec 5) (b : BitVec 5) (m : BitVec 3)
  /-- VFLE (R302): FP32 less-or-equal compare into a mask. -/
  | vfle (s : BitVec 2) (d : BitVec 3) (a : BitVec 5) (b : BitVec 5) (m : BitVec 3)
  /-- VFUNORD (R302): Unordered compare into a mask. -/
  | vfunord (s : BitVec 2) (d : BitVec 3) (a : BitVec 5) (b : BitVec 5) (m : BitVec 3)
  /-- VEQ (R302): INT32 equal compare. -/
  | veq (s : BitVec 2) (d : BitVec 3) (a : BitVec 5) (b : BitVec 5) (m : BitVec 3)
  /-- VNE (R302): INT32 not-equal compare. -/
  | vne (s : BitVec 2) (d : BitVec 3) (a : BitVec 5) (b : BitVec 5) (m : BitVec 3)
  /-- VLT (R302): Signed less compare. -/
  | vlt (s : BitVec 2) (d : BitVec 3) (a : BitVec 5) (b : BitVec 5) (m : BitVec 3)
  /-- VLTU (R302): Unsigned less compare. -/
  | vltu (s : BitVec 2) (d : BitVec 3) (a : BitVec 5) (b : BitVec 5) (m : BitVec 3)
  /-- VLE (R302): Signed less-or-equal compare. -/
  | vle (s : BitVec 2) (d : BitVec 3) (a : BitVec 5) (b : BitVec 5) (m : BitVec 3)
  /-- VLEU (R302): Unsigned less-or-equal compare. -/
  | vleu (s : BitVec 2) (d : BitVec 3) (a : BitVec 5) (b : BitVec 5) (m : BitVec 3)
  /-- VSEL (R303): Selects lanes of va or vb under a mask. -/
  | vsel (s : BitVec 2) (d : BitVec 5) (a : BitVec 5) (b : BitVec 5) (m : BitVec 3)
  /-- VEXP2 (R305): Correctly rounded lane 2^x. -/
  | vexp2 (s : BitVec 2) (d : BitVec 5) (a : BitVec 5) (m : BitVec 3)
  /-- VLOG2 (R305): Correctly rounded lane log2. -/
  | vlog2 (s : BitVec 2) (d : BitVec 5) (a : BitVec 5) (m : BitVec 3)
  /-- VRCP (R305): Correctly rounded lane reciprocal. -/
  | vrcp (s : BitVec 2) (d : BitVec 5) (a : BitVec 5) (m : BitVec 3)
  /-- VRSQ (R305): Correctly rounded lane reciprocal square root. -/
  | vrsq (s : BitVec 2) (d : BitVec 5) (a : BitVec 5) (m : BitVec 3)
  /-- VSQRT (R305): Correctly rounded lane square root. -/
  | vsqrt (s : BitVec 2) (d : BitVec 5) (a : BitVec 5) (m : BitVec 3)
  /-- VCVT_F32_BF16 (R307): BF16 to FP32 lanes. -/
  | vcvtF32Bf16 (s : BitVec 2) (d : BitVec 5) (a : BitVec 5) (m : BitVec 3)
  /-- VCVT_F32_F16 (R307): FP16 to FP32 lanes. -/
  | vcvtF32F16 (s : BitVec 2) (d : BitVec 5) (a : BitVec 5) (m : BitVec 3)
  /-- VCVT_F32_E4M3 (R307): E4M3 to FP32 lanes. -/
  | vcvtF32E4m3 (s : BitVec 2) (d : BitVec 5) (a : BitVec 5) (m : BitVec 3)
  /-- VCVT_F32_E5M2 (R307): E5M2 to FP32 lanes. -/
  | vcvtF32E5m2 (s : BitVec 2) (d : BitVec 5) (a : BitVec 5) (m : BitVec 3)
  /-- VCVT_F32_E2M1 (R307): E2M1 to FP32 lanes. -/
  | vcvtF32E2m1 (s : BitVec 2) (d : BitVec 5) (a : BitVec 5) (m : BitVec 3)
  /-- VCVT_BF16_F32 (R307): FP32 to BF16 with RNE. -/
  | vcvtBf16F32 (s : BitVec 2) (d : BitVec 5) (a : BitVec 5) (m : BitVec 3)
  /-- VCVT_F16_F32 (R307): FP32 to FP16 with RNE. -/
  | vcvtF16F32 (s : BitVec 2) (d : BitVec 5) (a : BitVec 5) (m : BitVec 3)
  /-- VCVT_E4M3_F32_SAT (R307): FP32 to E4M3 saturating. -/
  | vcvtE4m3F32Sat (s : BitVec 2) (d : BitVec 5) (a : BitVec 5) (m : BitVec 3)
  /-- VCVT_E4M3_F32 (R307): FP32 to E4M3 non-saturating. -/
  | vcvtE4m3F32 (s : BitVec 2) (d : BitVec 5) (a : BitVec 5) (m : BitVec 3)
  /-- VCVT_E5M2_F32_SAT (R307): FP32 to E5M2 saturating. -/
  | vcvtE5m2F32Sat (s : BitVec 2) (d : BitVec 5) (a : BitVec 5) (m : BitVec 3)
  /-- VCVT_E5M2_F32 (R307): FP32 to E5M2 non-saturating. -/
  | vcvtE5m2F32 (s : BitVec 2) (d : BitVec 5) (a : BitVec 5) (m : BitVec 3)
  /-- VCVT_E2M1_F32 (R307): FP32 to E2M1 saturating. -/
  | vcvtE2m1F32 (s : BitVec 2) (d : BitVec 5) (a : BitVec 5) (m : BitVec 3)
  /-- VCVT_F32_I32 (R307): INT32 to FP32. -/
  | vcvtF32I32 (s : BitVec 2) (d : BitVec 5) (a : BitVec 5) (m : BitVec 3)
  /-- VCVT_I32_F32 (R307): FP32 to INT32 toward zero, clamped. -/
  | vcvtI32F32 (s : BitVec 2) (d : BitVec 5) (a : BitVec 5) (m : BitVec 3)
  /-- VCVT_F32_E8M0 (R307): E8M0 to FP32. -/
  | vcvtF32E8m0 (s : BitVec 2) (d : BitVec 5) (a : BitVec 5) (m : BitVec 3)
  /-- VCVT_E8M0_F32 (R307): FP32 to E8M0 exponent code. -/
  | vcvtE8m0F32 (s : BitVec 2) (d : BitVec 5) (a : BitVec 5) (m : BitVec 3)
  /-- VCVTSR_BF16 (R309): FP32 to BF16 with SR. -/
  | vcvtsrBf16 (s : BitVec 2) (d : BitVec 5) (a : BitVec 5) (b : BitVec 5) (m : BitVec 3)
  /-- VCVTSR_F16 (R309): FP32 to FP16 with SR. -/
  | vcvtsrF16 (s : BitVec 2) (d : BitVec 5) (a : BitVec 5) (b : BitVec 5) (m : BitVec 3)
  /-- VCVTSR_E4M3_SAT (R309): FP32 to E4M3 with SR, saturating. -/
  | vcvtsrE4m3Sat (s : BitVec 2) (d : BitVec 5) (a : BitVec 5) (b : BitVec 5) (m : BitVec 3)
  /-- VCVTSR_E4M3 (R309): FP32 to E4M3 with SR. -/
  | vcvtsrE4m3 (s : BitVec 2) (d : BitVec 5) (a : BitVec 5) (b : BitVec 5) (m : BitVec 3)
  /-- VCVTSR_E5M2_SAT (R309): FP32 to E5M2 with SR, saturating. -/
  | vcvtsrE5m2Sat (s : BitVec 2) (d : BitVec 5) (a : BitVec 5) (b : BitVec 5) (m : BitVec 3)
  /-- VCVTSR_E5M2 (R309): FP32 to E5M2 with SR. -/
  | vcvtsrE5m2 (s : BitVec 2) (d : BitVec 5) (a : BitVec 5) (b : BitVec 5) (m : BitVec 3)
  /-- VCVTSR_E2M1 (R309): FP32 to E2M1 with SR. -/
  | vcvtsrE2m1 (s : BitVec 2) (d : BitVec 5) (a : BitVec 5) (b : BitVec 5) (m : BitVec 3)
  /-- VREDFADD (R310): Tree FP32 sum of active lanes. -/
  | vredfadd (s : BitVec 2) (d : BitVec 5) (a : BitVec 5) (m : BitVec 3)
  /-- VREDFMAX (R310): Tree FP32 maximum. -/
  | vredfmax (s : BitVec 2) (d : BitVec 5) (a : BitVec 5) (m : BitVec 3)
  /-- VREDFMIN (R310): Tree FP32 minimum. -/
  | vredfmin (s : BitVec 2) (d : BitVec 5) (a : BitVec 5) (m : BitVec 3)
  /-- VREDADD (R310): Tree integer sum. -/
  | vredadd (s : BitVec 2) (d : BitVec 5) (a : BitVec 5) (m : BitVec 3)
  /-- VREDMAX (R310): Tree signed maximum. -/
  | vredmax (s : BitVec 2) (d : BitVec 5) (a : BitVec 5) (m : BitVec 3)
  /-- VREDMIN (R310): Tree signed minimum. -/
  | vredmin (s : BitVec 2) (d : BitVec 5) (a : BitVec 5) (m : BitVec 3)
  /-- VREDMAXU (R310): Tree unsigned maximum. -/
  | vredmaxu (s : BitVec 2) (d : BitVec 5) (a : BitVec 5) (m : BitVec 3)
  /-- VREDMINU (R310): Tree unsigned minimum. -/
  | vredminu (s : BitVec 2) (d : BitVec 5) (a : BitVec 5) (m : BitVec 3)
  /-- VREDAND (R310): Tree and. -/
  | vredand (s : BitVec 2) (d : BitVec 5) (a : BitVec 5) (m : BitVec 3)
  /-- VREDOR (R310): Tree or. -/
  | vredor (s : BitVec 2) (d : BitVec 5) (a : BitVec 5) (m : BitVec 3)
  /-- VREDXOR (R310): Tree exclusive or. -/
  | vredxor (s : BitVec 2) (d : BitVec 5) (a : BitVec 5) (m : BitVec 3)
  /-- VROWLD (R314): Reads a tile row into a vector register. -/
  | vrowld (s : BitVec 2) (t : BitVec 6) (g : BitVec 5) (w : BitVec 4) (r : BitVec 1) (v : BitVec 5)
  /-- VROWST (R314): Writes a vector register into a tile row. -/
  | vrowst (s : BitVec 2) (t : BitVec 6) (g : BitVec 5) (r : BitVec 1) (v : BitVec 5)
  /-- VPERM (R311): Permutes lanes of two sources by an index vector. -/
  | vperm (s : BitVec 2) (d : BitVec 5) (a : BitVec 5) (b : BitVec 5) (c : BitVec 5)
  /-- VXPOSE8 (R311): Transposes four 8x8 lane blocks. -/
  | vxpose8 (s : BitVec 2) (d : BitVec 5) (a : BitVec 5)
  /-- VSRBITS (R308): Writes coordinate-keyed random bits to lanes. -/
  | vsrbits (s : BitVec 2) (d : BitVec 5) (a : BitVec 5) (b : BitVec 5) (m : BitVec 3)
  /-- VLANE (R308): Writes each lane's number. -/
  | vlane (s : BitVec 2) (d : BitVec 5) (m : BitVec 3)
  /-- MAND (R304): Mask and. -/
  | mand (s : BitVec 2) (d : BitVec 3) (a : BitVec 3) (b : BitVec 3)
  /-- MOR (R304): Mask or. -/
  | mor (s : BitVec 2) (d : BitVec 3) (a : BitVec 3) (b : BitVec 3)
  /-- MXOR (R304): Mask exclusive or. -/
  | mxor (s : BitVec 2) (d : BitVec 3) (a : BitVec 3) (b : BitVec 3)
  /-- MANDN (R304): Mask and-not. -/
  | mandn (s : BitVec 2) (d : BitVec 3) (a : BitVec 3) (b : BitVec 3)
  /-- MNOT (R304): Mask complement. -/
  | mnot (s : BitVec 2) (d : BitVec 3) (a : BitVec 3)
  /-- MFIRST (R304): Isolates the lowest set mask bit. -/
  | mfirst (s : BitVec 2) (d : BitVec 3) (a : BitVec 3)
  /-- MFROMV (R304): Mask from non-zero lanes. -/
  | mfromv (s : BitVec 2) (d : BitVec 3) (a : BitVec 5)
  /-- MTOV (R304): Vector of all-ones lanes from a mask. -/
  | mtov (s : BitVec 2) (d : BitVec 5) (a : BitVec 3)
  /-- VBCAST (R312): Broadcasts ga[31:0] to every lane. -/
  | vbcast (s : BitVec 2) (d : BitVec 5) (a : BitVec 6)
  /-- VEXT (R312): Extracts one lane into a g register. -/
  | vext (s : BitVec 2) (d : BitVec 6) (a : BitVec 5) (b : BitVec 6)
  /-- VINS (R312): Inserts ga into one lane. -/
  | vins (s : BitVec 2) (d : BitVec 5) (a : BitVec 6) (b : BitVec 6)
  /-- MCOUNT (R312): Counts set mask bits into gd. -/
  | mcount (s : BitVec 2) (d : BitVec 6) (a : BitVec 3)
  /-- MFIND (R312): Index of the lowest set mask bit into gd. -/
  | mfind (s : BitVec 2) (d : BitVec 6) (a : BitVec 3)
  -- X stream, matrix (10)
  /-- WLD (R324): Queues a preload of the shadow plane from a tile. -/
  | wld (s : BitVec 2) (t : BitVec 6) (x : BitVec 6) (w : BitVec 4) (r : BitVec 1)
  /-- WLDX (R324): Queues a preload with scales from the scale queue. -/
  | wldx (s : BitVec 2) (t : BitVec 6) (x : BitVec 6) (w : BitVec 4) (r : BitVec 1)
  /-- WSWAP (R326): Queues an exchange of the two planes. -/
  | wswap (s : BitVec 2)
  /-- ASHAPE (R327): Queues a write of the band switches. -/
  | ashape (s : BitVec 2) (k : BitVec 4)
  /-- MM (R329): Queues a product of streamed rows against the active plane. -/
  | mm (s : BitVec 2) (q : BitVec 2) (t : BitVec 6) (x : BitVec 6) (w : BitVec 4) (r : BitVec 1) (y : BitVec 1) (z : BitVec 1)
  /-- MMT (R329): Queues a transposed-orientation product. -/
  | mmt (s : BitVec 2) (q : BitVec 2) (t : BitVec 6) (x : BitVec 6) (w : BitVec 4) (r : BitVec 1) (y : BitVec 1) (z : BitVec 1)
  /-- MMU (R332): Queues a product over an unfolded convolution window. -/
  | mmu (s : BitVec 2) (q : BitVec 2) (t : BitVec 6) (g : BitVec 6) (w : BitVec 4) (r : BitVec 1) (z : BitVec 1)
  /-- MMUS (R332): Queues a product over a gathered sparse window. -/
  | mmus (s : BitVec 2) (q : BitVec 2) (t : BitVec 6) (g : BitVec 6) (w : BitVec 4) (r : BitVec 1) (z : BitVec 1)
  /-- MMZ (R333): Queues zeroing of one accumulator bank. -/
  | mmz (s : BitVec 2) (q : BitVec 2)
  /-- MMZ_ALL (R333): Queues zeroing of all four banks. -/
  | mmzAll (s : BitVec 2)
  /-- DRN_F32 (R336): Drains accumulator to FP32. -/
  | drnF32 (s : BitVec 2) (q : BitVec 2) (t : BitVec 6) (r : BitVec 1)
  /-- DRN_BF16 (R336): Drains to BF16 with RNE. -/
  | drnBf16 (s : BitVec 2) (q : BitVec 2) (t : BitVec 6) (r : BitVec 1)
  /-- DRN_BF16_SR (R336): Drains to BF16 with SR. -/
  | drnBf16Sr (s : BitVec 2) (q : BitVec 2) (t : BitVec 6) (g : BitVec 6) (r : BitVec 1)
  /-- DRN_E4M3_SAT (R336): Drains to E4M3, RNE, saturating. -/
  | drnE4m3Sat (s : BitVec 2) (q : BitVec 2) (t : BitVec 6) (r : BitVec 1)
  /-- DRN_E4M3 (R336): Drains to E4M3, RNE. -/
  | drnE4m3 (s : BitVec 2) (q : BitVec 2) (t : BitVec 6) (r : BitVec 1)
  /-- DRN_E4M3_SR_SAT (R336): Drains to E4M3, SR, saturating. -/
  | drnE4m3SrSat (s : BitVec 2) (q : BitVec 2) (t : BitVec 6) (g : BitVec 6) (r : BitVec 1)
  /-- DRN_E4M3_SR (R336): Drains to E4M3, SR. -/
  | drnE4m3Sr (s : BitVec 2) (q : BitVec 2) (t : BitVec 6) (g : BitVec 6) (r : BitVec 1)
  /-- DRN_E5M2_SAT (R336): Drains to E5M2, RNE, saturating. -/
  | drnE5m2Sat (s : BitVec 2) (q : BitVec 2) (t : BitVec 6) (r : BitVec 1)
  /-- DRN_E5M2 (R336): Drains to E5M2, RNE. -/
  | drnE5m2 (s : BitVec 2) (q : BitVec 2) (t : BitVec 6) (r : BitVec 1)
  /-- DRN_E5M2_SR_SAT (R336): Drains to E5M2, SR, saturating. -/
  | drnE5m2SrSat (s : BitVec 2) (q : BitVec 2) (t : BitVec 6) (g : BitVec 6) (r : BitVec 1)
  /-- DRN_E5M2_SR (R336): Drains to E5M2, SR. -/
  | drnE5m2Sr (s : BitVec 2) (q : BitVec 2) (t : BitVec 6) (g : BitVec 6) (r : BitVec 1)
  /-- DRN_MX8E4 (R336): Drains to MXFP8 E4M3 with RNE. -/
  | drnMx8e4 (s : BitVec 2) (q : BitVec 2) (t : BitVec 6) (r : BitVec 1)
  /-- DRN_MX8E4_SR (R336): Drains to MXFP8 E4M3 with SR. -/
  | drnMx8e4Sr (s : BitVec 2) (q : BitVec 2) (t : BitVec 6) (g : BitVec 6) (r : BitVec 1)
  /-- DRN_MX8E5 (R336): Drains to MXFP8 E5M2 with RNE. -/
  | drnMx8e5 (s : BitVec 2) (q : BitVec 2) (t : BitVec 6) (r : BitVec 1)
  /-- DRN_MX8E5_SR (R336): Drains to MXFP8 E5M2 with SR. -/
  | drnMx8e5Sr (s : BitVec 2) (q : BitVec 2) (t : BitVec 6) (g : BitVec 6) (r : BitVec 1)
  /-- DRN_MX4 (R336): Drains to MXFP4 with RNE. -/
  | drnMx4 (s : BitVec 2) (q : BitVec 2) (t : BitVec 6) (r : BitVec 1)
  /-- DRN_MX4_SR (R336): Drains to MXFP4 with SR. -/
  | drnMx4Sr (s : BitVec 2) (q : BitVec 2) (t : BitVec 6) (g : BitVec 6) (r : BitVec 1)
  /-- DRN_BX24 (R337): Drains to BX24 blocks. -/
  | drnBx24 (s : BitVec 2) (q : BitVec 2) (t : BitVec 6) (r : BitVec 1)
  /-- DRNA (R338): Drains and adds into an FP32 tile. -/
  | drna (s : BitVec 2) (q : BitVec 2) (t : BitVec 6) (w : BitVec 4) (r : BitVec 1)
  /-- MERRQ (R340): Pops the oldest matrix error-log entry. -/
  | merrq (s : BitVec 2) (d : BitVec 6)
  /-- MERRS (R340): Reads the matrix error status. -/
  | merrs (s : BitVec 2) (d : BitVec 6)
  /-- MERRC (R340): Clears STICKY and LOST. -/
  | merrc (s : BitVec 2)
  -- X stream, rings and semaphores (08 R280, R283)
  /-- RINIT_X (R281): X initialises one of its own rings. -/
  | rinitX (s : BitVec 2) (c : BitVec 6) (n : BitVec 3)
  /-- RCLAIM_X (R281): X claims a ring slot. -/
  | rclaimX (s : BitVec 2) (d : BitVec 6) (n : BitVec 6) (w : BitVec 4)
  /-- RPUB_X (R281): X publishes a claimed slot. -/
  | rpubX (s : BitVec 2) (h : BitVec 6) (n : BitVec 6)
  /-- RWAITF_X (R281): X waits for the head slot's fill. -/
  | rwaitfX (s : BitVec 2) (n : BitVec 3) (w : BitVec 4)
  /-- RREL_X (R281): X releases the head slot. -/
  | rrelX (s : BitVec 2) (n : BitVec 3)
  /-- SEMADD (R283): X adds n to a semaphore. -/
  | semadd (s : BitVec 2) (m : BitVec 6) (n : BitVec 6)
  /-- SEMCLR (R283): X clears a semaphore. -/
  | semclr (s : BitVec 2) (m : BitVec 6)
  -- abutment programs (11 R361-R366)
  /-- GLAND (R364): Abutment BxAdd of a vector into the accumulator block. -/
  | gland (v : BitVec 5)
  /-- GLRD (R364): Abutment read of the accumulator block as FP32. -/
  | glrd (v : BitVec 5)
  /-- GLST (R364): Abutment read of the block status bits. -/
  | glst (v : BitVec 5)
  /-- SKIPZ (R365): Ends the run when the block is absent from the sparse stream. -/
  | skipz
  /-- SKIPZ_ACC (R365): Ends the update run when the accumulator block is zero. -/
  | skipzAcc
  /-- ABEND (R366): Ends an abutment run. -/
  | abend
  /-- VROWLD_SLOT (R363): Abutment read of a block of a layout slot into a vector. -/
  | vrowldSlot (n : BitVec 6) (d : BitVec 5)
  /-- VROWST_SLOT (R363): Abutment write of a vector into a layout slot block. -/
  | vrowstSlot (n : BitVec 6) (d : BitVec 5)
  /-- VBCAST_CONST (R363): Abutment broadcast of an update-record constant. -/
  | vbcastConst (d : BitVec 5) (n : BitVec 4)
  -- S stream (08, 11, 12)
  /-- SADD (R259): S add. -/
  | sadd (s : BitVec 2) (d : BitVec 6) (a : BitVec 6) (b : BitVec 6)
  /-- SSUB (R259): S subtract. -/
  | ssub (s : BitVec 2) (d : BitVec 6) (a : BitVec 6) (b : BitVec 6)
  /-- SAND (R259): S and. -/
  | sand (s : BitVec 2) (d : BitVec 6) (a : BitVec 6) (b : BitVec 6)
  /-- SOR (R259): S or. -/
  | sor (s : BitVec 2) (d : BitVec 6) (a : BitVec 6) (b : BitVec 6)
  /-- SXOR (R259): S exclusive or. -/
  | sxor (s : BitVec 2) (d : BitVec 6) (a : BitVec 6) (b : BitVec 6)
  /-- SANDN (R259): S and-not. -/
  | sandn (s : BitVec 2) (d : BitVec 6) (a : BitVec 6) (b : BitVec 6)
  /-- SSHL (R259): S shift left. -/
  | sshl (s : BitVec 2) (d : BitVec 6) (a : BitVec 6) (b : BitVec 6)
  /-- SSHR (R259): S logical shift right. -/
  | sshr (s : BitVec 2) (d : BitVec 6) (a : BitVec 6) (b : BitVec 6)
  /-- SSRA (R259): S arithmetic shift right. -/
  | ssra (s : BitVec 2) (d : BitVec 6) (a : BitVec 6) (b : BitVec 6)
  /-- SMIN (R259): S signed minimum. -/
  | smin (s : BitVec 2) (d : BitVec 6) (a : BitVec 6) (b : BitVec 6)
  /-- SMAX (R259): S signed maximum. -/
  | smax (s : BitVec 2) (d : BitVec 6) (a : BitVec 6) (b : BitVec 6)
  /-- SMINU (R259): S unsigned minimum. -/
  | sminu (s : BitVec 2) (d : BitVec 6) (a : BitVec 6) (b : BitVec 6)
  /-- SMAXU (R259): S unsigned maximum. -/
  | smaxu (s : BitVec 2) (d : BitVec 6) (a : BitVec 6) (b : BitVec 6)
  /-- SADDW (R259): S 32-bit add. -/
  | saddw (s : BitVec 2) (d : BitVec 6) (a : BitVec 6) (b : BitVec 6)
  /-- SSUBW (R259): S 32-bit subtract. -/
  | ssubw (s : BitVec 2) (d : BitVec 6) (a : BitVec 6) (b : BitVec 6)
  /-- SCLZ (R259): S count of leading zeros. -/
  | sclz (s : BitVec 2) (d : BitVec 6) (a : BitVec 6)
  /-- SADDI (R259): S add immediate. -/
  | saddi (s : BitVec 2) (d : BitVec 6) (a : BitVec 6) (i : BitVec 10)
  /-- SLI (R259): S load immediate. -/
  | sli (s : BitVec 2) (d : BitVec 6) (i : BitVec 16)
  /-- SMOVK (R259): S adds rb shifted by sh to ra. -/
  | smovk (s : BitVec 2) (d : BitVec 6) (a : BitVec 6) (b : BitVec 6) (h : BitVec 4)
  /-- ST (R264): Stores 1 to 8 bytes of a source to memory. -/
  | st (s : BitVec 2) (d : BitVec 6) (a : BitVec 6) (w : BitVec 4) (z : BitVec 2) (o : BitVec 4)
  /-- TST (R272): Stores a tile's in-extent box to memory. -/
  | tst (s : BitVec 2) (t : BitVec 6) (g : BitVec 6) (w : BitVec 4) (r : BitVec 1)
  /-- TSCAT (R273): Scatters tile rows to indexed tensor rows. -/
  | tscat (s : BitVec 2) (t : BitVec 6) (g : BitVec 6) (w : BitVec 4) (r : BitVec 1)
  /-- STASH (R290): Reserves a stash-ring slot and writes a tile into it. -/
  | stash (s : BitVec 2) (t : BitVec 6) (h : BitVec 6) (w : BitVec 4) (r : BitVec 1)
  /-- STASHDROP (R290): Drops the oldest stash-ring entry. -/
  | stashdrop (s : BitVec 2) (h : BitVec 6)
  /-- ATOMNR_SWAP (R285): Non-returning atomic swap. -/
  | atomnrSwap (s : BitVec 2) (o : BitVec 1) (a : BitVec 6) (b : BitVec 6) (z : BitVec 1)
  /-- ATOMNR_CAS (R285): Non-returning compare and swap. -/
  | atomnrCas (s : BitVec 2) (o : BitVec 1) (a : BitVec 6) (b : BitVec 6) (z : BitVec 1)
  /-- ATOMNR_ADD (R285): Non-returning atomic add. -/
  | atomnrAdd (s : BitVec 2) (o : BitVec 1) (a : BitVec 6) (b : BitVec 6) (z : BitVec 1)
  /-- ATOMNR_AND (R285): Non-returning atomic and. -/
  | atomnrAnd (s : BitVec 2) (o : BitVec 1) (a : BitVec 6) (b : BitVec 6) (z : BitVec 1)
  /-- ATOMNR_OR (R285): Non-returning atomic or. -/
  | atomnrOr (s : BitVec 2) (o : BitVec 1) (a : BitVec 6) (b : BitVec 6) (z : BitVec 1)
  /-- ATOMNR_XOR (R285): Non-returning atomic exclusive or. -/
  | atomnrXor (s : BitVec 2) (o : BitVec 1) (a : BitVec 6) (b : BitVec 6) (z : BitVec 1)
  /-- ATOMNR_MIN (R285): Non-returning signed minimum. -/
  | atomnrMin (s : BitVec 2) (o : BitVec 1) (a : BitVec 6) (b : BitVec 6) (z : BitVec 1)
  /-- ATOMNR_MAX (R285): Non-returning signed maximum. -/
  | atomnrMax (s : BitVec 2) (o : BitVec 1) (a : BitVec 6) (b : BitVec 6) (z : BitVec 1)
  /-- ATOMNR_MINU (R285): Non-returning unsigned minimum. -/
  | atomnrMinu (s : BitVec 2) (o : BitVec 1) (a : BitVec 6) (b : BitVec 6) (z : BitVec 1)
  /-- ATOMNR_MAXU (R285): Non-returning unsigned maximum. -/
  | atomnrMaxu (s : BitVec 2) (o : BitVec 1) (a : BitVec 6) (b : BitVec 6) (z : BitVec 1)
  /-- ATOMNR_INCW (R285): Non-returning wrapping increment. -/
  | atomnrIncw (s : BitVec 2) (o : BitVec 1) (a : BitVec 6) (b : BitVec 6) (z : BitVec 1)
  /-- ATOMNR_DECW (R285): Non-returning wrapping decrement. -/
  | atomnrDecw (s : BitVec 2) (o : BitVec 1) (a : BitVec 6) (b : BitVec 6) (z : BitVec 1)
  /-- ATOMNR_FADDB (R285): Non-returning bounded add. -/
  | atomnrFaddb (s : BitVec 2) (o : BitVec 1) (a : BitVec 6) (b : BitVec 6) (z : BitVec 1)
  /-- ATOMNR_FADDT (R289): Non-returning add that wakes address waiters. -/
  | atomnrFaddt (s : BitVec 2) (o : BitVec 1) (a : BitVec 6) (b : BitVec 6) (z : BitVec 1)
  /-- ATOMNR_FADD_F32 (R285): Non-returning FP32 add. -/
  | atomnrFaddF32 (s : BitVec 2) (o : BitVec 1) (a : BitVec 6) (b : BitVec 6)
  /-- ATOMNR_FMAX_F32 (R285): Non-returning FP32 maximum. -/
  | atomnrFmaxF32 (s : BitVec 2) (o : BitVec 1) (a : BitVec 6) (b : BitVec 6)
  /-- NMADD (R356): Sends an FP32 add to the word's base die. -/
  | nmadd (s : BitVec 2) (d : BitVec 6) (a : BitVec 6) (w : BitVec 4) (o : BitVec 4)
  /-- NMFENCE (R357): Holds S until earlier near-memory accesses are performed. -/
  | nmfence (s : BitVec 2)
  /-- BKCOPY (R342): Queues a bank-row copy. -/
  | bkcopy (s : BitVec 2) (g : BitVec 6)
  /-- BKFILL (R539): Queues a bank-row fill with a constant or pattern row. -/
  | bkfill (s : BitVec 2) (g : BitVec 6)
  /-- BKAND (R342): Queues a bank-row and. -/
  | bkand (s : BitVec 2) (g : BitVec 6)
  /-- BKOR (R342): Queues a bank-row or. -/
  | bkor (s : BitVec 2) (g : BitVec 6)
  /-- BKNOT (R342): Queues a bank-row complement. -/
  | bknot (s : BitVec 2) (g : BitVec 6)
  /-- BKMAJ (R342): Queues a bank-row bitwise majority. -/
  | bkmaj (s : BitVec 2) (g : BitVec 6)
  /-- BKWAIT (R354): Gates S on a semaphore count and subtracts it. -/
  | bkwait (s : BitVec 2) (m : BitVec 6) (n : BitVec 6) (w : BitVec 4)
  /-- SEMSIG (R283): S adds n to a semaphore after its earlier stores. -/
  | semsig (s : BitVec 2) (m : BitVec 6) (n : BitVec 6)
  /-- DISCARD (R176): Drops cantilever lines or cleans and invalidates a range. -/
  | discard (s : BitVec 2) (a : BitVec 6) (b : BitVec 6)
  /-- CLEAN (R291): Writes back dirty LLC lines of a range. -/
  | clean (s : BitVec 2) (a : BitVec 6) (b : BitVec 6)
  /-- CRS (R388): Starts a reduce-scatter collective. -/
  | crs (s : BitVec 2) (g : BitVec 6) (w : BitVec 4)
  /-- CRSL (R390): Starts a reduce-scatter into landing records. -/
  | crsl (s : BitVec 2) (g : BitVec 6) (w : BitVec 4)
  /-- CAG (R391): Starts an all-gather collective. -/
  | cag (s : BitVec 2) (g : BitVec 6) (w : BitVec 4)
  /-- CPUT (R392): Starts a write to a remote window. -/
  | cput (s : BitVec 2) (g : BitVec 6) (w : BitVec 4)
  /-- CGET (R392): Starts a read from a remote window. -/
  | cget (s : BitVec 2) (g : BitVec 6) (w : BitVec 4)
  /-- CWAIT (R393): Registers on a fabric semaphore and waits for a threshold. -/
  | cwait (s : BitVec 2) (a : BitVec 6) (t : BitVec 6) (w : BitVec 4)
  -- steps without an encoding (95)
  /-- BUNDLE_FETCH (R179): A walker fetches and reaches a bundle, issuing or passing its part. -/
  | bundleFetch (core : Nat) (w : Walker)
  /-- LOAD_DATA_ARRIVAL (R56): Load data arrive and fill the reserved LQ entry or register. -/
  | loadDataArrival (core : Nat)
  /-- PROGRESS_TRAP (R67): A wait count exceeds its budget and the walker traps. -/
  | progressTrap (core : Nat) (w : Walker)
  /-- TILE_FILL (R116): A tile write's last byte lands and F rises. -/
  | tileFill (core : Nat)
  /-- SCALE_ENTRY_VISIBLE (R325): A TLDSC completes and its scale entry becomes visible to X. -/
  | scaleEntryVisible (core : Nat)
  /-- CORE_COMPLETE (R222): A core completes once all walkers ended and its release and clean are done. -/
  | coreComplete (core : Nat)
  /-- BARRIER_ARRIVAL_SIGNAL (R233): A core's arrival release completes and is signalled to the gang. -/
  | barrierArrivalSignal (core : Nat)
  /-- CARVE_STEP_MOVE_DONE (R130): One carve step finishes its move and leaves motion. -/
  | carveStepMoveDone (gang : Nat)
  /-- MATRIX_DISPATCH (R320): The matrix queue dispatches its oldest syllable when its condition holds. -/
  | matrixDispatch (core : Nat)
  /-- PRELOAD_COMPLETE (R324): A preload finishes writing the shadow plane and releases its tile. -/
  | preloadComplete (core : Nat)
  /-- STREAM_LAST_ROW (R321): A streaming syllable streams its last row and releases its tiles. -/
  | streamLastRow (core : Nat)
  /-- MATRIX_COMPLETE (R321): A compute-path syllable completes with its fills and semaphore. -/
  | matrixComplete (core : Nat)
  /-- BAND_READY (R327): A switched-on band becomes ready 200 cycles later. -/
  | bandReady (core : Nat)
  /-- CHANNEL_GRANULE_WRITE (R139): A copy granule is written and the watermark may advance. -/
  | channelGranuleWrite (core ch gran : Nat)
  /-- CHANNEL_COMPLETE (R279): A channel command completes, fills, signals and goes idle. -/
  | channelComplete (core ch : Nat)
  /-- CHANNEL_HALT (R279): An in-flight access fails and the channel halts. -/
  | channelHalt (core ch : Nat)
  /-- NMADD_ACCEPT (R169): The home slice accepts an NMADD after writing back the line. -/
  | nmaddAccept (core : Nat)
  /-- NMADD_APPLY (R356): The base die applies an FP32 add to the word. -/
  | nmaddApply (core : Nat)
  /-- BANK_COMMAND_START (R346): A queued bank command starts when its predecessors are done. -/
  | bankCommandStart (core : Nat)
  /-- BANK_ROW (R348): One destination row is written on the fast or fallback path. -/
  | bankRow (core row : Nat)
  /-- BANK_COMMAND_COMPLETE (R352): A bank command writes its last row and drops its pins. -/
  | bankCommandComplete (core : Nat)
  /-- BANK_COMPLETION_RECORD (R352): The completion record is written and reported to the keystone. -/
  | bankCompletionRecord (core : Nat)
  /-- LANDING_SHARD_ARRIVE (R371): A gradient shard reaches a landing record. -/
  | landingShardArrive (part : Nat) (rec : BitVec 52) (mb : BitVec 16) (vals : List (BitVec 32)) (src : Option (Nat × Nat))
  /-- LANDING_SHARD_APPLY (R371): A held shard is applied when CNT reaches its micro-batch. -/
  | landingShardApply (idx : Nat)
  /-- ABUTMENT_RUN (R360): An abutment engine runs a program on one block. -/
  | abutmentRun (idx blk : Nat)
  /-- GEN_BEGIN (R376): The update proceeds once readers of the target slot are gone. -/
  | genBegin (idx : Nat)
  /-- UPDATE_END (R372): All update runs end; generation published and DONEW raised. -/
  | updateEnd (idx : Nat)
  /-- COLL_PARTICIPANTS_MEET (R381): Matching collectives meet and disagreements end them with code 2. -/
  | collParticipantsMeet (core slot : Nat) (peers : List PeerColl)
  /-- FLIT_RECEIVE (R396): A Dvoruno link delivers a flit. -/
  | flitReceive (core slot : Nat) (flit : Flit)
  /-- LINK_FAILURE (R396): A link fails retraining and ends collectives with code 6. -/
  | linkFailure (link : Nat)
  /-- REMOTE_WINDOW_ACCESS (R392): A remote CPUT write or CGET read is served in the target window. -/
  | remoteWindowAccess (fctx : BitVec 16) (win : BitVec 8) (off : BitVec 48) (op : RemoteOp)
  /-- REMOTE_SIGNAL_RAISE (R392): The target raises the RSOFF word after all remote writes. -/
  | remoteSignalRaise (fctx : BitVec 16) (win : BitVec 8) (off : BitVec 48)
  /-- COLL_COMPLETE (R386): A collective completes: status written and CSEM raised. -/
  | collComplete (core slot : Nat)
  /-- COLL_HELD (R397): A translation failure in flight holds a collective. -/
  | collHeld (core slot : Nat)
  /-- RDMA_WRITE (R529): The host port performs an RDMA WRITE. -/
  | rdmaWrite (port : QueuePair) (va : BitVec 52) (data : List (BitVec 8))
  /-- RDMA_READ (R529): The host port serves an RDMA READ. -/
  | rdmaRead (part : Nat) (va : BitVec 52) (len : Nat)
  /-- MGMT_CONNECT (R530): A management connection is accepted or refused. -/
  | mgmtConnect
  /-- MGMT_CS_READ (R530): TYPE 1 control-space read, and every request of a TYPE that has no row; `rsv`: a reserved bit of the header is set. -/
  | mgmtCsRead (head : RawHead) (off : BitVec 64)
  /-- MGMT_CS_WRITE (R530): TYPE 2 control-space write. -/
  | mgmtCsWrite (head : ReqHead) (off data : BitVec 64)
  /-- IMAGE_CHUNK (R534): TYPE 5 writes an image chunk to flash. -/
  | imageChunk (head : ReqHead) (off : BitVec 64) (data : List (BitVec 8))
  /-- IMAGE_COMMIT (R534): TYPE 6 commits the image and resets the module. -/
  | imageCommit (head : ReqHead) (env : BootEnv)
  /-- ATTESTATION (R535): TYPE 7 returns the log and a signature over the nonce. -/
  | attestation (head : ReqHead) (nonce : List (BitVec 8))
  /-- VERSION_REPORT (R538): TYPE 8 returns the version report. -/
  | versionReport (head : ReqHead)
  /-- STORAGE_CONNECTION (R530): TYPE 9 connects a storage target. -/
  | storageConnection (head : ReqHead) (tgt : BitVec 64) (addr : List (BitVec 8)) (big : Bool)
  /-- MODULE_RESET (R531): Power-on, pin or commit reset runs boot. -/
  | moduleReset (env : BootEnv)
  /-- KERNEL_LAUNCH (R455): A kind-1 launch record is checked and accepted or refused. -/
  | kernelLaunch (wq : Nat)
  /-- GRAPH_LAUNCH (R460): A kind-2 record launches a graph instance. -/
  | graphLaunch (wq : Nat)
  /-- GRAPH_SEAL (R463): A kind-3 record seals a new graph version. -/
  | graphSeal (wq : Nat)
  /-- INSTANCE_END (R456): An instance ends: status written and DONE raised. -/
  | instanceEnd (inst : Nat)
  /-- GRAPH_INSTANCE_START (R460): A waiting graph instance starts when a slot frees. -/
  | graphInstanceStart (gi : Nat)
  /-- NODE_KERNEL (R461): A kernel node runs an instance of its template. -/
  | nodeKernel (gi node : Nat)
  /-- NODE_CONDITIONAL (R461): A conditional node reads its word and takes edges. -/
  | nodeConditional (gi node : Nat)
  /-- NODE_SWITCH (R461): A switch node selects edges by its word. -/
  | nodeSwitch (gi node : Nat)
  /-- NODE_LOOP (R461): A loop node runs its body while its word is non-zero. -/
  | nodeLoop (gi node : Nat)
  /-- NODE_BANK_COMPLETION (R461): Resolves once the source instance's bank commands are reported. -/
  | nodeBankCompletion (gi node : Nat)
  /-- NODE_COLLECTIVE_COMPLETION (R461): Resolves when its word reaches the threshold. -/
  | nodeCollectiveCompletion (gi node : Nat)
  /-- NODE_STORAGE_TRANSFER (R537): Runs an NVMe-oF transfer. -/
  | nodeStorageTransfer (gi node : Nat)
  /-- NODE_HOST_SIGNAL (R461): Posts VALUE to the host. -/
  | nodeHostSignal (gi node : Nat)
  /-- NVME_COMMAND_END (R537): One NVMe command of a transfer ends. -/
  | nvmeCommandEnd (xfer cmd : Nat) (status : BitVec 16) (data : List (BitVec 8))
  /-- AGEING_TICK (R465): 100 µs tick ages ready queues. -/
  | ageingTick (part : Nat)
  /-- GANG_BIND (R465): The keystone binds the head gang of the highest level. -/
  | gangBind (part : Nat)
  /-- PREEMPT_SELECT (R466): The keystone pre-empts lower-level gangs to free a cluster. -/
  | preemptSelect (part : Nat)
  /-- SLOT_BIND (R468): Firmware writes BIND to a slot. -/
  | slotBind (core : Nat) (w0 w1 w2 w3 w4 w5 w6 : BitVec 64)
  /-- SLOT_FREE (R468): Firmware writes FREE to a bound slot. -/
  | slotFree (core : Nat)
  /-- SLOT_PREEMPT (R469): Firmware writes PREEMPT and the gang runs to pre-emption points. -/
  | slotPreempt (core : Nat)
  /-- SLOT_KILL (R468): Firmware writes KILL and walkers stop unsaved. -/
  | slotKill (core : Nat)
  /-- GANG_START (R468): Dispatch starts a gang once all its slots hold BIND. -/
  | gangStart (core : Nat)
  /-- SAVE_COMPLETE (R469): The context save ends and the slots go free. -/
  | saveComplete (core : Nat) (failed : Bool)
  /-- DEADLINE_OVERRUN (R469): A pre-emption exceeds its deadline and is reported. -/
  | deadlineOverrun (core : Nat)
  /-- PART_WRITE (R440): A checked write to a partition register. -/
  | partWrite (n w : Nat) (data : BitVec 64)
  /-- FDSTAT_CLEAR (R451): A write of 1 clears a failed domain after terminations end. -/
  | fdstatClear (n : Nat) (data : BitVec 64)
  /-- XL_WRITE (R473): A write to a translation context, ROOT deferred to a shootdown. -/
  | xlWrite (n w : Nat) (data : BitVec 64)
  /-- SHOOTDOWN_START (R484): GO starts a shootdown of a range. -/
  | shootdownStart (w0 : BitVec 64)
  /-- SHOOTDOWN_COMPLETE (R485): All entries dropped and accesses drained; BUSY clears. -/
  | shootdownComplete
  /-- MIGR_MOVE_FRAME (R494): OP 1 moves a page to a new frame. -/
  | migrMoveFrame (w0 : BitVec 64)
  /-- MIGR_MOVE_CANT (R501): OP 2 moves a cantilever page to another die. -/
  | migrMoveCant (w0 : BitVec 64)
  /-- MIGR_EVICT_CANT (R498): OP 3 evicts a cantilever page under its policy. -/
  | migrEvictCant (w0 : BitVec 64)
  /-- MIGR_BACK_CANT (R500): OP 4 backs a cantilever page with a frame. -/
  | migrBackCant (w0 : BitVec 64)
  /-- MIGR_DROP_CANT (R497): OP 5 drops a cantilever page's lines. -/
  | migrDropCant (w0 : BitVec 64)
  /-- MIGR_COMPLETE (R494): A page move finishes its copy and releases held accesses. -/
  | migrComplete
  /-- LINE_WRITEBACK (R132): A dirty line is written back or refused for want of a collision entry. -/
  | lineWriteback (pa : Nat) (page : PageAddr) (fits : Bool)
  /-- EVENT_POST_DEFERRED (R503): A waiting stop event is written once room appears. -/
  | eventPostDeferred (queue : Nat)
  /-- SVC_RESUME (R508): OP 1 reissues every stopped walker of a core. -/
  | svcResume (w0 : BitVec 64)
  /-- SVC_CHANNEL_RESUME (R508): OP 2 resumes a halted channel from its watermark. -/
  | svcChannelResume (w0 : BitVec 64)
  /-- SVC_CHANNEL_IDLE (R508): OP 3 makes a halted channel idle. -/
  | svcChannelIdle (w0 : BitVec 64)
  /-- SVC_COLL_CONTINUE (R508): OP 4 lets a held collective continue. -/
  | svcCollContinue (w0 : BitVec 64)
  /-- SVC_COLL_ABORT (R397): OP 5 ends a held collective with code 5 on every participant. -/
  | svcCollAbort (w0 : BitVec 64)
  /-- SVC_TERMINATE (R508): OP 6 terminates the instance with END 4. -/
  | svcTerminate (w0 : BitVec 64)
  /-- SVC_PREEMPT (R508): OP 7 pre-empts the gang of a core. -/
  | svcPreempt (w0 : BitVec 64)
  /-- PWRCFG_WRITE (R520): A checked write of power configuration, applied within 1 ms. -/
  | pwrcfgWrite (data : BitVec 64)
  /-- DROOP_DETECT (R518): Supply droop stretches a cluster's clock. -/
  | droopDetect (cluster : Nat)
  /-- THERMAL_REFRESH (R521): Every 1 ms zone sensors refresh and hot zones throttle. -/
  | thermalRefresh (zones : List ZoneReading) (power : BitVec 16)
  /-- THROTTLE_DECAY (R523): Every 10 ms a cooled zone's throttle falls by one. -/
  | throttleDecay (zone : Nat)
  /-- HOT_PAGE_MOVE (R525): In STACK mode one page per ms moves off a hot stack. -/
  | hotPageMove (stack : Nat)
  /-- HBM_SCRUB (R517): Patrol scrub reads and corrects an HBM line. -/
  | hbmScrub (pa : Nat) (found : ScrubFinding)
  /-- SRAM_SCRUB (R516): Patrol scrub of LLC, carve-out and cantilever lines. -/
  | sramScrub (core : Nat) (at' : SramAt) (found : ScrubFinding)
  /-- HBM_REFRESH (R516): Temperature-compensated DRAM refresh. -/
  | hbmRefresh (stack : Nat)
  /-- HBM_RETRAIN (R516): A stack retraining window holds its accesses. -/
  | hbmRetrain (stack : Nat)
  /-- LINK_RETRAIN (R516): A link retrains while flits wait. -/
  | linkRetrain (link : Nat)
  /-- CORRECTED_SUMMARY (R510): Once per second per unit, a corrected-error summary is posted. -/
  | correctedSummary (unit : BitVec 4) (stack : BitVec 4) (frame : BitVec 28) (off : BitVec 16)
  /-- REGISTER_WRITE (R438): A write to a control-space register with no row of its own; or a load by a hart, of a number of bytes. -/
  | registerWrite (acc : CsAccess) (data : BitVec 64)
  /-- STORE_PERFORMED (R147): A store-class access writes its last byte at its point of coherence; releases and SEMSIG waiting on it may then complete. -/
  | storePerformed (core : Nat)
  /-- SUPPLY_RECOVERED (R518): The supply recovers and the droop detector ends the stretch of its cluster's clock. -/
  | supplyRecovered (cluster : Nat) (stretched : BitVec 32)
  /-- MGMT_CONNECTION_CLOSED (R530): The single management connection ends, so that a new one may be accepted. -/
  | mgmtConnectionClosed
  /-- STORAGE_CONNECTION_LOST (R536): A TYPE 9 storage connection stops holding and STGT.UP clears. -/
  | storageConnectionLost (tgt : Nat)
  /-- POWER_LOSS (R534): Power is lost, possibly during an image commit, leaving flash that fails verification. -/
  | powerLoss (torn : Bool)
  deriving DecidableEq, Repr

end Sys2Proof
end

