-- ==== Sys2Proof/Word.lean ====
section
/-! DEFINITION. The words of the machine (00 R7, 01 R31): bytes, syllables, 64-bit registers and the fixed address widths
of 04 R108 and R109. -/

namespace Sys2Proof

/-- One byte. -/
abbrev Byte := BitVec 8
/-- A syllable, a vector lane, an FP32 value: 32 bits. -/
abbrev W32 := BitVec 32
/-- A register, a descriptor word, a control-space register: 64 bits. -/
abbrev W64 := BitVec 64
/-- A virtual address: 52 bits (R108). -/
abbrev VA := BitVec 52

end Sys2Proof
end

