-- ==== Sys2Proof/Machine/Codes.lean ====
section
/-! DEFINITION. Which operand codes each instruction accepts (06 R186-R188, 08 R255, and the entries), which field is extensible
(R189, R190), to which stream a syllable belongs, and which syllables a PLOOP body may not hold (R65). -/

namespace Sys2Proof.Machine

/-- The lowest of the causes that apply. -/
def minCause : List (Option Nat) → Option Nat
  | [] => none
  | none :: r => minCause r
  | some c :: r =>
    match minCause r with
    | none => some c
    | some d => some (min c d)

/-- K source (R217): k0-k15, lc0-lc3. -/
def kSrc (c : BitVec 6) : Option Nat := if c.toNat < 20 then none else some 4
/-- K destination (R217): k0-k15; an lc register is cause 11. -/
def kDst (c : BitVec 6) : Option Nat := if c.toNat < 16 then none else if c.toNat < 20 then some 11 else some 4
/-- A source (R186, R187): a, k, lc; LQ is cause 11. -/
def aSrc (c : BitVec 6) : Option Nat :=
  if c.toNat < 52 then none else if c.toNat = 63 then some 11 else some 4
/-- A destination (R187): a0-a31. -/
def aDst (c : BitVec 6) : Option Nat :=
  if c.toNat < 32 then none else if c.toNat < 52 ∨ c.toNat = 63 then some 11 else some 4
/-- Destination of LD (R261): a0-a31 or LQ. -/
def ldDst (c : BitVec 6) : Option Nat := if c.toNat = 63 then none else aDst c
/-- S source (R186): s, k, lc, SQ. -/
def sSrc (c : BitVec 6) : Option Nat :=
  if c.toNat < 16 then none else if c.toNat < 32 then some 4 else if c.toNat < 52 ∨ c.toNat = 63 then none else some 4
/-- S destination (R187): s0-s15. -/
def sDst (c : BitVec 6) : Option Nat :=
  if c.toNat < 16 then none else if c.toNat < 32 then some 4 else if c.toNat < 52 ∨ c.toNat = 63 then some 11 else some 4
/-- Operand group of length n in A (R255). -/
def aGrp (n : Nat) (c : BitVec 6) : Option Nat :=
  if (1 ≤ c.toNat ∧ c.toNat + n ≤ 32) ∨ (33 ≤ c.toNat ∧ c.toNat + n ≤ 48) then none else some 4
/-- Operand group of length n in S (R255). -/
def sGrp (n : Nat) (c : BitVec 6) : Option Nat :=
  if (1 ≤ c.toNat ∧ c.toNat + n ≤ 16) ∨ (33 ≤ c.toNat ∧ c.toNat + n ≤ 48) then none else some 4
/-- Source of a syllable that A (x = 0) or S (x = 1) issues. -/
def asSrc (x : BitVec 1) (c : BitVec 6) : Option Nat := if x = 0#1 then aSrc c else sSrc c
/-- Destination of a syllable that A or S issues. -/
def asDst (x : BitVec 1) (c : BitVec 6) : Option Nat := if x = 0#1 then aDst c else sDst c
/-- A semaphore code (R188, R283). -/
def semCode (c : BitVec 6) : Option Nat := if c.toNat < 32 then none else some 4
/-- A semaphore field of a matrix syllable (R322): SEM is 0 when SIG is 0. -/
def semField (x : BitVec 6) : Option Nat :=
  if x.getLsbD 5 = false ∧ x.extractLsb' 0 5 ≠ 0#5 then some 5 else none
/-- A register pair gN, gN+1 (R322). -/
def gPair (c : BitVec 6) : Option Nat := if c.toNat = 63 then some 4 else none
/-- A bit that must be 0 under a condition, else cause 5. -/
def rsvIf (b : Bool) : Option Nat := if b then some 5 else none

/-- The system-register numbers of R251. -/
def sysAssigned (n : BitVec 14) : Bool :=
  let k := n.toNat
  (k < 0x0F) || (0x10 ≤ k && k < 0x34 ) || (0x40 ≤ k && k < 0xE8) || (0x100 ≤ k && k < 0x120)

/-- The g registers that a syllable reads or writes in its part (R218). MERRQ and MERRS write theirs later, in the order of the matrix queue
(R320). -/
def gRegsOf : Instr → List (BitVec 6)
  | .add _ d a b | .sub _ d a b | .and _ d a b | .or _ d a b | .xor _ d a b | .andn _ d a b | .shl _ d a b | .shr _ d a b | .sra _ d a b
  | .min _ d a b | .max _ d a b | .minu _ d a b | .maxu _ d a b | .addw _ d a b | .subw _ d a b | .mul _ d a b | .mulh _ d a b | .mulhu _ d a b
  | .mulhsu _ d a b | .div _ d a b | .divu _ d a b | .rem _ d a b | .remu _ d a b | .mulw _ d a b | .divw _ d a b | .divuw _ d a b | .remw _ d a b
  | .remuw _ d a b | .seq _ d a b | .sne _ d a b | .slt _ d a b | .sltu _ d a b | .sle _ d a b | .sleu _ d a b | .sel _ d a b | .fadd _ d a b
  | .fsub _ d a b | .fmul _ d a b | .fmac _ d a b | .fmin _ d a b | .fmax _ d a b | .feq _ d a b | .flt _ d a b | .fle _ d a b => [d, a, b]
  | .clz _ d a | .fcvtif _ d a | .fcvtfi _ d a | .fabs _ d a | .fneg _ d a => [d, a]
  | .addi _ d a _ => [d, a]
  | .andi _ d _ | .ori _ d _ | .xori _ d _ | .andni _ d _ | .shli _ d _ | .shri _ d _ | .srai _ d _ | .rori _ d _ | .li _ d _ | .popl _ d _
  | .rdsys _ d _ | .mcount _ d _ | .mfind _ d _ => [d]
  | .pushs _ g | .pusha _ g | .pushb _ g | .pushk _ g | .chk _ g => [g]
  | .qpopf _ d b _ => [d, b]
  | .wrsys _ a _ => [a]
  | .vrowld _ _ g _ _ _ => [g.setWidth 6]
  | .vrowst _ _ g _ _ => [g.setWidth 6]
  | .vbcast _ _ a => [a]
  | .vext _ d _ b => [d, b]
  | .vins _ _ a b => [a, b]
  | .mmu _ _ _ g _ _ _ | .mmus _ _ _ g _ _ _ => [g, g + 1]
  | .drnBf16Sr _ _ _ g _ | .drnE4m3SrSat _ _ _ g _ | .drnE4m3Sr _ _ _ g _ | .drnE5m2SrSat _ _ _ g _ | .drnE5m2Sr _ _ _ g _ | .drnMx8e4Sr _ _ _ g _
  | .drnMx8e5Sr _ _ _ g _ | .drnMx4Sr _ _ _ g _ => [g]
  | .rinitX _ c _ => [c]
  | .rclaimX _ d n _ => [d, n]
  | .rpubX _ h n => [h, n]
  | _ => []

end Sys2Proof.Machine

namespace Sys2Proof
open Machine

/-- The lowest cause of R205 among 3, 4, 5 and 11 that an operand field of the instruction gives; LDS accepts only LQ (its destination
code is part of its word). -/
def Instr.operandCause : Instr → Option Nat
  | .kset _ d _ => minCause [kDst d]
  | .kaddi _ d a _ => minCause [kDst d, kSrc a]
  | .kadd _ d a b => minCause [kDst d, kSrc a, kSrc b]
  | .ksub _ d a b => minCause [kDst d, kSrc a, kSrc b]
  | .kand _ d a b => minCause [kDst d, kSrc a, kSrc b]
  | .kor _ d a b => minCause [kDst d, kSrc a, kSrc b]
  | .kxor _ d a b => minCause [kDst d, kSrc a, kSrc b]
  | .kandn _ d a b => minCause [kDst d, kSrc a, kSrc b]
  | .kshl _ d a b => minCause [kDst d, kSrc a, kSrc b]
  | .kshr _ d a b => minCause [kDst d, kSrc a, kSrc b]
  | .ksra _ d a b => minCause [kDst d, kSrc a, kSrc b]
  | .kmin _ d a b => minCause [kDst d, kSrc a, kSrc b]
  | .kmax _ d a b => minCause [kDst d, kSrc a, kSrc b]
  | .kminu _ d a b => minCause [kDst d, kSrc a, kSrc b]
  | .kmaxu _ d a b => minCause [kDst d, kSrc a, kSrc b]
  | .kaddw _ d a b => minCause [kDst d, kSrc a, kSrc b]
  | .ksubw _ d a b => minCause [kDst d, kSrc a, kSrc b]
  | .kclz _ d a => minCause [kDst d, kSrc a]
  | .kmovq _ d _ => minCause [kDst d]
  | .loop _ c i _ => minCause [(if i = 1#1 then none else kSrc c)]
  | .ploop _ c _ i _ => minCause [(if i = 1#1 then none else kSrc c)]
  | .beqz _ a _ => minCause [kSrc a]
  | .bnez _ a _ => minCause [kSrc a]
  | .bltz _ a _ => minCause [kSrc a]
  | .bgez _ a _ => minCause [kSrc a]
  | .bgtz _ a _ => minCause [kSrc a]
  | .blez _ a _ => minCause [kSrc a]
  | .barw _ a _ => minCause [kSrc a]
  | .tdef _ _ a => minCause [kSrc a]
  | .budget _ n _ => minCause [(if n = 0#4 then some 4 else none)]
  | .kseed _ a => minCause [kSrc a]
  | .kseedx _ a => minCause [kSrc a]
  | .aadd _ d a b => minCause [aDst d, aSrc a, aSrc b]
  | .asub _ d a b => minCause [aDst d, aSrc a, aSrc b]
  | .aand _ d a b => minCause [aDst d, aSrc a, aSrc b]
  | .aor _ d a b => minCause [aDst d, aSrc a, aSrc b]
  | .axor _ d a b => minCause [aDst d, aSrc a, aSrc b]
  | .aandn _ d a b => minCause [aDst d, aSrc a, aSrc b]
  | .ashl _ d a b => minCause [aDst d, aSrc a, aSrc b]
  | .ashr _ d a b => minCause [aDst d, aSrc a, aSrc b]
  | .asra _ d a b => minCause [aDst d, aSrc a, aSrc b]
  | .amin _ d a b => minCause [aDst d, aSrc a, aSrc b]
  | .amax _ d a b => minCause [aDst d, aSrc a, aSrc b]
  | .aminu _ d a b => minCause [aDst d, aSrc a, aSrc b]
  | .amaxu _ d a b => minCause [aDst d, aSrc a, aSrc b]
  | .aaddw _ d a b => minCause [aDst d, aSrc a, aSrc b]
  | .asubw _ d a b => minCause [aDst d, aSrc a, aSrc b]
  | .aclz _ d a => minCause [aDst d, aSrc a]
  | .aaddi _ d a _ => minCause [aDst d, aSrc a]
  | .ali _ d _ => minCause [aDst d]
  | .amovk _ d a b _ => minCause [aDst d, aSrc a, aSrc b]
  | .aqpop _ d _ => minCause [aDst d]
  | .ld _ d a b z x c => minCause [ldDst d, aSrc a, (if c = 1#1 then aSrc b else none), rsvIf (z == 3#2 && x == 1#1)]
  | .lds _ a b z x c => minCause [aSrc a, (if c = 1#1 then aSrc b else none), rsvIf (z == 3#2 && x == 1#1)]
  | .tld _ _ g => minCause [aGrp 3 g]
  | .tldp _ _ g => minCause [aGrp 4 g]
  | .tlds _ _ g => minCause [aGrp 3 g]
  | .tldsc _ _ g => minCause [aGrp 3 g]
  | .tcopy _ g _ _ => minCause [aGrp 4 g]
  | .tgath _ g _ _ => minCause [aGrp 5 g]
  | .tgathTile _ _ g _ _ => minCause [aGrp 5 g]
  | .txp _ g _ _ => minCause [aGrp 4 g]
  | .txpTile _ _ g _ _ => minCause [aGrp 4 g]
  | .atomSwap _ _ a b _ => minCause [aSrc a, aSrc b]
  | .atomCas _ _ a b _ => minCause [aSrc a, aGrp 2 b]
  | .atomAdd _ _ a b _ => minCause [aSrc a, aSrc b]
  | .atomAnd _ _ a b _ => minCause [aSrc a, aSrc b]
  | .atomOr _ _ a b _ => minCause [aSrc a, aSrc b]
  | .atomXor _ _ a b _ => minCause [aSrc a, aSrc b]
  | .atomMin _ _ a b _ => minCause [aSrc a, aSrc b]
  | .atomMax _ _ a b _ => minCause [aSrc a, aSrc b]
  | .atomMinu _ _ a b _ => minCause [aSrc a, aSrc b]
  | .atomMaxu _ _ a b _ => minCause [aSrc a, aSrc b]
  | .atomIncw _ _ a b _ => minCause [aSrc a, aSrc b]
  | .atomDecw _ _ a b _ => minCause [aSrc a, aSrc b]
  | .atomFaddb _ _ a b _ => minCause [aSrc a, aGrp 2 b]
  | .atomFaddt _ _ a b _ => minCause [aSrc a, aSrc b]
  | .atomFaddF32 _ _ a b => minCause [aSrc a, aSrc b]
  | .atomFmaxF32 _ _ a b => minCause [aSrc a, aSrc b]
  | .await _ a t _ _ => minCause [aSrc a, aSrc t]
  | .pref _ _ a b _ c => minCause [aSrc a, (if c = 1#1 then aSrc b else none)]
  | .rinit x _ c _ => minCause [asSrc x c]
  | .rclaim x _ d n _ => minCause [asDst x d, asSrc x n]
  | .rpub x _ h n => minCause [asSrc x h, asSrc x n]
  | .nmred _ _ g => minCause [aGrp 3 g]
  | .invl1r _ a b => minCause [aSrc a, aSrc b]
  | .rdsys _ _ n => minCause [(if sysAssigned n then none else some 3)]
  | .wrsys _ _ n => minCause [(if sysAssigned n then none else some 3)]
  | .wld _ _ x _ _ => minCause [semField x]
  | .wldx _ _ x _ _ => minCause [semField x]
  | .mm _ _ _ x _ _ _ _ => minCause [semField x]
  | .mmt _ _ _ x _ _ _ _ => minCause [semField x]
  | .mmu _ _ _ g _ _ _ => minCause [gPair g]
  | .mmus _ _ _ g _ _ _ => minCause [gPair g]
  | .semadd _ m _ => minCause [semCode m]
  | .semclr _ m => minCause [semCode m]
  | .sadd _ d a b => minCause [sDst d, sSrc a, sSrc b]
  | .ssub _ d a b => minCause [sDst d, sSrc a, sSrc b]
  | .sand _ d a b => minCause [sDst d, sSrc a, sSrc b]
  | .sor _ d a b => minCause [sDst d, sSrc a, sSrc b]
  | .sxor _ d a b => minCause [sDst d, sSrc a, sSrc b]
  | .sandn _ d a b => minCause [sDst d, sSrc a, sSrc b]
  | .sshl _ d a b => minCause [sDst d, sSrc a, sSrc b]
  | .sshr _ d a b => minCause [sDst d, sSrc a, sSrc b]
  | .ssra _ d a b => minCause [sDst d, sSrc a, sSrc b]
  | .smin _ d a b => minCause [sDst d, sSrc a, sSrc b]
  | .smax _ d a b => minCause [sDst d, sSrc a, sSrc b]
  | .sminu _ d a b => minCause [sDst d, sSrc a, sSrc b]
  | .smaxu _ d a b => minCause [sDst d, sSrc a, sSrc b]
  | .saddw _ d a b => minCause [sDst d, sSrc a, sSrc b]
  | .ssubw _ d a b => minCause [sDst d, sSrc a, sSrc b]
  | .sclz _ d a => minCause [sDst d, sSrc a]
  | .saddi _ d a _ => minCause [sDst d, sSrc a]
  | .sli _ d _ => minCause [sDst d]
  | .smovk _ d a b _ => minCause [sDst d, sSrc a, sSrc b]
  | .st _ d a w _ _ => minCause [sSrc d, sSrc a, rsvIf (d != 63#6 && w != 0#4)]
  | .tst _ _ g _ _ => minCause [sGrp 3 g]
  | .tscat _ _ g _ _ => minCause [sGrp 4 g]
  | .stash _ _ h _ _ => minCause [sSrc h]
  | .stashdrop _ h => minCause [sSrc h]
  | .atomnrSwap _ _ a b _ => minCause [sSrc a, sSrc b]
  | .atomnrCas _ _ a b _ => minCause [sSrc a, sGrp 2 b]
  | .atomnrAdd _ _ a b _ => minCause [sSrc a, sSrc b]
  | .atomnrAnd _ _ a b _ => minCause [sSrc a, sSrc b]
  | .atomnrOr _ _ a b _ => minCause [sSrc a, sSrc b]
  | .atomnrXor _ _ a b _ => minCause [sSrc a, sSrc b]
  | .atomnrMin _ _ a b _ => minCause [sSrc a, sSrc b]
  | .atomnrMax _ _ a b _ => minCause [sSrc a, sSrc b]
  | .atomnrMinu _ _ a b _ => minCause [sSrc a, sSrc b]
  | .atomnrMaxu _ _ a b _ => minCause [sSrc a, sSrc b]
  | .atomnrIncw _ _ a b _ => minCause [sSrc a, sSrc b]
  | .atomnrDecw _ _ a b _ => minCause [sSrc a, sSrc b]
  | .atomnrFaddb _ _ a b _ => minCause [sSrc a, sGrp 2 b]
  | .atomnrFaddt _ _ a b _ => minCause [sSrc a, sSrc b]
  | .atomnrFaddF32 _ _ a b => minCause [sSrc a, sSrc b]
  | .atomnrFmaxF32 _ _ a b => minCause [sSrc a, sSrc b]
  | .nmadd _ d a w _ => minCause [sSrc d, sSrc a, rsvIf (d != 63#6 && w != 0#4)]
  | .bkcopy _ g => minCause [sGrp 4 g]
  | .bkfill _ g => minCause [sGrp 3 g]
  | .bkand _ g => minCause [sGrp 5 g]
  | .bkor _ g => minCause [sGrp 5 g]
  | .bknot _ g => minCause [sGrp 4 g]
  | .bkmaj _ g => minCause [sGrp 6 g]
  | .bkwait _ m _ _ => minCause [semCode m]
  | .semsig _ m _ => minCause [semCode m]
  | .discard _ a b => minCause [sSrc a, sSrc b]
  | .clean _ a b => minCause [sSrc a, sSrc b]
  | .crs _ g _ => minCause [sSrc g]
  | .crsl _ g _ => minCause [sSrc g]
  | .cag _ g _ => minCause [sSrc g]
  | .cput _ g _ => minCause [sSrc g]
  | .cget _ g _ => minCause [sSrc g]
  | .cwait _ a t _ => minCause [sSrc a, sSrc t]
  | _ => none

/-- The extensible field (R190): its bits, its width, and whether it is read as signed. -/
def Instr.immField : Instr → Option (Nat × Nat × Bool)
  | .kset _ _ i => some (i.toNat, 16, true)
  | .kaddi _ _ _ i => some (i.toNat, 10, true)
  | .loop _ c i _ => if i = 1#1 then some (c.toNat, 6, false) else none
  | .ploop _ c _ i _ => if i = 1#1 then some (c.toNat, 6, false) else none
  | .br _ o => some (o.toNat, 22, true)
  | .beqz _ _ o => some (o.toNat, 10, true)
  | .bnez _ _ o => some (o.toNat, 10, true)
  | .bltz _ _ o => some (o.toNat, 10, true)
  | .bgez _ _ o => some (o.toNat, 10, true)
  | .bgtz _ _ o => some (o.toNat, 10, true)
  | .blez _ _ o => some (o.toNat, 10, true)
  | .brq _ _ o => some (o.toNat, 17, true)
  | .brqz _ _ o => some (o.toNat, 17, true)
  | .call _ o => some (o.toNat, 22, true)
  | .slipset _ i => some (i.toNat, 16, false)
  | .budget _ _ i => some (i.toNat, 16, false)
  | .phase _ i => some (i.toNat, 16, false)
  | .aaddi _ _ _ i => some (i.toNat, 10, true)
  | .ali _ _ i => some (i.toNat, 16, true)
  | .ld _ _ _ b _ _ c => if c = 0#1 then some (b.toNat, 6, true) else none
  | .lds _ _ b _ _ c => if c = 0#1 then some (b.toNat, 6, true) else none
  | .pref _ _ _ b _ c => if c = 0#1 then some (b.toNat, 6, true) else none
  | .addi _ _ _ i => some (i.toNat, 10, true)
  | .andi _ _ i => some (i.toNat, 10, true)
  | .ori _ _ i => some (i.toNat, 10, true)
  | .xori _ _ i => some (i.toNat, 10, true)
  | .andni _ _ i => some (i.toNat, 10, true)
  | .shli _ _ i => some (i.toNat, 10, false)
  | .shri _ _ i => some (i.toNat, 10, false)
  | .srai _ _ i => some (i.toNat, 10, false)
  | .rori _ _ i => some (i.toNat, 10, false)
  | .li _ _ i => some (i.toNat, 16, true)
  | .saddi _ _ _ i => some (i.toNat, 10, true)
  | .sli _ _ i => some (i.toNat, 16, true)
  | .st _ _ _ _ _ o => some (o.toNat, 4, true)
  | .nmadd _ _ _ _ o => some (o.toNat, 4, true)
  | _ => none

/-- Imm (R189), exact: the n base bits b extended by the LIMMs, read as signed or not. -/
def immVal (b n : Nat) (sg : Bool) (exts : List (BitVec 22)) : Int :=
  let vw := exts.foldl (fun (p : Nat × Nat) e => (p.1 ||| (e.toNat <<< p.2), p.2 + 22)) (b, n)
  let w := Nat.min vw.2 64
  let v := vw.1 % 2 ^ w
  if sg ∧ v ≥ 2 ^ (w - 1) then (v : Int) - 2 ^ w else v

/-- The value of the immediate of an instruction with its LIMMs (R189). -/
def Instr.imm (i : Instr) (exts : List (BitVec 22)) : Int :=
  match i.immField with
  | none => 0
  | some (b, n, sg) => immVal b n sg exts

/-- The stage field (R182); the abutment-only syllables have none. -/
def Instr.stage : Instr → BitVec 2
  | .nop s => s
  | .kset s _ _ => s
  | .kaddi s _ _ _ => s
  | .kadd s _ _ _ => s
  | .ksub s _ _ _ => s
  | .kand s _ _ _ => s
  | .kor s _ _ _ => s
  | .kxor s _ _ _ => s
  | .kandn s _ _ _ => s
  | .kshl s _ _ _ => s
  | .kshr s _ _ _ => s
  | .ksra s _ _ _ => s
  | .kmin s _ _ _ => s
  | .kmax s _ _ _ => s
  | .kminu s _ _ _ => s
  | .kmaxu s _ _ _ => s
  | .kaddw s _ _ _ => s
  | .ksubw s _ _ _ => s
  | .kclz s _ _ => s
  | .kmovq s _ _ => s
  | .loop s _ _ _ => s
  | .ploop s _ _ _ _ => s
  | .br s _ => s
  | .beqz s _ _ => s
  | .bnez s _ _ => s
  | .bltz s _ _ => s
  | .bgez s _ _ => s
  | .bgtz s _ _ => s
  | .blez s _ _ => s
  | .brq s _ _ => s
  | .brqz s _ _ => s
  | .call s _ => s
  | .ret s => s
  | .mark s => s
  | .bara s _ => s
  | .barw s _ _ => s
  | .bar s _ => s
  | .slipset s _ => s
  | .tdef s _ _ => s
  | .tdefTable s _ _ _ => s
  | .tundef s _ => s
  | .budget s _ _ => s
  | .phase s _ => s
  | .kseed s _ => s
  | .kseedx s _ => s
  | .endK s => s
  | .limm _ s _ => s
  | .aadd s _ _ _ => s
  | .asub s _ _ _ => s
  | .aand s _ _ _ => s
  | .aor s _ _ _ => s
  | .axor s _ _ _ => s
  | .aandn s _ _ _ => s
  | .ashl s _ _ _ => s
  | .ashr s _ _ _ => s
  | .asra s _ _ _ => s
  | .amin s _ _ _ => s
  | .amax s _ _ _ => s
  | .aminu s _ _ _ => s
  | .amaxu s _ _ _ => s
  | .aaddw s _ _ _ => s
  | .asubw s _ _ _ => s
  | .aclz s _ _ => s
  | .aaddi s _ _ _ => s
  | .ali s _ _ => s
  | .amovk s _ _ _ _ => s
  | .aqpop s _ _ => s
  | .ld s _ _ _ _ _ _ => s
  | .lds s _ _ _ _ _ => s
  | .tld s _ _ => s
  | .tldp s _ _ => s
  | .tlds s _ _ => s
  | .tldsc s _ _ => s
  | .tcopy s _ _ _ => s
  | .tgath s _ _ _ => s
  | .tgathTile s _ _ _ _ => s
  | .txp s _ _ _ => s
  | .txpTile s _ _ _ _ => s
  | .atomSwap s _ _ _ _ => s
  | .atomCas s _ _ _ _ => s
  | .atomAdd s _ _ _ _ => s
  | .atomAnd s _ _ _ _ => s
  | .atomOr s _ _ _ _ => s
  | .atomXor s _ _ _ _ => s
  | .atomMin s _ _ _ _ => s
  | .atomMax s _ _ _ _ => s
  | .atomMinu s _ _ _ _ => s
  | .atomMaxu s _ _ _ _ => s
  | .atomIncw s _ _ _ _ => s
  | .atomDecw s _ _ _ _ => s
  | .atomFaddb s _ _ _ _ => s
  | .atomFaddt s _ _ _ _ => s
  | .atomFaddF32 s _ _ _ => s
  | .atomFmaxF32 s _ _ _ => s
  | .await s _ _ _ _ => s
  | .pref s _ _ _ _ _ => s
  | .rinit _ s _ _ => s
  | .rclaim _ s _ _ _ => s
  | .rpub _ s _ _ => s
  | .rwaitf _ s _ _ => s
  | .rrel _ s _ => s
  | .nmred s _ _ => s
  | .invl1 s => s
  | .invl1r s _ _ => s
  | .add s _ _ _ => s
  | .sub s _ _ _ => s
  | .and s _ _ _ => s
  | .or s _ _ _ => s
  | .xor s _ _ _ => s
  | .andn s _ _ _ => s
  | .shl s _ _ _ => s
  | .shr s _ _ _ => s
  | .sra s _ _ _ => s
  | .min s _ _ _ => s
  | .max s _ _ _ => s
  | .minu s _ _ _ => s
  | .maxu s _ _ _ => s
  | .addw s _ _ _ => s
  | .subw s _ _ _ => s
  | .clz s _ _ => s
  | .mul s _ _ _ => s
  | .mulh s _ _ _ => s
  | .mulhu s _ _ _ => s
  | .mulhsu s _ _ _ => s
  | .div s _ _ _ => s
  | .divu s _ _ _ => s
  | .rem s _ _ _ => s
  | .remu s _ _ _ => s
  | .mulw s _ _ _ => s
  | .divw s _ _ _ => s
  | .divuw s _ _ _ => s
  | .remw s _ _ _ => s
  | .remuw s _ _ _ => s
  | .addi s _ _ _ => s
  | .andi s _ _ => s
  | .ori s _ _ => s
  | .xori s _ _ => s
  | .andni s _ _ => s
  | .shli s _ _ => s
  | .shri s _ _ => s
  | .srai s _ _ => s
  | .rori s _ _ => s
  | .li s _ _ => s
  | .seq s _ _ _ => s
  | .sne s _ _ _ => s
  | .slt s _ _ _ => s
  | .sltu s _ _ _ => s
  | .sle s _ _ _ => s
  | .sleu s _ _ _ => s
  | .sel s _ _ _ => s
  | .pushs s _ => s
  | .pusha s _ => s
  | .pushb s _ => s
  | .pushk s _ => s
  | .popl s _ _ => s
  | .qpopf s _ _ _ => s
  | .chk s _ => s
  | .chkt s _ => s
  | .fadd s _ _ _ => s
  | .fsub s _ _ _ => s
  | .fmul s _ _ _ => s
  | .fmac s _ _ _ => s
  | .fmin s _ _ _ => s
  | .fmax s _ _ _ => s
  | .feq s _ _ _ => s
  | .flt s _ _ _ => s
  | .fle s _ _ _ => s
  | .fcvtif s _ _ => s
  | .fcvtfi s _ _ => s
  | .fabs s _ _ => s
  | .fneg s _ _ => s
  | .rdsys s _ _ => s
  | .wrsys s _ _ => s
  | .trap s _ => s
  | .ebreak s _ => s
  | .vfadd s _ _ _ _ => s
  | .vfsub s _ _ _ _ => s
  | .vfmul s _ _ _ _ => s
  | .vfmin s _ _ _ _ => s
  | .vfmax s _ _ _ _ => s
  | .vfabs s _ _ _ => s
  | .vfneg s _ _ _ => s
  | .vfma s _ _ _ _ => s
  | .vfms s _ _ _ _ => s
  | .vfnma s _ _ _ _ => s
  | .vfnms s _ _ _ _ => s
  | .vadd s _ _ _ _ => s
  | .vsub s _ _ _ _ => s
  | .vmul s _ _ _ _ => s
  | .vmulh s _ _ _ _ => s
  | .vmin s _ _ _ _ => s
  | .vmax s _ _ _ _ => s
  | .vminu s _ _ _ _ => s
  | .vmaxu s _ _ _ _ => s
  | .vand s _ _ _ _ => s
  | .vor s _ _ _ _ => s
  | .vxor s _ _ _ _ => s
  | .vandn s _ _ _ _ => s
  | .vadds s _ _ _ _ => s
  | .vsubs s _ _ _ _ => s
  | .vabs s _ _ _ => s
  | .vpopc s _ _ _ => s
  | .vshl s _ _ _ _ => s
  | .vshr s _ _ _ _ => s
  | .vsra s _ _ _ _ => s
  | .vrot s _ _ _ _ => s
  | .vshli s _ _ _ _ => s
  | .vshri s _ _ _ _ => s
  | .vsrai s _ _ _ _ => s
  | .vfeq s _ _ _ _ => s
  | .vflt s _ _ _ _ => s
  | .vfle s _ _ _ _ => s
  | .vfunord s _ _ _ _ => s
  | .veq s _ _ _ _ => s
  | .vne s _ _ _ _ => s
  | .vlt s _ _ _ _ => s
  | .vltu s _ _ _ _ => s
  | .vle s _ _ _ _ => s
  | .vleu s _ _ _ _ => s
  | .vsel s _ _ _ _ => s
  | .vexp2 s _ _ _ => s
  | .vlog2 s _ _ _ => s
  | .vrcp s _ _ _ => s
  | .vrsq s _ _ _ => s
  | .vsqrt s _ _ _ => s
  | .vcvtF32Bf16 s _ _ _ => s
  | .vcvtF32F16 s _ _ _ => s
  | .vcvtF32E4m3 s _ _ _ => s
  | .vcvtF32E5m2 s _ _ _ => s
  | .vcvtF32E2m1 s _ _ _ => s
  | .vcvtBf16F32 s _ _ _ => s
  | .vcvtF16F32 s _ _ _ => s
  | .vcvtE4m3F32Sat s _ _ _ => s
  | .vcvtE4m3F32 s _ _ _ => s
  | .vcvtE5m2F32Sat s _ _ _ => s
  | .vcvtE5m2F32 s _ _ _ => s
  | .vcvtE2m1F32 s _ _ _ => s
  | .vcvtF32I32 s _ _ _ => s
  | .vcvtI32F32 s _ _ _ => s
  | .vcvtF32E8m0 s _ _ _ => s
  | .vcvtE8m0F32 s _ _ _ => s
  | .vcvtsrBf16 s _ _ _ _ => s
  | .vcvtsrF16 s _ _ _ _ => s
  | .vcvtsrE4m3Sat s _ _ _ _ => s
  | .vcvtsrE4m3 s _ _ _ _ => s
  | .vcvtsrE5m2Sat s _ _ _ _ => s
  | .vcvtsrE5m2 s _ _ _ _ => s
  | .vcvtsrE2m1 s _ _ _ _ => s
  | .vredfadd s _ _ _ => s
  | .vredfmax s _ _ _ => s
  | .vredfmin s _ _ _ => s
  | .vredadd s _ _ _ => s
  | .vredmax s _ _ _ => s
  | .vredmin s _ _ _ => s
  | .vredmaxu s _ _ _ => s
  | .vredminu s _ _ _ => s
  | .vredand s _ _ _ => s
  | .vredor s _ _ _ => s
  | .vredxor s _ _ _ => s
  | .vrowld s _ _ _ _ _ => s
  | .vrowst s _ _ _ _ => s
  | .vperm s _ _ _ _ => s
  | .vxpose8 s _ _ => s
  | .vsrbits s _ _ _ _ => s
  | .vlane s _ _ => s
  | .mand s _ _ _ => s
  | .mor s _ _ _ => s
  | .mxor s _ _ _ => s
  | .mandn s _ _ _ => s
  | .mnot s _ _ => s
  | .mfirst s _ _ => s
  | .mfromv s _ _ => s
  | .mtov s _ _ => s
  | .vbcast s _ _ => s
  | .vext s _ _ _ => s
  | .vins s _ _ _ => s
  | .mcount s _ _ => s
  | .mfind s _ _ => s
  | .wld s _ _ _ _ => s
  | .wldx s _ _ _ _ => s
  | .wswap s => s
  | .ashape s _ => s
  | .mm s _ _ _ _ _ _ _ => s
  | .mmt s _ _ _ _ _ _ _ => s
  | .mmu s _ _ _ _ _ _ => s
  | .mmus s _ _ _ _ _ _ => s
  | .mmz s _ => s
  | .mmzAll s => s
  | .drnF32 s _ _ _ => s
  | .drnBf16 s _ _ _ => s
  | .drnBf16Sr s _ _ _ _ => s
  | .drnE4m3Sat s _ _ _ => s
  | .drnE4m3 s _ _ _ => s
  | .drnE4m3SrSat s _ _ _ _ => s
  | .drnE4m3Sr s _ _ _ _ => s
  | .drnE5m2Sat s _ _ _ => s
  | .drnE5m2 s _ _ _ => s
  | .drnE5m2SrSat s _ _ _ _ => s
  | .drnE5m2Sr s _ _ _ _ => s
  | .drnMx8e4 s _ _ _ => s
  | .drnMx8e4Sr s _ _ _ _ => s
  | .drnMx8e5 s _ _ _ => s
  | .drnMx8e5Sr s _ _ _ _ => s
  | .drnMx4 s _ _ _ => s
  | .drnMx4Sr s _ _ _ _ => s
  | .drnBx24 s _ _ _ => s
  | .drna s _ _ _ _ => s
  | .merrq s _ => s
  | .merrs s _ => s
  | .merrc s => s
  | .rinitX s _ _ => s
  | .rclaimX s _ _ _ => s
  | .rpubX s _ _ => s
  | .rwaitfX s _ _ => s
  | .rrelX s _ => s
  | .semadd s _ _ => s
  | .semclr s _ => s
  | .sadd s _ _ _ => s
  | .ssub s _ _ _ => s
  | .sand s _ _ _ => s
  | .sor s _ _ _ => s
  | .sxor s _ _ _ => s
  | .sandn s _ _ _ => s
  | .sshl s _ _ _ => s
  | .sshr s _ _ _ => s
  | .ssra s _ _ _ => s
  | .smin s _ _ _ => s
  | .smax s _ _ _ => s
  | .sminu s _ _ _ => s
  | .smaxu s _ _ _ => s
  | .saddw s _ _ _ => s
  | .ssubw s _ _ _ => s
  | .sclz s _ _ => s
  | .saddi s _ _ _ => s
  | .sli s _ _ => s
  | .smovk s _ _ _ _ => s
  | .st s _ _ _ _ _ => s
  | .tst s _ _ _ _ => s
  | .tscat s _ _ _ _ => s
  | .stash s _ _ _ _ => s
  | .stashdrop s _ => s
  | .atomnrSwap s _ _ _ _ => s
  | .atomnrCas s _ _ _ _ => s
  | .atomnrAdd s _ _ _ _ => s
  | .atomnrAnd s _ _ _ _ => s
  | .atomnrOr s _ _ _ _ => s
  | .atomnrXor s _ _ _ _ => s
  | .atomnrMin s _ _ _ _ => s
  | .atomnrMax s _ _ _ _ => s
  | .atomnrMinu s _ _ _ _ => s
  | .atomnrMaxu s _ _ _ _ => s
  | .atomnrIncw s _ _ _ _ => s
  | .atomnrDecw s _ _ _ _ => s
  | .atomnrFaddb s _ _ _ _ => s
  | .atomnrFaddt s _ _ _ _ => s
  | .atomnrFaddF32 s _ _ _ => s
  | .atomnrFmaxF32 s _ _ _ => s
  | .nmadd s _ _ _ _ => s
  | .nmfence s => s
  | .bkcopy s _ => s
  | .bkfill s _ => s
  | .bkand s _ => s
  | .bkor s _ => s
  | .bknot s _ => s
  | .bkmaj s _ => s
  | .bkwait s _ _ _ => s
  | .semsig s _ _ => s
  | .discard s _ _ => s
  | .clean s _ _ => s
  | .crs s _ _ => s
  | .crsl s _ _ => s
  | .cag s _ _ => s
  | .cput s _ _ => s
  | .cget s _ _ => s
  | .cwait s _ _ _ => s
  | _ => 0#2

/-- Syllables that a PLOOP body may not hold (R65). -/
def Instr.noPloop : Instr → Bool
  | .loop _ _ _ _ | .ploop _ _ _ _ _ | .br _ _ | .call _ _ | .ret _ | .endK _ => true
  | .beqz _ _ _ | .bnez _ _ _ | .bltz _ _ _ | .bgez _ _ _ | .bgtz _ _ _ | .blez _ _ _ | .brq _ _ _ | .brqz _ _ _ => true
  | _ => false

/-- Causes that depend on the immediate with its LIMMs: a SHIFTI amount above 63 (R243). -/
def Instr.immCause (i : Instr) (exts : List (BitVec 22)) : Option Nat :=
  match i with
  | .shli _ _ _ | .shri _ _ _ | .srai _ _ _ | .rori _ _ _ => if i.imm exts > 63 then some 5 else none
  | _ => none

end Sys2Proof
end

