-- ==== Sys2Proof/WellFormed.lean ====
section
/-! DEFINITION. Well-formed instructions: every operand code is one the instruction accepts (06 R184, R186-R188), and a field that picks
among forms holds a form that the spec gives (07 R238). -/

namespace Sys2Proof

/-- A form field holds one of the values that its row covers: TDEF from a tile table has the forms 1 to 4. -/
def Instr.formOk : Instr → Bool
  | .tdefTable _ _ _ u => decide (1 ≤ u.toNat) && decide (u.toNat ≤ 4)
  | _ => true

/-- No operand field of the instruction makes its syllable illegal. -/
def Instr.wf (i : Instr) : Bool := i.operandCause.isNone && i.formOk

end Sys2Proof
end

