-- ==== Sys2Proof/Decode.lean ====
section
/-! DEFINITION. Decoding and encoding of 32-bit syllables (06 R182, R183, R192-R199, and the encodings of the instruction chapters).
`parse` finds the instruction that tag, major and sub value name and takes its fields; `encode` writes the word of an instruction;
`decode` adds the fates of illegal encodings: the lowest cause of R205 that applies (R203). The abutment forms of VROW and VBCAST
share words with core forms, so they have a decoder of their own (11 R363). The definitions that build an Instr are marked
noncomputable for one reason only: Lean's code generator stops at 244 constructors with fields (log 14); the kernel evaluates them. -/

namespace Sys2Proof

/-- K stream, major 0x01 (R221). -/
noncomputable def parseK01 (w : W32) : Except Nat Instr :=
  .ok (.nop (w.extractLsb' 28 2))

/-- K stream, major 0x02 (R223). -/
noncomputable def parseK02 (w : W32) : Except Nat Instr :=
  .ok (.kset (w.extractLsb' 28 2) (w.extractLsb' 16 6) (w.extractLsb' 0 16))

/-- K stream, major 0x03 (R223). -/
noncomputable def parseK03 (w : W32) : Except Nat Instr :=
  .ok (.kaddi (w.extractLsb' 28 2) (w.extractLsb' 16 6) (w.extractLsb' 10 6) (w.extractLsb' 0 10))

/-- K stream, major 0x04 (R219). -/
noncomputable def parseK04 (w : W32) : Except Nat Instr :=
  match (w.extractLsb' 0 4).toNat with
  | 0 => .ok (.kadd (w.extractLsb' 28 2) (w.extractLsb' 16 6) (w.extractLsb' 10 6) (w.extractLsb' 4 6))
  | 1 => .ok (.ksub (w.extractLsb' 28 2) (w.extractLsb' 16 6) (w.extractLsb' 10 6) (w.extractLsb' 4 6))
  | 2 => .ok (.kand (w.extractLsb' 28 2) (w.extractLsb' 16 6) (w.extractLsb' 10 6) (w.extractLsb' 4 6))
  | 3 => .ok (.kor (w.extractLsb' 28 2) (w.extractLsb' 16 6) (w.extractLsb' 10 6) (w.extractLsb' 4 6))
  | 4 => .ok (.kxor (w.extractLsb' 28 2) (w.extractLsb' 16 6) (w.extractLsb' 10 6) (w.extractLsb' 4 6))
  | 5 => .ok (.kandn (w.extractLsb' 28 2) (w.extractLsb' 16 6) (w.extractLsb' 10 6) (w.extractLsb' 4 6))
  | 6 => .ok (.kshl (w.extractLsb' 28 2) (w.extractLsb' 16 6) (w.extractLsb' 10 6) (w.extractLsb' 4 6))
  | 7 => .ok (.kshr (w.extractLsb' 28 2) (w.extractLsb' 16 6) (w.extractLsb' 10 6) (w.extractLsb' 4 6))
  | 8 => .ok (.ksra (w.extractLsb' 28 2) (w.extractLsb' 16 6) (w.extractLsb' 10 6) (w.extractLsb' 4 6))
  | 9 => .ok (.kmin (w.extractLsb' 28 2) (w.extractLsb' 16 6) (w.extractLsb' 10 6) (w.extractLsb' 4 6))
  | 10 => .ok (.kmax (w.extractLsb' 28 2) (w.extractLsb' 16 6) (w.extractLsb' 10 6) (w.extractLsb' 4 6))
  | 11 => .ok (.kminu (w.extractLsb' 28 2) (w.extractLsb' 16 6) (w.extractLsb' 10 6) (w.extractLsb' 4 6))
  | 12 => .ok (.kmaxu (w.extractLsb' 28 2) (w.extractLsb' 16 6) (w.extractLsb' 10 6) (w.extractLsb' 4 6))
  | 13 => .ok (.kaddw (w.extractLsb' 28 2) (w.extractLsb' 16 6) (w.extractLsb' 10 6) (w.extractLsb' 4 6))
  | 14 => .ok (.ksubw (w.extractLsb' 28 2) (w.extractLsb' 16 6) (w.extractLsb' 10 6) (w.extractLsb' 4 6))
  | 15 => .ok (.kclz (w.extractLsb' 28 2) (w.extractLsb' 16 6) (w.extractLsb' 10 6))
  | _ => .error 3

/-- K stream, major 0x05 (R224). -/
noncomputable def parseK05 (w : W32) : Except Nat Instr :=
  match (w.extractLsb' 0 5).toNat with
  | 0 => .ok (.kmovq (w.extractLsb' 28 2) (w.extractLsb' 16 6) (w.extractLsb' 6 4))
  | _ => .error 3

/-- K stream, major 0x06 (R226). -/
noncomputable def parseK06 (w : W32) : Except Nat Instr :=
  .ok (.loop (w.extractLsb' 28 2) (w.extractLsb' 16 6) (w.extractLsb' 13 1) (w.extractLsb' 0 13))

/-- K stream, major 0x07 (R226). -/
noncomputable def parseK07 (w : W32) : Except Nat Instr :=
  .ok (.ploop (w.extractLsb' 28 2) (w.extractLsb' 16 6) (w.extractLsb' 14 2) (w.extractLsb' 13 1) (w.extractLsb' 0 13))

/-- K stream, major 0x08 (R229). -/
noncomputable def parseK08 (w : W32) : Except Nat Instr :=
  .ok (.br (w.extractLsb' 28 2) (w.extractLsb' 0 22))

/-- K stream, major 0x09 (R228). -/
noncomputable def parseK09 (w : W32) : Except Nat Instr :=
  match (w.extractLsb' 16 6).toNat with
  | 0 => .ok (.beqz (w.extractLsb' 28 2) (w.extractLsb' 10 6) (w.extractLsb' 0 10))
  | 1 => .ok (.bnez (w.extractLsb' 28 2) (w.extractLsb' 10 6) (w.extractLsb' 0 10))
  | 2 => .ok (.bltz (w.extractLsb' 28 2) (w.extractLsb' 10 6) (w.extractLsb' 0 10))
  | 3 => .ok (.bgez (w.extractLsb' 28 2) (w.extractLsb' 10 6) (w.extractLsb' 0 10))
  | 4 => .ok (.bgtz (w.extractLsb' 28 2) (w.extractLsb' 10 6) (w.extractLsb' 0 10))
  | 5 => .ok (.blez (w.extractLsb' 28 2) (w.extractLsb' 10 6) (w.extractLsb' 0 10))
  | _ => .error 3

/-- K stream, major 0x0A (R230). -/
noncomputable def parseK0A (w : W32) : Except Nat Instr :=
  match (w.extractLsb' 17 1).toNat with
  | 1 => .ok (.brq (w.extractLsb' 28 2) (w.extractLsb' 18 4) (w.extractLsb' 0 17))
  | 0 => .ok (.brqz (w.extractLsb' 28 2) (w.extractLsb' 18 4) (w.extractLsb' 0 17))
  | _ => .error 3

/-- K stream, major 0x0B (R229). -/
noncomputable def parseK0B (w : W32) : Except Nat Instr :=
  .ok (.call (w.extractLsb' 28 2) (w.extractLsb' 0 22))

/-- K stream, major 0x0C (R229). -/
noncomputable def parseK0C (w : W32) : Except Nat Instr :=
  .ok (.ret (w.extractLsb' 28 2))

/-- K stream, major 0x0D (R54). -/
noncomputable def parseK0D (w : W32) : Except Nat Instr :=
  .ok (.mark (w.extractLsb' 28 2))

/-- K stream, major 0x0E (R232, R234). -/
noncomputable def parseK0E (w : W32) : Except Nat Instr :=
  match (w.extractLsb' 0 5).toNat with
  | 0 => .ok (.bara (w.extractLsb' 28 2) (w.extractLsb' 6 4))
  | 1 => .ok (.barw (w.extractLsb' 28 2) (w.extractLsb' 16 6) (w.extractLsb' 6 4))
  | 2 => .ok (.bar (w.extractLsb' 28 2) (w.extractLsb' 6 4))
  | _ => .error 3

/-- K stream, major 0x0F (R236). -/
noncomputable def parseK0F (w : W32) : Except Nat Instr :=
  .ok (.slipset (w.extractLsb' 28 2) (w.extractLsb' 0 16))

/-- K stream, major 0x10 (R238). -/
noncomputable def parseK10 (w : W32) : Except Nat Instr :=
  match (w.extractLsb' 0 5).toNat with
  | 0 => .ok (.tdef (w.extractLsb' 28 2) (w.extractLsb' 16 6) (w.extractLsb' 10 6))
  | 1 | 2 | 3 | 4 => .ok (.tdefTable (w.extractLsb' 28 2) (w.extractLsb' 16 6) (w.extractLsb' 10 6) (w.extractLsb' 0 3))
  | _ => .error 3

/-- K stream, major 0x11 (R239). -/
noncomputable def parseK11 (w : W32) : Except Nat Instr :=
  match (w.extractLsb' 0 5).toNat with
  | 0 => .ok (.tundef (w.extractLsb' 28 2) (w.extractLsb' 16 6))
  | _ => .error 3

/-- K stream, major 0x12 (R237). -/
noncomputable def parseK12 (w : W32) : Except Nat Instr :=
  .ok (.budget (w.extractLsb' 28 2) (w.extractLsb' 16 4) (w.extractLsb' 0 16))

/-- K stream, major 0x13 (R240). -/
noncomputable def parseK13 (w : W32) : Except Nat Instr :=
  .ok (.phase (w.extractLsb' 28 2) (w.extractLsb' 0 16))

/-- K stream, major 0x14 (R241). -/
noncomputable def parseK14 (w : W32) : Except Nat Instr :=
  match (w.extractLsb' 0 4).toNat with
  | 0 => .ok (.kseed (w.extractLsb' 28 2) (w.extractLsb' 10 6))
  | 1 => .ok (.kseedx (w.extractLsb' 28 2) (w.extractLsb' 10 6))
  | _ => .error 3

/-- K stream, major 0x15 (R222). -/
noncomputable def parseK15 (w : W32) : Except Nat Instr :=
  .ok (.endK (w.extractLsb' 28 2))

/-- A stream, major 0x02 (R259). -/
noncomputable def parseA02 (w : W32) : Except Nat Instr :=
  match (w.extractLsb' 0 4).toNat with
  | 0 => .ok (.aadd (w.extractLsb' 28 2) (w.extractLsb' 16 6) (w.extractLsb' 10 6) (w.extractLsb' 4 6))
  | 1 => .ok (.asub (w.extractLsb' 28 2) (w.extractLsb' 16 6) (w.extractLsb' 10 6) (w.extractLsb' 4 6))
  | 2 => .ok (.aand (w.extractLsb' 28 2) (w.extractLsb' 16 6) (w.extractLsb' 10 6) (w.extractLsb' 4 6))
  | 3 => .ok (.aor (w.extractLsb' 28 2) (w.extractLsb' 16 6) (w.extractLsb' 10 6) (w.extractLsb' 4 6))
  | 4 => .ok (.axor (w.extractLsb' 28 2) (w.extractLsb' 16 6) (w.extractLsb' 10 6) (w.extractLsb' 4 6))
  | 5 => .ok (.aandn (w.extractLsb' 28 2) (w.extractLsb' 16 6) (w.extractLsb' 10 6) (w.extractLsb' 4 6))
  | 6 => .ok (.ashl (w.extractLsb' 28 2) (w.extractLsb' 16 6) (w.extractLsb' 10 6) (w.extractLsb' 4 6))
  | 7 => .ok (.ashr (w.extractLsb' 28 2) (w.extractLsb' 16 6) (w.extractLsb' 10 6) (w.extractLsb' 4 6))
  | 8 => .ok (.asra (w.extractLsb' 28 2) (w.extractLsb' 16 6) (w.extractLsb' 10 6) (w.extractLsb' 4 6))
  | 9 => .ok (.amin (w.extractLsb' 28 2) (w.extractLsb' 16 6) (w.extractLsb' 10 6) (w.extractLsb' 4 6))
  | 10 => .ok (.amax (w.extractLsb' 28 2) (w.extractLsb' 16 6) (w.extractLsb' 10 6) (w.extractLsb' 4 6))
  | 11 => .ok (.aminu (w.extractLsb' 28 2) (w.extractLsb' 16 6) (w.extractLsb' 10 6) (w.extractLsb' 4 6))
  | 12 => .ok (.amaxu (w.extractLsb' 28 2) (w.extractLsb' 16 6) (w.extractLsb' 10 6) (w.extractLsb' 4 6))
  | 13 => .ok (.aaddw (w.extractLsb' 28 2) (w.extractLsb' 16 6) (w.extractLsb' 10 6) (w.extractLsb' 4 6))
  | 14 => .ok (.asubw (w.extractLsb' 28 2) (w.extractLsb' 16 6) (w.extractLsb' 10 6) (w.extractLsb' 4 6))
  | 15 => .ok (.aclz (w.extractLsb' 28 2) (w.extractLsb' 16 6) (w.extractLsb' 10 6))
  | _ => .error 3

/-- A stream, major 0x03 (R259). -/
noncomputable def parseA03 (w : W32) : Except Nat Instr :=
  .ok (.aaddi (w.extractLsb' 28 2) (w.extractLsb' 16 6) (w.extractLsb' 10 6) (w.extractLsb' 0 10))

/-- A stream, major 0x04 (R259). -/
noncomputable def parseA04 (w : W32) : Except Nat Instr :=
  .ok (.ali (w.extractLsb' 28 2) (w.extractLsb' 16 6) (w.extractLsb' 0 16))

/-- A stream, major 0x05 (R259). -/
noncomputable def parseA05 (w : W32) : Except Nat Instr :=
  .ok (.amovk (w.extractLsb' 28 2) (w.extractLsb' 16 6) (w.extractLsb' 10 6) (w.extractLsb' 4 6) (w.extractLsb' 0 4))

/-- A stream, major 0x06 (R260). -/
noncomputable def parseA06 (w : W32) : Except Nat Instr :=
  match (w.extractLsb' 0 5).toNat with
  | 0 => .ok (.aqpop (w.extractLsb' 28 2) (w.extractLsb' 16 6) (w.extractLsb' 6 4))
  | _ => .error 3

/-- A stream, major 0x08 (R262). -/
noncomputable def parseA08 (w : W32) : Except Nat Instr :=
  .ok (.ld (w.extractLsb' 28 2) (w.extractLsb' 16 6) (w.extractLsb' 10 6) (w.extractLsb' 4 6) (w.extractLsb' 2 2) (w.extractLsb' 1 1) (w.extractLsb' 0 1))

/-- A stream, major 0x09 (R263). -/
noncomputable def parseA09 (w : W32) : Except Nat Instr :=
  .ok (.lds (w.extractLsb' 28 2) (w.extractLsb' 10 6) (w.extractLsb' 4 6) (w.extractLsb' 2 2) (w.extractLsb' 1 1) (w.extractLsb' 0 1))

/-- A stream, major 0x0A (R269). -/
noncomputable def parseA0A (w : W32) : Except Nat Instr :=
  match (w.extractLsb' 0 5).toNat with
  | 0 => .ok (.tld (w.extractLsb' 28 2) (w.extractLsb' 16 6) (w.extractLsb' 10 6))
  | 1 => .ok (.tldp (w.extractLsb' 28 2) (w.extractLsb' 16 6) (w.extractLsb' 10 6))
  | _ => .error 3

/-- A stream, major 0x0B (R270). -/
noncomputable def parseA0B (w : W32) : Except Nat Instr :=
  match (w.extractLsb' 0 5).toNat with
  | 0 => .ok (.tlds (w.extractLsb' 28 2) (w.extractLsb' 16 6) (w.extractLsb' 10 6))
  | _ => .error 3

/-- A stream, major 0x0C (R271). -/
noncomputable def parseA0C (w : W32) : Except Nat Instr :=
  match (w.extractLsb' 0 5).toNat with
  | 0 => .ok (.tldsc (w.extractLsb' 28 2) (w.extractLsb' 16 6) (w.extractLsb' 10 6))
  | _ => .error 3

/-- A stream, major 0x0D (R276). -/
noncomputable def parseA0D (w : W32) : Except Nat Instr :=
  match (w.extractLsb' 0 5).toNat with
  | 0 | 1 | 2 | 3 | 4 | 5 | 6 | 7 | 8 | 9 | 10 | 11 | 12 | 13 | 14 | 15 => .ok (.tcopy (w.extractLsb' 28 2) (w.extractLsb' 10 6) (w.extractLsb' 6 4) (w.extractLsb' 0 4))
  | _ => .error 3

/-- A stream, major 0x0E (R278). -/
noncomputable def parseA0E (w : W32) : Except Nat Instr :=
  match (w.extractLsb' 4 1).toNat with
  | 0 => .ok (.tgath (w.extractLsb' 28 2) (w.extractLsb' 10 6) (w.extractLsb' 6 4) (w.extractLsb' 0 4))
  | 1 => .ok (.tgathTile (w.extractLsb' 28 2) (w.extractLsb' 16 6) (w.extractLsb' 10 6) (w.extractLsb' 6 4) (w.extractLsb' 0 4))
  | _ => .error 3

/-- A stream, major 0x0F (R276). -/
noncomputable def parseA0F (w : W32) : Except Nat Instr :=
  match (w.extractLsb' 4 1).toNat with
  | 0 => .ok (.txp (w.extractLsb' 28 2) (w.extractLsb' 10 6) (w.extractLsb' 6 4) (w.extractLsb' 0 4))
  | 1 => .ok (.txpTile (w.extractLsb' 28 2) (w.extractLsb' 16 6) (w.extractLsb' 10 6) (w.extractLsb' 6 4) (w.extractLsb' 0 4))
  | _ => .error 3

/-- A stream, major 0x10 (R285, R289). -/
noncomputable def parseA10 (w : W32) : Except Nat Instr :=
  match (w.extractLsb' 16 4).toNat with
  | 0 => if w.getLsbD 3 = true then .ok (.atomSwap (w.extractLsb' 28 2) (w.extractLsb' 20 2) (w.extractLsb' 10 6) (w.extractLsb' 4 6) (w.extractLsb' 2 1)) else .error 3
  | 1 => if w.getLsbD 3 = true then .ok (.atomCas (w.extractLsb' 28 2) (w.extractLsb' 20 2) (w.extractLsb' 10 6) (w.extractLsb' 4 6) (w.extractLsb' 2 1)) else .error 3
  | 2 => if w.getLsbD 3 = true then .ok (.atomAdd (w.extractLsb' 28 2) (w.extractLsb' 20 2) (w.extractLsb' 10 6) (w.extractLsb' 4 6) (w.extractLsb' 2 1)) else .error 3
  | 3 => if w.getLsbD 3 = true then .ok (.atomAnd (w.extractLsb' 28 2) (w.extractLsb' 20 2) (w.extractLsb' 10 6) (w.extractLsb' 4 6) (w.extractLsb' 2 1)) else .error 3
  | 4 => if w.getLsbD 3 = true then .ok (.atomOr (w.extractLsb' 28 2) (w.extractLsb' 20 2) (w.extractLsb' 10 6) (w.extractLsb' 4 6) (w.extractLsb' 2 1)) else .error 3
  | 5 => if w.getLsbD 3 = true then .ok (.atomXor (w.extractLsb' 28 2) (w.extractLsb' 20 2) (w.extractLsb' 10 6) (w.extractLsb' 4 6) (w.extractLsb' 2 1)) else .error 3
  | 6 => if w.getLsbD 3 = true then .ok (.atomMin (w.extractLsb' 28 2) (w.extractLsb' 20 2) (w.extractLsb' 10 6) (w.extractLsb' 4 6) (w.extractLsb' 2 1)) else .error 3
  | 7 => if w.getLsbD 3 = true then .ok (.atomMax (w.extractLsb' 28 2) (w.extractLsb' 20 2) (w.extractLsb' 10 6) (w.extractLsb' 4 6) (w.extractLsb' 2 1)) else .error 3
  | 8 => if w.getLsbD 3 = true then .ok (.atomMinu (w.extractLsb' 28 2) (w.extractLsb' 20 2) (w.extractLsb' 10 6) (w.extractLsb' 4 6) (w.extractLsb' 2 1)) else .error 3
  | 9 => if w.getLsbD 3 = true then .ok (.atomMaxu (w.extractLsb' 28 2) (w.extractLsb' 20 2) (w.extractLsb' 10 6) (w.extractLsb' 4 6) (w.extractLsb' 2 1)) else .error 3
  | 10 => if w.getLsbD 3 = true then .ok (.atomIncw (w.extractLsb' 28 2) (w.extractLsb' 20 2) (w.extractLsb' 10 6) (w.extractLsb' 4 6) (w.extractLsb' 2 1)) else .error 3
  | 11 => if w.getLsbD 3 = true then .ok (.atomDecw (w.extractLsb' 28 2) (w.extractLsb' 20 2) (w.extractLsb' 10 6) (w.extractLsb' 4 6) (w.extractLsb' 2 1)) else .error 3
  | 12 => if w.getLsbD 3 = true then .ok (.atomFaddb (w.extractLsb' 28 2) (w.extractLsb' 20 2) (w.extractLsb' 10 6) (w.extractLsb' 4 6) (w.extractLsb' 2 1)) else .error 3
  | 13 => if w.getLsbD 3 = true then .ok (.atomFaddt (w.extractLsb' 28 2) (w.extractLsb' 20 2) (w.extractLsb' 10 6) (w.extractLsb' 4 6) (w.extractLsb' 2 1)) else .error 3
  | 14 => if w.extractLsb' 2 2 = 2#2 then .ok (.atomFaddF32 (w.extractLsb' 28 2) (w.extractLsb' 20 2) (w.extractLsb' 10 6) (w.extractLsb' 4 6)) else .error 3
  | 15 => if w.extractLsb' 2 2 = 2#2 then .ok (.atomFmaxF32 (w.extractLsb' 28 2) (w.extractLsb' 20 2) (w.extractLsb' 10 6) (w.extractLsb' 4 6)) else .error 3
  | _ => .error 3

/-- A stream, major 0x11 (R288). -/
noncomputable def parseA11 (w : W32) : Except Nat Instr :=
  match (w.extractLsb' 0 5).toNat with
  | 0 | 1 => .ok (.await (w.extractLsb' 28 2) (w.extractLsb' 16 6) (w.extractLsb' 10 6) (w.extractLsb' 6 4) (w.extractLsb' 0 1))
  | _ => .error 3

/-- A stream, major 0x12 (R265). -/
noncomputable def parseA12 (w : W32) : Except Nat Instr :=
  .ok (.pref (w.extractLsb' 28 2) (w.extractLsb' 16 1) (w.extractLsb' 10 6) (w.extractLsb' 4 6) (w.extractLsb' 2 2) (w.extractLsb' 0 1))

/-- A stream, major 0x13 (R281). -/
noncomputable def parseA13 (w : W32) : Except Nat Instr :=
  match (w.extractLsb' 0 5).toNat with
  | 0 => .ok (.rinit (w.extractLsb' 31 1) (w.extractLsb' 28 2) (w.extractLsb' 16 6) (w.extractLsb' 13 3))
  | 1 => .ok (.rclaim (w.extractLsb' 31 1) (w.extractLsb' 28 2) (w.extractLsb' 16 6) (w.extractLsb' 10 6) (w.extractLsb' 6 4))
  | 2 => .ok (.rpub (w.extractLsb' 31 1) (w.extractLsb' 28 2) (w.extractLsb' 16 6) (w.extractLsb' 10 6))
  | 3 => .ok (.rwaitf (w.extractLsb' 31 1) (w.extractLsb' 28 2) (w.extractLsb' 13 3) (w.extractLsb' 6 4))
  | 4 => .ok (.rrel (w.extractLsb' 31 1) (w.extractLsb' 28 2) (w.extractLsb' 13 3))
  | _ => .error 3

/-- S stream, major 0x13 (R281). -/
noncomputable def parseS13 (w : W32) : Except Nat Instr :=
  match (w.extractLsb' 0 5).toNat with
  | 0 => .ok (.rinit (w.extractLsb' 31 1) (w.extractLsb' 28 2) (w.extractLsb' 16 6) (w.extractLsb' 13 3))
  | 1 => .ok (.rclaim (w.extractLsb' 31 1) (w.extractLsb' 28 2) (w.extractLsb' 16 6) (w.extractLsb' 10 6) (w.extractLsb' 6 4))
  | 2 => .ok (.rpub (w.extractLsb' 31 1) (w.extractLsb' 28 2) (w.extractLsb' 16 6) (w.extractLsb' 10 6))
  | 3 => .ok (.rwaitf (w.extractLsb' 31 1) (w.extractLsb' 28 2) (w.extractLsb' 13 3) (w.extractLsb' 6 4))
  | 4 => .ok (.rrel (w.extractLsb' 31 1) (w.extractLsb' 28 2) (w.extractLsb' 13 3))
  | _ => .error 3

/-- A stream, major 0x14 (R359). -/
noncomputable def parseA14 (w : W32) : Except Nat Instr :=
  match (w.extractLsb' 0 5).toNat with
  | 0 => .ok (.nmred (w.extractLsb' 28 2) (w.extractLsb' 16 6) (w.extractLsb' 10 6))
  | _ => .error 3

/-- A stream, major 0x16 (R291). -/
noncomputable def parseA16 (w : W32) : Except Nat Instr :=
  match (w.extractLsb' 0 4).toNat with
  | 0 => .ok (.invl1 (w.extractLsb' 28 2))
  | 1 => .ok (.invl1r (w.extractLsb' 28 2) (w.extractLsb' 10 6) (w.extractLsb' 4 6))
  | _ => .error 3

/-- X stream, major 0x02 (R242). -/
noncomputable def parseX02 (w : W32) : Except Nat Instr :=
  match (w.extractLsb' 0 4).toNat with
  | 0 => .ok (.add (w.extractLsb' 28 2) (w.extractLsb' 16 6) (w.extractLsb' 10 6) (w.extractLsb' 4 6))
  | 1 => .ok (.sub (w.extractLsb' 28 2) (w.extractLsb' 16 6) (w.extractLsb' 10 6) (w.extractLsb' 4 6))
  | 2 => .ok (.and (w.extractLsb' 28 2) (w.extractLsb' 16 6) (w.extractLsb' 10 6) (w.extractLsb' 4 6))
  | 3 => .ok (.or (w.extractLsb' 28 2) (w.extractLsb' 16 6) (w.extractLsb' 10 6) (w.extractLsb' 4 6))
  | 4 => .ok (.xor (w.extractLsb' 28 2) (w.extractLsb' 16 6) (w.extractLsb' 10 6) (w.extractLsb' 4 6))
  | 5 => .ok (.andn (w.extractLsb' 28 2) (w.extractLsb' 16 6) (w.extractLsb' 10 6) (w.extractLsb' 4 6))
  | 6 => .ok (.shl (w.extractLsb' 28 2) (w.extractLsb' 16 6) (w.extractLsb' 10 6) (w.extractLsb' 4 6))
  | 7 => .ok (.shr (w.extractLsb' 28 2) (w.extractLsb' 16 6) (w.extractLsb' 10 6) (w.extractLsb' 4 6))
  | 8 => .ok (.sra (w.extractLsb' 28 2) (w.extractLsb' 16 6) (w.extractLsb' 10 6) (w.extractLsb' 4 6))
  | 9 => .ok (.min (w.extractLsb' 28 2) (w.extractLsb' 16 6) (w.extractLsb' 10 6) (w.extractLsb' 4 6))
  | 10 => .ok (.max (w.extractLsb' 28 2) (w.extractLsb' 16 6) (w.extractLsb' 10 6) (w.extractLsb' 4 6))
  | 11 => .ok (.minu (w.extractLsb' 28 2) (w.extractLsb' 16 6) (w.extractLsb' 10 6) (w.extractLsb' 4 6))
  | 12 => .ok (.maxu (w.extractLsb' 28 2) (w.extractLsb' 16 6) (w.extractLsb' 10 6) (w.extractLsb' 4 6))
  | 13 => .ok (.addw (w.extractLsb' 28 2) (w.extractLsb' 16 6) (w.extractLsb' 10 6) (w.extractLsb' 4 6))
  | 14 => .ok (.subw (w.extractLsb' 28 2) (w.extractLsb' 16 6) (w.extractLsb' 10 6) (w.extractLsb' 4 6))
  | 15 => .ok (.clz (w.extractLsb' 28 2) (w.extractLsb' 16 6) (w.extractLsb' 10 6))
  | _ => .error 3

/-- X stream, major 0x03 (R244). -/
noncomputable def parseX03 (w : W32) : Except Nat Instr :=
  match (w.extractLsb' 0 4).toNat with
  | 0 => .ok (.mul (w.extractLsb' 28 2) (w.extractLsb' 16 6) (w.extractLsb' 10 6) (w.extractLsb' 4 6))
  | 1 => .ok (.mulh (w.extractLsb' 28 2) (w.extractLsb' 16 6) (w.extractLsb' 10 6) (w.extractLsb' 4 6))
  | 2 => .ok (.mulhu (w.extractLsb' 28 2) (w.extractLsb' 16 6) (w.extractLsb' 10 6) (w.extractLsb' 4 6))
  | 3 => .ok (.mulhsu (w.extractLsb' 28 2) (w.extractLsb' 16 6) (w.extractLsb' 10 6) (w.extractLsb' 4 6))
  | 4 => .ok (.div (w.extractLsb' 28 2) (w.extractLsb' 16 6) (w.extractLsb' 10 6) (w.extractLsb' 4 6))
  | 5 => .ok (.divu (w.extractLsb' 28 2) (w.extractLsb' 16 6) (w.extractLsb' 10 6) (w.extractLsb' 4 6))
  | 6 => .ok (.rem (w.extractLsb' 28 2) (w.extractLsb' 16 6) (w.extractLsb' 10 6) (w.extractLsb' 4 6))
  | 7 => .ok (.remu (w.extractLsb' 28 2) (w.extractLsb' 16 6) (w.extractLsb' 10 6) (w.extractLsb' 4 6))
  | 8 => .ok (.mulw (w.extractLsb' 28 2) (w.extractLsb' 16 6) (w.extractLsb' 10 6) (w.extractLsb' 4 6))
  | 9 => .ok (.divw (w.extractLsb' 28 2) (w.extractLsb' 16 6) (w.extractLsb' 10 6) (w.extractLsb' 4 6))
  | 10 => .ok (.divuw (w.extractLsb' 28 2) (w.extractLsb' 16 6) (w.extractLsb' 10 6) (w.extractLsb' 4 6))
  | 11 => .ok (.remw (w.extractLsb' 28 2) (w.extractLsb' 16 6) (w.extractLsb' 10 6) (w.extractLsb' 4 6))
  | 12 => .ok (.remuw (w.extractLsb' 28 2) (w.extractLsb' 16 6) (w.extractLsb' 10 6) (w.extractLsb' 4 6))
  | _ => .error 3

/-- X stream, major 0x04 (R242). -/
noncomputable def parseX04 (w : W32) : Except Nat Instr :=
  .ok (.addi (w.extractLsb' 28 2) (w.extractLsb' 16 6) (w.extractLsb' 10 6) (w.extractLsb' 0 10))

/-- X stream, major 0x05 (R243). -/
noncomputable def parseX05 (w : W32) : Except Nat Instr :=
  match (w.extractLsb' 10 2).toNat with
  | 0 => .ok (.andi (w.extractLsb' 28 2) (w.extractLsb' 16 6) (w.extractLsb' 0 10))
  | 1 => .ok (.ori (w.extractLsb' 28 2) (w.extractLsb' 16 6) (w.extractLsb' 0 10))
  | 2 => .ok (.xori (w.extractLsb' 28 2) (w.extractLsb' 16 6) (w.extractLsb' 0 10))
  | 3 => .ok (.andni (w.extractLsb' 28 2) (w.extractLsb' 16 6) (w.extractLsb' 0 10))
  | _ => .error 3

/-- X stream, major 0x06 (R243). -/
noncomputable def parseX06 (w : W32) : Except Nat Instr :=
  match (w.extractLsb' 10 2).toNat with
  | 0 => .ok (.shli (w.extractLsb' 28 2) (w.extractLsb' 16 6) (w.extractLsb' 0 10))
  | 1 => .ok (.shri (w.extractLsb' 28 2) (w.extractLsb' 16 6) (w.extractLsb' 0 10))
  | 2 => .ok (.srai (w.extractLsb' 28 2) (w.extractLsb' 16 6) (w.extractLsb' 0 10))
  | 3 => .ok (.rori (w.extractLsb' 28 2) (w.extractLsb' 16 6) (w.extractLsb' 0 10))
  | _ => .error 3

/-- X stream, major 0x07 (R242). -/
noncomputable def parseX07 (w : W32) : Except Nat Instr :=
  .ok (.li (w.extractLsb' 28 2) (w.extractLsb' 16 6) (w.extractLsb' 0 16))

/-- X stream, major 0x08 (R245). -/
noncomputable def parseX08 (w : W32) : Except Nat Instr :=
  match (w.extractLsb' 0 4).toNat with
  | 0 => .ok (.seq (w.extractLsb' 28 2) (w.extractLsb' 16 6) (w.extractLsb' 10 6) (w.extractLsb' 4 6))
  | 1 => .ok (.sne (w.extractLsb' 28 2) (w.extractLsb' 16 6) (w.extractLsb' 10 6) (w.extractLsb' 4 6))
  | 2 => .ok (.slt (w.extractLsb' 28 2) (w.extractLsb' 16 6) (w.extractLsb' 10 6) (w.extractLsb' 4 6))
  | 3 => .ok (.sltu (w.extractLsb' 28 2) (w.extractLsb' 16 6) (w.extractLsb' 10 6) (w.extractLsb' 4 6))
  | 4 => .ok (.sle (w.extractLsb' 28 2) (w.extractLsb' 16 6) (w.extractLsb' 10 6) (w.extractLsb' 4 6))
  | 5 => .ok (.sleu (w.extractLsb' 28 2) (w.extractLsb' 16 6) (w.extractLsb' 10 6) (w.extractLsb' 4 6))
  | 6 => .ok (.sel (w.extractLsb' 28 2) (w.extractLsb' 16 6) (w.extractLsb' 10 6) (w.extractLsb' 4 6))
  | _ => .error 3

/-- X stream, major 0x09 (R246). -/
noncomputable def parseX09 (w : W32) : Except Nat Instr :=
  match (w.extractLsb' 0 5).toNat with
  | 0 => .ok (.pushs (w.extractLsb' 28 2) (w.extractLsb' 16 6))
  | 1 => .ok (.pusha (w.extractLsb' 28 2) (w.extractLsb' 16 6))
  | 2 => .ok (.pushb (w.extractLsb' 28 2) (w.extractLsb' 16 6))
  | 3 => .ok (.pushk (w.extractLsb' 28 2) (w.extractLsb' 16 6))
  | 4 => .ok (.popl (w.extractLsb' 28 2) (w.extractLsb' 16 6) (w.extractLsb' 6 4))
  | 5 => .ok (.qpopf (w.extractLsb' 28 2) (w.extractLsb' 16 6) (w.extractLsb' 10 6) (w.extractLsb' 6 4))
  | _ => .error 3

/-- X stream, major 0x0A (R248). -/
noncomputable def parseX0A (w : W32) : Except Nat Instr :=
  match (w.extractLsb' 0 5).toNat with
  | 0 => .ok (.chk (w.extractLsb' 28 2) (w.extractLsb' 16 6))
  | 1 => .ok (.chkt (w.extractLsb' 28 2) (w.extractLsb' 16 6))
  | _ => .error 3

/-- X stream, major 0x0B (R249). -/
noncomputable def parseX0B (w : W32) : Except Nat Instr :=
  match (w.extractLsb' 0 4).toNat with
  | 0 => .ok (.fadd (w.extractLsb' 28 2) (w.extractLsb' 16 6) (w.extractLsb' 10 6) (w.extractLsb' 4 6))
  | 1 => .ok (.fsub (w.extractLsb' 28 2) (w.extractLsb' 16 6) (w.extractLsb' 10 6) (w.extractLsb' 4 6))
  | 2 => .ok (.fmul (w.extractLsb' 28 2) (w.extractLsb' 16 6) (w.extractLsb' 10 6) (w.extractLsb' 4 6))
  | 3 => .ok (.fmac (w.extractLsb' 28 2) (w.extractLsb' 16 6) (w.extractLsb' 10 6) (w.extractLsb' 4 6))
  | 4 => .ok (.fmin (w.extractLsb' 28 2) (w.extractLsb' 16 6) (w.extractLsb' 10 6) (w.extractLsb' 4 6))
  | 5 => .ok (.fmax (w.extractLsb' 28 2) (w.extractLsb' 16 6) (w.extractLsb' 10 6) (w.extractLsb' 4 6))
  | 6 => .ok (.feq (w.extractLsb' 28 2) (w.extractLsb' 16 6) (w.extractLsb' 10 6) (w.extractLsb' 4 6))
  | 7 => .ok (.flt (w.extractLsb' 28 2) (w.extractLsb' 16 6) (w.extractLsb' 10 6) (w.extractLsb' 4 6))
  | 8 => .ok (.fle (w.extractLsb' 28 2) (w.extractLsb' 16 6) (w.extractLsb' 10 6) (w.extractLsb' 4 6))
  | 9 => .ok (.fcvtif (w.extractLsb' 28 2) (w.extractLsb' 16 6) (w.extractLsb' 10 6))
  | 10 => .ok (.fcvtfi (w.extractLsb' 28 2) (w.extractLsb' 16 6) (w.extractLsb' 10 6))
  | 11 => .ok (.fabs (w.extractLsb' 28 2) (w.extractLsb' 16 6) (w.extractLsb' 10 6))
  | 12 => .ok (.fneg (w.extractLsb' 28 2) (w.extractLsb' 16 6) (w.extractLsb' 10 6))
  | _ => .error 3

/-- X stream, major 0x0C (R250). -/
noncomputable def parseX0C (w : W32) : Except Nat Instr :=
  match (w.extractLsb' 14 2).toNat with
  | 0 => .ok (.rdsys (w.extractLsb' 28 2) (w.extractLsb' 16 6) (w.extractLsb' 0 14))
  | 1 => .ok (.wrsys (w.extractLsb' 28 2) (w.extractLsb' 16 6) (w.extractLsb' 0 14))
  | 2 => .ok (.trap (w.extractLsb' 28 2) (w.extractLsb' 0 14))
  | 3 => .ok (.ebreak (w.extractLsb' 28 2) (w.extractLsb' 0 14))
  | _ => .error 3

/-- X stream, major 0x10 (R298). -/
noncomputable def parseX10 (w : W32) : Except Nat Instr :=
  match (w.extractLsb' 0 4).toNat with
  | 0 => .ok (.vfadd (w.extractLsb' 28 2) (w.extractLsb' 17 5) (w.extractLsb' 12 5) (w.extractLsb' 7 5) (w.extractLsb' 4 3))
  | 1 => .ok (.vfsub (w.extractLsb' 28 2) (w.extractLsb' 17 5) (w.extractLsb' 12 5) (w.extractLsb' 7 5) (w.extractLsb' 4 3))
  | 2 => .ok (.vfmul (w.extractLsb' 28 2) (w.extractLsb' 17 5) (w.extractLsb' 12 5) (w.extractLsb' 7 5) (w.extractLsb' 4 3))
  | 3 => .ok (.vfmin (w.extractLsb' 28 2) (w.extractLsb' 17 5) (w.extractLsb' 12 5) (w.extractLsb' 7 5) (w.extractLsb' 4 3))
  | 4 => .ok (.vfmax (w.extractLsb' 28 2) (w.extractLsb' 17 5) (w.extractLsb' 12 5) (w.extractLsb' 7 5) (w.extractLsb' 4 3))
  | 5 => .ok (.vfabs (w.extractLsb' 28 2) (w.extractLsb' 17 5) (w.extractLsb' 12 5) (w.extractLsb' 4 3))
  | 6 => .ok (.vfneg (w.extractLsb' 28 2) (w.extractLsb' 17 5) (w.extractLsb' 12 5) (w.extractLsb' 4 3))
  | _ => .error 3

/-- X stream, major 0x11 (R299). -/
noncomputable def parseX11 (w : W32) : Except Nat Instr :=
  match (w.extractLsb' 0 2).toNat with
  | 0 => .ok (.vfma (w.extractLsb' 28 2) (w.extractLsb' 17 5) (w.extractLsb' 12 5) (w.extractLsb' 7 5) (w.extractLsb' 2 5))
  | 1 => .ok (.vfms (w.extractLsb' 28 2) (w.extractLsb' 17 5) (w.extractLsb' 12 5) (w.extractLsb' 7 5) (w.extractLsb' 2 5))
  | 2 => .ok (.vfnma (w.extractLsb' 28 2) (w.extractLsb' 17 5) (w.extractLsb' 12 5) (w.extractLsb' 7 5) (w.extractLsb' 2 5))
  | 3 => .ok (.vfnms (w.extractLsb' 28 2) (w.extractLsb' 17 5) (w.extractLsb' 12 5) (w.extractLsb' 7 5) (w.extractLsb' 2 5))
  | _ => .error 3

/-- X stream, major 0x12 (R300). -/
noncomputable def parseX12 (w : W32) : Except Nat Instr :=
  match (w.extractLsb' 0 4).toNat with
  | 0 => .ok (.vadd (w.extractLsb' 28 2) (w.extractLsb' 17 5) (w.extractLsb' 12 5) (w.extractLsb' 7 5) (w.extractLsb' 4 3))
  | 1 => .ok (.vsub (w.extractLsb' 28 2) (w.extractLsb' 17 5) (w.extractLsb' 12 5) (w.extractLsb' 7 5) (w.extractLsb' 4 3))
  | 2 => .ok (.vmul (w.extractLsb' 28 2) (w.extractLsb' 17 5) (w.extractLsb' 12 5) (w.extractLsb' 7 5) (w.extractLsb' 4 3))
  | 3 => .ok (.vmulh (w.extractLsb' 28 2) (w.extractLsb' 17 5) (w.extractLsb' 12 5) (w.extractLsb' 7 5) (w.extractLsb' 4 3))
  | 4 => .ok (.vmin (w.extractLsb' 28 2) (w.extractLsb' 17 5) (w.extractLsb' 12 5) (w.extractLsb' 7 5) (w.extractLsb' 4 3))
  | 5 => .ok (.vmax (w.extractLsb' 28 2) (w.extractLsb' 17 5) (w.extractLsb' 12 5) (w.extractLsb' 7 5) (w.extractLsb' 4 3))
  | 6 => .ok (.vminu (w.extractLsb' 28 2) (w.extractLsb' 17 5) (w.extractLsb' 12 5) (w.extractLsb' 7 5) (w.extractLsb' 4 3))
  | 7 => .ok (.vmaxu (w.extractLsb' 28 2) (w.extractLsb' 17 5) (w.extractLsb' 12 5) (w.extractLsb' 7 5) (w.extractLsb' 4 3))
  | 8 => .ok (.vand (w.extractLsb' 28 2) (w.extractLsb' 17 5) (w.extractLsb' 12 5) (w.extractLsb' 7 5) (w.extractLsb' 4 3))
  | 9 => .ok (.vor (w.extractLsb' 28 2) (w.extractLsb' 17 5) (w.extractLsb' 12 5) (w.extractLsb' 7 5) (w.extractLsb' 4 3))
  | 10 => .ok (.vxor (w.extractLsb' 28 2) (w.extractLsb' 17 5) (w.extractLsb' 12 5) (w.extractLsb' 7 5) (w.extractLsb' 4 3))
  | 11 => .ok (.vandn (w.extractLsb' 28 2) (w.extractLsb' 17 5) (w.extractLsb' 12 5) (w.extractLsb' 7 5) (w.extractLsb' 4 3))
  | 12 => .ok (.vadds (w.extractLsb' 28 2) (w.extractLsb' 17 5) (w.extractLsb' 12 5) (w.extractLsb' 7 5) (w.extractLsb' 4 3))
  | 13 => .ok (.vsubs (w.extractLsb' 28 2) (w.extractLsb' 17 5) (w.extractLsb' 12 5) (w.extractLsb' 7 5) (w.extractLsb' 4 3))
  | 14 => .ok (.vabs (w.extractLsb' 28 2) (w.extractLsb' 17 5) (w.extractLsb' 12 5) (w.extractLsb' 4 3))
  | 15 => .ok (.vpopc (w.extractLsb' 28 2) (w.extractLsb' 17 5) (w.extractLsb' 12 5) (w.extractLsb' 4 3))
  | _ => .error 3

/-- X stream, major 0x13 (R301). -/
noncomputable def parseX13 (w : W32) : Except Nat Instr :=
  match (w.extractLsb' 0 4).toNat with
  | 0 => .ok (.vshl (w.extractLsb' 28 2) (w.extractLsb' 17 5) (w.extractLsb' 12 5) (w.extractLsb' 7 5) (w.extractLsb' 4 3))
  | 1 => .ok (.vshr (w.extractLsb' 28 2) (w.extractLsb' 17 5) (w.extractLsb' 12 5) (w.extractLsb' 7 5) (w.extractLsb' 4 3))
  | 2 => .ok (.vsra (w.extractLsb' 28 2) (w.extractLsb' 17 5) (w.extractLsb' 12 5) (w.extractLsb' 7 5) (w.extractLsb' 4 3))
  | 3 => .ok (.vrot (w.extractLsb' 28 2) (w.extractLsb' 17 5) (w.extractLsb' 12 5) (w.extractLsb' 7 5) (w.extractLsb' 4 3))
  | 4 => .ok (.vshli (w.extractLsb' 28 2) (w.extractLsb' 17 5) (w.extractLsb' 12 5) (w.extractLsb' 7 5) (w.extractLsb' 4 3))
  | 5 => .ok (.vshri (w.extractLsb' 28 2) (w.extractLsb' 17 5) (w.extractLsb' 12 5) (w.extractLsb' 7 5) (w.extractLsb' 4 3))
  | 6 => .ok (.vsrai (w.extractLsb' 28 2) (w.extractLsb' 17 5) (w.extractLsb' 12 5) (w.extractLsb' 7 5) (w.extractLsb' 4 3))
  | _ => .error 3

/-- X stream, major 0x14 (R302). -/
noncomputable def parseX14 (w : W32) : Except Nat Instr :=
  match (w.extractLsb' 0 4).toNat with
  | 0 => .ok (.vfeq (w.extractLsb' 28 2) (w.extractLsb' 17 3) (w.extractLsb' 12 5) (w.extractLsb' 7 5) (w.extractLsb' 4 3))
  | 1 => .ok (.vflt (w.extractLsb' 28 2) (w.extractLsb' 17 3) (w.extractLsb' 12 5) (w.extractLsb' 7 5) (w.extractLsb' 4 3))
  | 2 => .ok (.vfle (w.extractLsb' 28 2) (w.extractLsb' 17 3) (w.extractLsb' 12 5) (w.extractLsb' 7 5) (w.extractLsb' 4 3))
  | 3 => .ok (.vfunord (w.extractLsb' 28 2) (w.extractLsb' 17 3) (w.extractLsb' 12 5) (w.extractLsb' 7 5) (w.extractLsb' 4 3))
  | 4 => .ok (.veq (w.extractLsb' 28 2) (w.extractLsb' 17 3) (w.extractLsb' 12 5) (w.extractLsb' 7 5) (w.extractLsb' 4 3))
  | 5 => .ok (.vne (w.extractLsb' 28 2) (w.extractLsb' 17 3) (w.extractLsb' 12 5) (w.extractLsb' 7 5) (w.extractLsb' 4 3))
  | 6 => .ok (.vlt (w.extractLsb' 28 2) (w.extractLsb' 17 3) (w.extractLsb' 12 5) (w.extractLsb' 7 5) (w.extractLsb' 4 3))
  | 7 => .ok (.vltu (w.extractLsb' 28 2) (w.extractLsb' 17 3) (w.extractLsb' 12 5) (w.extractLsb' 7 5) (w.extractLsb' 4 3))
  | 8 => .ok (.vle (w.extractLsb' 28 2) (w.extractLsb' 17 3) (w.extractLsb' 12 5) (w.extractLsb' 7 5) (w.extractLsb' 4 3))
  | 9 => .ok (.vleu (w.extractLsb' 28 2) (w.extractLsb' 17 3) (w.extractLsb' 12 5) (w.extractLsb' 7 5) (w.extractLsb' 4 3))
  | _ => .error 3

/-- X stream, major 0x15 (R303). -/
noncomputable def parseX15 (w : W32) : Except Nat Instr :=
  match (w.extractLsb' 0 4).toNat with
  | 0 => .ok (.vsel (w.extractLsb' 28 2) (w.extractLsb' 17 5) (w.extractLsb' 12 5) (w.extractLsb' 7 5) (w.extractLsb' 4 3))
  | _ => .error 3

/-- X stream, major 0x16 (R305). -/
noncomputable def parseX16 (w : W32) : Except Nat Instr :=
  match (w.extractLsb' 0 4).toNat with
  | 0 => .ok (.vexp2 (w.extractLsb' 28 2) (w.extractLsb' 17 5) (w.extractLsb' 12 5) (w.extractLsb' 4 3))
  | 1 => .ok (.vlog2 (w.extractLsb' 28 2) (w.extractLsb' 17 5) (w.extractLsb' 12 5) (w.extractLsb' 4 3))
  | 2 => .ok (.vrcp (w.extractLsb' 28 2) (w.extractLsb' 17 5) (w.extractLsb' 12 5) (w.extractLsb' 4 3))
  | 3 => .ok (.vrsq (w.extractLsb' 28 2) (w.extractLsb' 17 5) (w.extractLsb' 12 5) (w.extractLsb' 4 3))
  | 4 => .ok (.vsqrt (w.extractLsb' 28 2) (w.extractLsb' 17 5) (w.extractLsb' 12 5) (w.extractLsb' 4 3))
  | _ => .error 3

/-- X stream, major 0x17 (R307). -/
noncomputable def parseX17 (w : W32) : Except Nat Instr :=
  match (w.extractLsb' 0 4).toNat with
  | 0 => .ok (.vcvtF32Bf16 (w.extractLsb' 28 2) (w.extractLsb' 17 5) (w.extractLsb' 12 5) (w.extractLsb' 4 3))
  | 1 => .ok (.vcvtF32F16 (w.extractLsb' 28 2) (w.extractLsb' 17 5) (w.extractLsb' 12 5) (w.extractLsb' 4 3))
  | 2 => .ok (.vcvtF32E4m3 (w.extractLsb' 28 2) (w.extractLsb' 17 5) (w.extractLsb' 12 5) (w.extractLsb' 4 3))
  | 3 => .ok (.vcvtF32E5m2 (w.extractLsb' 28 2) (w.extractLsb' 17 5) (w.extractLsb' 12 5) (w.extractLsb' 4 3))
  | 4 => .ok (.vcvtF32E2m1 (w.extractLsb' 28 2) (w.extractLsb' 17 5) (w.extractLsb' 12 5) (w.extractLsb' 4 3))
  | 5 => .ok (.vcvtBf16F32 (w.extractLsb' 28 2) (w.extractLsb' 17 5) (w.extractLsb' 12 5) (w.extractLsb' 4 3))
  | 6 => .ok (.vcvtF16F32 (w.extractLsb' 28 2) (w.extractLsb' 17 5) (w.extractLsb' 12 5) (w.extractLsb' 4 3))
  | 7 => .ok (.vcvtE4m3F32Sat (w.extractLsb' 28 2) (w.extractLsb' 17 5) (w.extractLsb' 12 5) (w.extractLsb' 4 3))
  | 8 => .ok (.vcvtE4m3F32 (w.extractLsb' 28 2) (w.extractLsb' 17 5) (w.extractLsb' 12 5) (w.extractLsb' 4 3))
  | 9 => .ok (.vcvtE5m2F32Sat (w.extractLsb' 28 2) (w.extractLsb' 17 5) (w.extractLsb' 12 5) (w.extractLsb' 4 3))
  | 10 => .ok (.vcvtE5m2F32 (w.extractLsb' 28 2) (w.extractLsb' 17 5) (w.extractLsb' 12 5) (w.extractLsb' 4 3))
  | 11 => .ok (.vcvtE2m1F32 (w.extractLsb' 28 2) (w.extractLsb' 17 5) (w.extractLsb' 12 5) (w.extractLsb' 4 3))
  | 12 => .ok (.vcvtF32I32 (w.extractLsb' 28 2) (w.extractLsb' 17 5) (w.extractLsb' 12 5) (w.extractLsb' 4 3))
  | 13 => .ok (.vcvtI32F32 (w.extractLsb' 28 2) (w.extractLsb' 17 5) (w.extractLsb' 12 5) (w.extractLsb' 4 3))
  | 14 => .ok (.vcvtF32E8m0 (w.extractLsb' 28 2) (w.extractLsb' 17 5) (w.extractLsb' 12 5) (w.extractLsb' 4 3))
  | 15 => .ok (.vcvtE8m0F32 (w.extractLsb' 28 2) (w.extractLsb' 17 5) (w.extractLsb' 12 5) (w.extractLsb' 4 3))
  | _ => .error 3

/-- X stream, major 0x18 (R309). -/
noncomputable def parseX18 (w : W32) : Except Nat Instr :=
  match (w.extractLsb' 0 4).toNat with
  | 0 => .ok (.vcvtsrBf16 (w.extractLsb' 28 2) (w.extractLsb' 17 5) (w.extractLsb' 12 5) (w.extractLsb' 7 5) (w.extractLsb' 4 3))
  | 1 => .ok (.vcvtsrF16 (w.extractLsb' 28 2) (w.extractLsb' 17 5) (w.extractLsb' 12 5) (w.extractLsb' 7 5) (w.extractLsb' 4 3))
  | 2 => .ok (.vcvtsrE4m3Sat (w.extractLsb' 28 2) (w.extractLsb' 17 5) (w.extractLsb' 12 5) (w.extractLsb' 7 5) (w.extractLsb' 4 3))
  | 3 => .ok (.vcvtsrE4m3 (w.extractLsb' 28 2) (w.extractLsb' 17 5) (w.extractLsb' 12 5) (w.extractLsb' 7 5) (w.extractLsb' 4 3))
  | 4 => .ok (.vcvtsrE5m2Sat (w.extractLsb' 28 2) (w.extractLsb' 17 5) (w.extractLsb' 12 5) (w.extractLsb' 7 5) (w.extractLsb' 4 3))
  | 5 => .ok (.vcvtsrE5m2 (w.extractLsb' 28 2) (w.extractLsb' 17 5) (w.extractLsb' 12 5) (w.extractLsb' 7 5) (w.extractLsb' 4 3))
  | 6 => .ok (.vcvtsrE2m1 (w.extractLsb' 28 2) (w.extractLsb' 17 5) (w.extractLsb' 12 5) (w.extractLsb' 7 5) (w.extractLsb' 4 3))
  | _ => .error 3

/-- X stream, major 0x19 (R310). -/
noncomputable def parseX19 (w : W32) : Except Nat Instr :=
  match (w.extractLsb' 0 4).toNat with
  | 0 => .ok (.vredfadd (w.extractLsb' 28 2) (w.extractLsb' 17 5) (w.extractLsb' 12 5) (w.extractLsb' 4 3))
  | 1 => .ok (.vredfmax (w.extractLsb' 28 2) (w.extractLsb' 17 5) (w.extractLsb' 12 5) (w.extractLsb' 4 3))
  | 2 => .ok (.vredfmin (w.extractLsb' 28 2) (w.extractLsb' 17 5) (w.extractLsb' 12 5) (w.extractLsb' 4 3))
  | 3 => .ok (.vredadd (w.extractLsb' 28 2) (w.extractLsb' 17 5) (w.extractLsb' 12 5) (w.extractLsb' 4 3))
  | 4 => .ok (.vredmax (w.extractLsb' 28 2) (w.extractLsb' 17 5) (w.extractLsb' 12 5) (w.extractLsb' 4 3))
  | 5 => .ok (.vredmin (w.extractLsb' 28 2) (w.extractLsb' 17 5) (w.extractLsb' 12 5) (w.extractLsb' 4 3))
  | 6 => .ok (.vredmaxu (w.extractLsb' 28 2) (w.extractLsb' 17 5) (w.extractLsb' 12 5) (w.extractLsb' 4 3))
  | 7 => .ok (.vredminu (w.extractLsb' 28 2) (w.extractLsb' 17 5) (w.extractLsb' 12 5) (w.extractLsb' 4 3))
  | 8 => .ok (.vredand (w.extractLsb' 28 2) (w.extractLsb' 17 5) (w.extractLsb' 12 5) (w.extractLsb' 4 3))
  | 9 => .ok (.vredor (w.extractLsb' 28 2) (w.extractLsb' 17 5) (w.extractLsb' 12 5) (w.extractLsb' 4 3))
  | 10 => .ok (.vredxor (w.extractLsb' 28 2) (w.extractLsb' 17 5) (w.extractLsb' 12 5) (w.extractLsb' 4 3))
  | _ => .error 3

/-- X stream, major 0x1A (R314). -/
noncomputable def parseX1A (w : W32) : Except Nat Instr :=
  match (w.extractLsb' 15 1).toNat with
  | 0 => .ok (.vrowld (w.extractLsb' 28 2) (w.extractLsb' 16 6) (w.extractLsb' 10 5) (w.extractLsb' 6 4) (w.extractLsb' 5 1) (w.extractLsb' 0 5))
  | 1 => .ok (.vrowst (w.extractLsb' 28 2) (w.extractLsb' 16 6) (w.extractLsb' 10 5) (w.extractLsb' 5 1) (w.extractLsb' 0 5))
  | _ => .error 3

/-- X stream, major 0x1B (R311). -/
noncomputable def parseX1B (w : W32) : Except Nat Instr :=
  match (w.extractLsb' 0 2).toNat with
  | 0 => .ok (.vperm (w.extractLsb' 28 2) (w.extractLsb' 17 5) (w.extractLsb' 12 5) (w.extractLsb' 7 5) (w.extractLsb' 2 5))
  | 1 => .ok (.vxpose8 (w.extractLsb' 28 2) (w.extractLsb' 17 5) (w.extractLsb' 12 5))
  | _ => .error 3

/-- X stream, major 0x1C (R308). -/
noncomputable def parseX1C (w : W32) : Except Nat Instr :=
  match (w.extractLsb' 0 4).toNat with
  | 0 => .ok (.vsrbits (w.extractLsb' 28 2) (w.extractLsb' 17 5) (w.extractLsb' 12 5) (w.extractLsb' 7 5) (w.extractLsb' 4 3))
  | 1 => .ok (.vlane (w.extractLsb' 28 2) (w.extractLsb' 17 5) (w.extractLsb' 4 3))
  | _ => .error 3

/-- X stream, major 0x1D (R304). -/
noncomputable def parseX1D (w : W32) : Except Nat Instr :=
  match (w.extractLsb' 0 4).toNat with
  | 0 => .ok (.mand (w.extractLsb' 28 2) (w.extractLsb' 17 3) (w.extractLsb' 12 3) (w.extractLsb' 7 3))
  | 1 => .ok (.mor (w.extractLsb' 28 2) (w.extractLsb' 17 3) (w.extractLsb' 12 3) (w.extractLsb' 7 3))
  | 2 => .ok (.mxor (w.extractLsb' 28 2) (w.extractLsb' 17 3) (w.extractLsb' 12 3) (w.extractLsb' 7 3))
  | 3 => .ok (.mandn (w.extractLsb' 28 2) (w.extractLsb' 17 3) (w.extractLsb' 12 3) (w.extractLsb' 7 3))
  | 4 => .ok (.mnot (w.extractLsb' 28 2) (w.extractLsb' 17 3) (w.extractLsb' 12 3))
  | 5 => .ok (.mfirst (w.extractLsb' 28 2) (w.extractLsb' 17 3) (w.extractLsb' 12 3))
  | 6 => .ok (.mfromv (w.extractLsb' 28 2) (w.extractLsb' 17 3) (w.extractLsb' 12 5))
  | 7 => .ok (.mtov (w.extractLsb' 28 2) (w.extractLsb' 17 5) (w.extractLsb' 12 3))
  | _ => .error 3

/-- X stream, major 0x1E (R312). -/
noncomputable def parseX1E (w : W32) : Except Nat Instr :=
  match (w.extractLsb' 0 4).toNat with
  | 0 => .ok (.vbcast (w.extractLsb' 28 2) (w.extractLsb' 16 5) (w.extractLsb' 10 6))
  | 1 => .ok (.vext (w.extractLsb' 28 2) (w.extractLsb' 16 6) (w.extractLsb' 10 5) (w.extractLsb' 4 6))
  | 2 => .ok (.vins (w.extractLsb' 28 2) (w.extractLsb' 16 5) (w.extractLsb' 10 6) (w.extractLsb' 4 6))
  | 3 => .ok (.mcount (w.extractLsb' 28 2) (w.extractLsb' 16 6) (w.extractLsb' 10 3))
  | 4 => .ok (.mfind (w.extractLsb' 28 2) (w.extractLsb' 16 6) (w.extractLsb' 10 3))
  | _ => .error 3

/-- X stream, major 0x20 (R324). -/
noncomputable def parseX20 (w : W32) : Except Nat Instr :=
  match (w.extractLsb' 0 3).toNat with
  | 0 => .ok (.wld (w.extractLsb' 28 2) (w.extractLsb' 14 6) (w.extractLsb' 8 6) (w.extractLsb' 4 4) (w.extractLsb' 3 1))
  | _ => .error 3

/-- X stream, major 0x21 (R324). -/
noncomputable def parseX21 (w : W32) : Except Nat Instr :=
  match (w.extractLsb' 0 3).toNat with
  | 0 => .ok (.wldx (w.extractLsb' 28 2) (w.extractLsb' 14 6) (w.extractLsb' 8 6) (w.extractLsb' 4 4) (w.extractLsb' 3 1))
  | _ => .error 3

/-- X stream, major 0x22 (R326). -/
noncomputable def parseX22 (w : W32) : Except Nat Instr :=
  match (w.extractLsb' 0 3).toNat with
  | 0 => .ok (.wswap (w.extractLsb' 28 2))
  | _ => .error 3

/-- X stream, major 0x23 (R327). -/
noncomputable def parseX23 (w : W32) : Except Nat Instr :=
  match (w.extractLsb' 0 3).toNat with
  | 0 => .ok (.ashape (w.extractLsb' 28 2) (w.extractLsb' 8 4))
  | _ => .error 3

/-- X stream, major 0x24 (R329). -/
noncomputable def parseX24 (w : W32) : Except Nat Instr :=
  match (w.extractLsb' 0 3).toNat with
  | 0 | 1 | 2 | 3 => .ok (.mm (w.extractLsb' 28 2) (w.extractLsb' 20 2) (w.extractLsb' 14 6) (w.extractLsb' 8 6) (w.extractLsb' 4 4) (w.extractLsb' 3 1) (w.extractLsb' 1 1) (w.extractLsb' 0 1))
  | _ => .error 3

/-- X stream, major 0x25 (R329). -/
noncomputable def parseX25 (w : W32) : Except Nat Instr :=
  match (w.extractLsb' 0 3).toNat with
  | 0 | 1 | 2 | 3 => .ok (.mmt (w.extractLsb' 28 2) (w.extractLsb' 20 2) (w.extractLsb' 14 6) (w.extractLsb' 8 6) (w.extractLsb' 4 4) (w.extractLsb' 3 1) (w.extractLsb' 1 1) (w.extractLsb' 0 1))
  | _ => .error 3

/-- X stream, major 0x26 (R332). -/
noncomputable def parseX26 (w : W32) : Except Nat Instr :=
  match (w.extractLsb' 0 3).toNat with
  | 0 | 1 => .ok (.mmu (w.extractLsb' 28 2) (w.extractLsb' 20 2) (w.extractLsb' 14 6) (w.extractLsb' 8 6) (w.extractLsb' 4 4) (w.extractLsb' 3 1) (w.extractLsb' 0 1))
  | _ => .error 3

/-- X stream, major 0x27 (R332). -/
noncomputable def parseX27 (w : W32) : Except Nat Instr :=
  match (w.extractLsb' 0 3).toNat with
  | 0 | 1 => .ok (.mmus (w.extractLsb' 28 2) (w.extractLsb' 20 2) (w.extractLsb' 14 6) (w.extractLsb' 8 6) (w.extractLsb' 4 4) (w.extractLsb' 3 1) (w.extractLsb' 0 1))
  | _ => .error 3

/-- X stream, major 0x28 (R333). -/
noncomputable def parseX28 (w : W32) : Except Nat Instr :=
  match (w.extractLsb' 0 3).toNat with
  | 0 => .ok (.mmz (w.extractLsb' 28 2) (w.extractLsb' 20 2))
  | 1 => .ok (.mmzAll (w.extractLsb' 28 2))
  | _ => .error 3

/-- X stream, major 0x29 (R336). -/
noncomputable def parseX29 (w : W32) : Except Nat Instr :=
  match (w.extractLsb' 0 3).toNat with
  | 0 => .ok (.drnF32 (w.extractLsb' 28 2) (w.extractLsb' 20 2) (w.extractLsb' 14 6) (w.extractLsb' 3 1))
  | 1 => .ok (.drnBf16 (w.extractLsb' 28 2) (w.extractLsb' 20 2) (w.extractLsb' 14 6) (w.extractLsb' 3 1))
  | 2 => .ok (.drnBf16Sr (w.extractLsb' 28 2) (w.extractLsb' 20 2) (w.extractLsb' 14 6) (w.extractLsb' 8 6) (w.extractLsb' 3 1))
  | _ => .error 3

/-- X stream, major 0x2A (R336). -/
noncomputable def parseX2A (w : W32) : Except Nat Instr :=
  match (w.extractLsb' 0 3).toNat with
  | 0 => .ok (.drnE4m3Sat (w.extractLsb' 28 2) (w.extractLsb' 20 2) (w.extractLsb' 14 6) (w.extractLsb' 3 1))
  | 1 => .ok (.drnE4m3 (w.extractLsb' 28 2) (w.extractLsb' 20 2) (w.extractLsb' 14 6) (w.extractLsb' 3 1))
  | 2 => .ok (.drnE4m3SrSat (w.extractLsb' 28 2) (w.extractLsb' 20 2) (w.extractLsb' 14 6) (w.extractLsb' 8 6) (w.extractLsb' 3 1))
  | 3 => .ok (.drnE4m3Sr (w.extractLsb' 28 2) (w.extractLsb' 20 2) (w.extractLsb' 14 6) (w.extractLsb' 8 6) (w.extractLsb' 3 1))
  | 4 => .ok (.drnE5m2Sat (w.extractLsb' 28 2) (w.extractLsb' 20 2) (w.extractLsb' 14 6) (w.extractLsb' 3 1))
  | 5 => .ok (.drnE5m2 (w.extractLsb' 28 2) (w.extractLsb' 20 2) (w.extractLsb' 14 6) (w.extractLsb' 3 1))
  | 6 => .ok (.drnE5m2SrSat (w.extractLsb' 28 2) (w.extractLsb' 20 2) (w.extractLsb' 14 6) (w.extractLsb' 8 6) (w.extractLsb' 3 1))
  | 7 => .ok (.drnE5m2Sr (w.extractLsb' 28 2) (w.extractLsb' 20 2) (w.extractLsb' 14 6) (w.extractLsb' 8 6) (w.extractLsb' 3 1))
  | _ => .error 3

/-- X stream, major 0x2B (R336, R337). -/
noncomputable def parseX2B (w : W32) : Except Nat Instr :=
  match (w.extractLsb' 0 3).toNat with
  | 0 => .ok (.drnMx8e4 (w.extractLsb' 28 2) (w.extractLsb' 20 2) (w.extractLsb' 14 6) (w.extractLsb' 3 1))
  | 1 => .ok (.drnMx8e4Sr (w.extractLsb' 28 2) (w.extractLsb' 20 2) (w.extractLsb' 14 6) (w.extractLsb' 8 6) (w.extractLsb' 3 1))
  | 2 => .ok (.drnMx8e5 (w.extractLsb' 28 2) (w.extractLsb' 20 2) (w.extractLsb' 14 6) (w.extractLsb' 3 1))
  | 3 => .ok (.drnMx8e5Sr (w.extractLsb' 28 2) (w.extractLsb' 20 2) (w.extractLsb' 14 6) (w.extractLsb' 8 6) (w.extractLsb' 3 1))
  | 4 => .ok (.drnMx4 (w.extractLsb' 28 2) (w.extractLsb' 20 2) (w.extractLsb' 14 6) (w.extractLsb' 3 1))
  | 5 => .ok (.drnMx4Sr (w.extractLsb' 28 2) (w.extractLsb' 20 2) (w.extractLsb' 14 6) (w.extractLsb' 8 6) (w.extractLsb' 3 1))
  | 6 => .ok (.drnBx24 (w.extractLsb' 28 2) (w.extractLsb' 20 2) (w.extractLsb' 14 6) (w.extractLsb' 3 1))
  | _ => .error 3

/-- X stream, major 0x2C (R338). -/
noncomputable def parseX2C (w : W32) : Except Nat Instr :=
  match (w.extractLsb' 0 3).toNat with
  | 0 => .ok (.drna (w.extractLsb' 28 2) (w.extractLsb' 20 2) (w.extractLsb' 14 6) (w.extractLsb' 4 4) (w.extractLsb' 3 1))
  | _ => .error 3

/-- X stream, major 0x2D (R340). -/
noncomputable def parseX2D (w : W32) : Except Nat Instr :=
  match (w.extractLsb' 0 4).toNat with
  | 0 => .ok (.merrq (w.extractLsb' 28 2) (w.extractLsb' 16 6))
  | 1 => .ok (.merrs (w.extractLsb' 28 2) (w.extractLsb' 16 6))
  | 2 => .ok (.merrc (w.extractLsb' 28 2))
  | _ => .error 3

/-- X stream, major 0x30 (R281). -/
noncomputable def parseX30 (w : W32) : Except Nat Instr :=
  match (w.extractLsb' 0 5).toNat with
  | 0 => .ok (.rinitX (w.extractLsb' 28 2) (w.extractLsb' 16 6) (w.extractLsb' 13 3))
  | 1 => .ok (.rclaimX (w.extractLsb' 28 2) (w.extractLsb' 16 6) (w.extractLsb' 10 6) (w.extractLsb' 6 4))
  | 2 => .ok (.rpubX (w.extractLsb' 28 2) (w.extractLsb' 16 6) (w.extractLsb' 10 6))
  | 3 => .ok (.rwaitfX (w.extractLsb' 28 2) (w.extractLsb' 13 3) (w.extractLsb' 6 4))
  | 4 => .ok (.rrelX (w.extractLsb' 28 2) (w.extractLsb' 13 3))
  | _ => .error 3

/-- X stream, major 0x31 (R283). -/
noncomputable def parseX31 (w : W32) : Except Nat Instr :=
  match (w.extractLsb' 0 5).toNat with
  | 0 => .ok (.semadd (w.extractLsb' 28 2) (w.extractLsb' 16 6) (w.extractLsb' 10 6))
  | 1 => .ok (.semclr (w.extractLsb' 28 2) (w.extractLsb' 16 6))
  | _ => .error 3

/-- X stream, major 0x38 (R364). -/
noncomputable def parseX38 (w : W32) : Except Nat Instr :=
  match (w.extractLsb' 0 5).toNat with
  | 0 => .ok (.gland (w.extractLsb' 16 5))
  | 1 => .ok (.glrd (w.extractLsb' 16 5))
  | 2 => .ok (.glst (w.extractLsb' 16 5))
  | _ => .error 3

/-- X stream, major 0x39 (R365). -/
noncomputable def parseX39 (w : W32) : Except Nat Instr :=
  match (w.extractLsb' 0 5).toNat with
  | 0 => .ok (.skipz)
  | 1 => .ok (.skipzAcc)
  | _ => .error 3

/-- X stream, major 0x3A (R366). -/
noncomputable def parseX3A (_w : W32) : Except Nat Instr :=
  .ok (.abend)

/-- S stream, major 0x02 (R259). -/
noncomputable def parseS02 (w : W32) : Except Nat Instr :=
  match (w.extractLsb' 0 4).toNat with
  | 0 => .ok (.sadd (w.extractLsb' 28 2) (w.extractLsb' 16 6) (w.extractLsb' 10 6) (w.extractLsb' 4 6))
  | 1 => .ok (.ssub (w.extractLsb' 28 2) (w.extractLsb' 16 6) (w.extractLsb' 10 6) (w.extractLsb' 4 6))
  | 2 => .ok (.sand (w.extractLsb' 28 2) (w.extractLsb' 16 6) (w.extractLsb' 10 6) (w.extractLsb' 4 6))
  | 3 => .ok (.sor (w.extractLsb' 28 2) (w.extractLsb' 16 6) (w.extractLsb' 10 6) (w.extractLsb' 4 6))
  | 4 => .ok (.sxor (w.extractLsb' 28 2) (w.extractLsb' 16 6) (w.extractLsb' 10 6) (w.extractLsb' 4 6))
  | 5 => .ok (.sandn (w.extractLsb' 28 2) (w.extractLsb' 16 6) (w.extractLsb' 10 6) (w.extractLsb' 4 6))
  | 6 => .ok (.sshl (w.extractLsb' 28 2) (w.extractLsb' 16 6) (w.extractLsb' 10 6) (w.extractLsb' 4 6))
  | 7 => .ok (.sshr (w.extractLsb' 28 2) (w.extractLsb' 16 6) (w.extractLsb' 10 6) (w.extractLsb' 4 6))
  | 8 => .ok (.ssra (w.extractLsb' 28 2) (w.extractLsb' 16 6) (w.extractLsb' 10 6) (w.extractLsb' 4 6))
  | 9 => .ok (.smin (w.extractLsb' 28 2) (w.extractLsb' 16 6) (w.extractLsb' 10 6) (w.extractLsb' 4 6))
  | 10 => .ok (.smax (w.extractLsb' 28 2) (w.extractLsb' 16 6) (w.extractLsb' 10 6) (w.extractLsb' 4 6))
  | 11 => .ok (.sminu (w.extractLsb' 28 2) (w.extractLsb' 16 6) (w.extractLsb' 10 6) (w.extractLsb' 4 6))
  | 12 => .ok (.smaxu (w.extractLsb' 28 2) (w.extractLsb' 16 6) (w.extractLsb' 10 6) (w.extractLsb' 4 6))
  | 13 => .ok (.saddw (w.extractLsb' 28 2) (w.extractLsb' 16 6) (w.extractLsb' 10 6) (w.extractLsb' 4 6))
  | 14 => .ok (.ssubw (w.extractLsb' 28 2) (w.extractLsb' 16 6) (w.extractLsb' 10 6) (w.extractLsb' 4 6))
  | 15 => .ok (.sclz (w.extractLsb' 28 2) (w.extractLsb' 16 6) (w.extractLsb' 10 6))
  | _ => .error 3

/-- S stream, major 0x03 (R259). -/
noncomputable def parseS03 (w : W32) : Except Nat Instr :=
  .ok (.saddi (w.extractLsb' 28 2) (w.extractLsb' 16 6) (w.extractLsb' 10 6) (w.extractLsb' 0 10))

/-- S stream, major 0x04 (R259). -/
noncomputable def parseS04 (w : W32) : Except Nat Instr :=
  .ok (.sli (w.extractLsb' 28 2) (w.extractLsb' 16 6) (w.extractLsb' 0 16))

/-- S stream, major 0x05 (R259). -/
noncomputable def parseS05 (w : W32) : Except Nat Instr :=
  .ok (.smovk (w.extractLsb' 28 2) (w.extractLsb' 16 6) (w.extractLsb' 10 6) (w.extractLsb' 4 6) (w.extractLsb' 0 4))

/-- S stream, major 0x08 (R264). -/
noncomputable def parseS08 (w : W32) : Except Nat Instr :=
  .ok (.st (w.extractLsb' 28 2) (w.extractLsb' 16 6) (w.extractLsb' 10 6) (w.extractLsb' 6 4) (w.extractLsb' 4 2) (w.extractLsb' 0 4))

/-- S stream, major 0x0A (R272). -/
noncomputable def parseS0A (w : W32) : Except Nat Instr :=
  match (w.extractLsb' 0 5).toNat with
  | 0 => .ok (.tst (w.extractLsb' 28 2) (w.extractLsb' 16 6) (w.extractLsb' 10 6) (w.extractLsb' 6 4) (w.extractLsb' 5 1))
  | _ => .error 3

/-- S stream, major 0x0B (R273). -/
noncomputable def parseS0B (w : W32) : Except Nat Instr :=
  match (w.extractLsb' 0 5).toNat with
  | 0 => .ok (.tscat (w.extractLsb' 28 2) (w.extractLsb' 16 6) (w.extractLsb' 10 6) (w.extractLsb' 6 4) (w.extractLsb' 5 1))
  | _ => .error 3

/-- S stream, major 0x0C (R290). -/
noncomputable def parseS0C (w : W32) : Except Nat Instr :=
  match (w.extractLsb' 0 5).toNat with
  | 0 => .ok (.stash (w.extractLsb' 28 2) (w.extractLsb' 16 6) (w.extractLsb' 10 6) (w.extractLsb' 6 4) (w.extractLsb' 5 1))
  | 1 => .ok (.stashdrop (w.extractLsb' 28 2) (w.extractLsb' 10 6))
  | _ => .error 3

/-- S stream, major 0x10 (R285, R289). -/
noncomputable def parseS10 (w : W32) : Except Nat Instr :=
  match (w.extractLsb' 16 4).toNat with
  | 0 => if w.getLsbD 3 = true ∧ w.getLsbD 20 = false then .ok (.atomnrSwap (w.extractLsb' 28 2) (w.extractLsb' 21 1) (w.extractLsb' 10 6) (w.extractLsb' 4 6) (w.extractLsb' 2 1)) else .error 3
  | 1 => if w.getLsbD 3 = true ∧ w.getLsbD 20 = false then .ok (.atomnrCas (w.extractLsb' 28 2) (w.extractLsb' 21 1) (w.extractLsb' 10 6) (w.extractLsb' 4 6) (w.extractLsb' 2 1)) else .error 3
  | 2 => if w.getLsbD 3 = true ∧ w.getLsbD 20 = false then .ok (.atomnrAdd (w.extractLsb' 28 2) (w.extractLsb' 21 1) (w.extractLsb' 10 6) (w.extractLsb' 4 6) (w.extractLsb' 2 1)) else .error 3
  | 3 => if w.getLsbD 3 = true ∧ w.getLsbD 20 = false then .ok (.atomnrAnd (w.extractLsb' 28 2) (w.extractLsb' 21 1) (w.extractLsb' 10 6) (w.extractLsb' 4 6) (w.extractLsb' 2 1)) else .error 3
  | 4 => if w.getLsbD 3 = true ∧ w.getLsbD 20 = false then .ok (.atomnrOr (w.extractLsb' 28 2) (w.extractLsb' 21 1) (w.extractLsb' 10 6) (w.extractLsb' 4 6) (w.extractLsb' 2 1)) else .error 3
  | 5 => if w.getLsbD 3 = true ∧ w.getLsbD 20 = false then .ok (.atomnrXor (w.extractLsb' 28 2) (w.extractLsb' 21 1) (w.extractLsb' 10 6) (w.extractLsb' 4 6) (w.extractLsb' 2 1)) else .error 3
  | 6 => if w.getLsbD 3 = true ∧ w.getLsbD 20 = false then .ok (.atomnrMin (w.extractLsb' 28 2) (w.extractLsb' 21 1) (w.extractLsb' 10 6) (w.extractLsb' 4 6) (w.extractLsb' 2 1)) else .error 3
  | 7 => if w.getLsbD 3 = true ∧ w.getLsbD 20 = false then .ok (.atomnrMax (w.extractLsb' 28 2) (w.extractLsb' 21 1) (w.extractLsb' 10 6) (w.extractLsb' 4 6) (w.extractLsb' 2 1)) else .error 3
  | 8 => if w.getLsbD 3 = true ∧ w.getLsbD 20 = false then .ok (.atomnrMinu (w.extractLsb' 28 2) (w.extractLsb' 21 1) (w.extractLsb' 10 6) (w.extractLsb' 4 6) (w.extractLsb' 2 1)) else .error 3
  | 9 => if w.getLsbD 3 = true ∧ w.getLsbD 20 = false then .ok (.atomnrMaxu (w.extractLsb' 28 2) (w.extractLsb' 21 1) (w.extractLsb' 10 6) (w.extractLsb' 4 6) (w.extractLsb' 2 1)) else .error 3
  | 10 => if w.getLsbD 3 = true ∧ w.getLsbD 20 = false then .ok (.atomnrIncw (w.extractLsb' 28 2) (w.extractLsb' 21 1) (w.extractLsb' 10 6) (w.extractLsb' 4 6) (w.extractLsb' 2 1)) else .error 3
  | 11 => if w.getLsbD 3 = true ∧ w.getLsbD 20 = false then .ok (.atomnrDecw (w.extractLsb' 28 2) (w.extractLsb' 21 1) (w.extractLsb' 10 6) (w.extractLsb' 4 6) (w.extractLsb' 2 1)) else .error 3
  | 12 => if w.getLsbD 3 = true ∧ w.getLsbD 20 = false then .ok (.atomnrFaddb (w.extractLsb' 28 2) (w.extractLsb' 21 1) (w.extractLsb' 10 6) (w.extractLsb' 4 6) (w.extractLsb' 2 1)) else .error 3
  | 13 => if w.getLsbD 3 = true ∧ w.getLsbD 20 = false then .ok (.atomnrFaddt (w.extractLsb' 28 2) (w.extractLsb' 21 1) (w.extractLsb' 10 6) (w.extractLsb' 4 6) (w.extractLsb' 2 1)) else .error 3
  | 14 => if w.extractLsb' 2 2 = 2#2 ∧ w.getLsbD 20 = false then .ok (.atomnrFaddF32 (w.extractLsb' 28 2) (w.extractLsb' 21 1) (w.extractLsb' 10 6) (w.extractLsb' 4 6)) else .error 3
  | 15 => if w.extractLsb' 2 2 = 2#2 ∧ w.getLsbD 20 = false then .ok (.atomnrFmaxF32 (w.extractLsb' 28 2) (w.extractLsb' 21 1) (w.extractLsb' 10 6) (w.extractLsb' 4 6)) else .error 3
  | _ => .error 3

/-- S stream, major 0x11 (R356). -/
noncomputable def parseS11 (w : W32) : Except Nat Instr :=
  match (w.extractLsb' 4 2).toNat with
  | 2 => .ok (.nmadd (w.extractLsb' 28 2) (w.extractLsb' 16 6) (w.extractLsb' 10 6) (w.extractLsb' 6 4) (w.extractLsb' 0 4))
  | _ => .error 3

/-- S stream, major 0x12 (R357). -/
noncomputable def parseS12 (w : W32) : Except Nat Instr :=
  .ok (.nmfence (w.extractLsb' 28 2))

/-- S stream, major 0x14 (R342, R539). -/
noncomputable def parseS14 (w : W32) : Except Nat Instr :=
  match (w.extractLsb' 0 5).toNat with
  | 0 => .ok (.bkcopy (w.extractLsb' 28 2) (w.extractLsb' 10 6))
  | 1 => .ok (.bkfill (w.extractLsb' 28 2) (w.extractLsb' 10 6))
  | 2 => .ok (.bkand (w.extractLsb' 28 2) (w.extractLsb' 10 6))
  | 3 => .ok (.bkor (w.extractLsb' 28 2) (w.extractLsb' 10 6))
  | 4 => .ok (.bknot (w.extractLsb' 28 2) (w.extractLsb' 10 6))
  | 5 => .ok (.bkmaj (w.extractLsb' 28 2) (w.extractLsb' 10 6))
  | _ => .error 3

/-- S stream, major 0x15 (R354). -/
noncomputable def parseS15 (w : W32) : Except Nat Instr :=
  match (w.extractLsb' 0 5).toNat with
  | 0 => .ok (.bkwait (w.extractLsb' 28 2) (w.extractLsb' 16 6) (w.extractLsb' 10 6) (w.extractLsb' 6 4))
  | _ => .error 3

/-- S stream, major 0x16 (R283). -/
noncomputable def parseS16 (w : W32) : Except Nat Instr :=
  match (w.extractLsb' 0 5).toNat with
  | 0 => .ok (.semsig (w.extractLsb' 28 2) (w.extractLsb' 16 6) (w.extractLsb' 10 6))
  | _ => .error 3

/-- S stream, major 0x17 (R176, R291). -/
noncomputable def parseS17 (w : W32) : Except Nat Instr :=
  match (w.extractLsb' 0 4).toNat with
  | 0 => .ok (.discard (w.extractLsb' 28 2) (w.extractLsb' 10 6) (w.extractLsb' 4 6))
  | 1 => .ok (.clean (w.extractLsb' 28 2) (w.extractLsb' 10 6) (w.extractLsb' 4 6))
  | _ => .error 3

/-- S stream, major 0x18 (R388, R390, R391, R392, R393). -/
noncomputable def parseS18 (w : W32) : Except Nat Instr :=
  match (w.extractLsb' 0 5).toNat with
  | 0 => .ok (.crs (w.extractLsb' 28 2) (w.extractLsb' 10 6) (w.extractLsb' 6 4))
  | 1 => .ok (.crsl (w.extractLsb' 28 2) (w.extractLsb' 10 6) (w.extractLsb' 6 4))
  | 2 => .ok (.cag (w.extractLsb' 28 2) (w.extractLsb' 10 6) (w.extractLsb' 6 4))
  | 3 => .ok (.cput (w.extractLsb' 28 2) (w.extractLsb' 10 6) (w.extractLsb' 6 4))
  | 4 => .ok (.cget (w.extractLsb' 28 2) (w.extractLsb' 10 6) (w.extractLsb' 6 4))
  | 5 => .ok (.cwait (w.extractLsb' 28 2) (w.extractLsb' 16 6) (w.extractLsb' 10 6) (w.extractLsb' 6 4))
  | _ => .error 3

/-- The majors of the K stream (R192-R198); any other is reserved. -/
noncomputable def parseK (w : W32) : Except Nat Instr :=
  match (w.extractLsb' 22 6).toNat with
  | 0x01 => parseK01 w
  | 0x02 => parseK02 w
  | 0x03 => parseK03 w
  | 0x04 => parseK04 w
  | 0x05 => parseK05 w
  | 0x06 => parseK06 w
  | 0x07 => parseK07 w
  | 0x08 => parseK08 w
  | 0x09 => parseK09 w
  | 0x0A => parseK0A w
  | 0x0B => parseK0B w
  | 0x0C => parseK0C w
  | 0x0D => parseK0D w
  | 0x0E => parseK0E w
  | 0x0F => parseK0F w
  | 0x10 => parseK10 w
  | 0x11 => parseK11 w
  | 0x12 => parseK12 w
  | 0x13 => parseK13 w
  | 0x14 => parseK14 w
  | 0x15 => parseK15 w
  | 0x3F => .ok (.limm (w.extractLsb' 30 2) (w.extractLsb' 28 2) (w.extractLsb' 0 22))
  | _ => .error 2

/-- The majors of the A stream (R192-R198); any other is reserved. -/
noncomputable def parseA (w : W32) : Except Nat Instr :=
  match (w.extractLsb' 22 6).toNat with
  | 0x02 => parseA02 w
  | 0x03 => parseA03 w
  | 0x04 => parseA04 w
  | 0x05 => parseA05 w
  | 0x06 => parseA06 w
  | 0x08 => parseA08 w
  | 0x09 => parseA09 w
  | 0x0A => parseA0A w
  | 0x0B => parseA0B w
  | 0x0C => parseA0C w
  | 0x0D => parseA0D w
  | 0x0E => parseA0E w
  | 0x0F => parseA0F w
  | 0x10 => parseA10 w
  | 0x11 => parseA11 w
  | 0x12 => parseA12 w
  | 0x13 => parseA13 w
  | 0x14 => parseA14 w
  | 0x16 => parseA16 w
  | 0x3F => .ok (.limm (w.extractLsb' 30 2) (w.extractLsb' 28 2) (w.extractLsb' 0 22))
  | _ => .error 2

/-- The majors of the X stream (R192-R198); any other is reserved. -/
noncomputable def parseX (w : W32) : Except Nat Instr :=
  match (w.extractLsb' 22 6).toNat with
  | 0x02 => parseX02 w
  | 0x03 => parseX03 w
  | 0x04 => parseX04 w
  | 0x05 => parseX05 w
  | 0x06 => parseX06 w
  | 0x07 => parseX07 w
  | 0x08 => parseX08 w
  | 0x09 => parseX09 w
  | 0x0A => parseX0A w
  | 0x0B => parseX0B w
  | 0x0C => parseX0C w
  | 0x10 => parseX10 w
  | 0x11 => parseX11 w
  | 0x12 => parseX12 w
  | 0x13 => parseX13 w
  | 0x14 => parseX14 w
  | 0x15 => parseX15 w
  | 0x16 => parseX16 w
  | 0x17 => parseX17 w
  | 0x18 => parseX18 w
  | 0x19 => parseX19 w
  | 0x1A => parseX1A w
  | 0x1B => parseX1B w
  | 0x1C => parseX1C w
  | 0x1D => parseX1D w
  | 0x1E => parseX1E w
  | 0x20 => parseX20 w
  | 0x21 => parseX21 w
  | 0x22 => parseX22 w
  | 0x23 => parseX23 w
  | 0x24 => parseX24 w
  | 0x25 => parseX25 w
  | 0x26 => parseX26 w
  | 0x27 => parseX27 w
  | 0x28 => parseX28 w
  | 0x29 => parseX29 w
  | 0x2A => parseX2A w
  | 0x2B => parseX2B w
  | 0x2C => parseX2C w
  | 0x2D => parseX2D w
  | 0x30 => parseX30 w
  | 0x31 => parseX31 w
  | 0x38 => parseX38 w
  | 0x39 => parseX39 w
  | 0x3A => parseX3A w
  | 0x3F => .ok (.limm (w.extractLsb' 30 2) (w.extractLsb' 28 2) (w.extractLsb' 0 22))
  | _ => .error 2

/-- The majors of the S stream (R192-R198); any other is reserved. -/
noncomputable def parseS (w : W32) : Except Nat Instr :=
  match (w.extractLsb' 22 6).toNat with
  | 0x13 => parseS13 w
  | 0x02 => parseS02 w
  | 0x03 => parseS03 w
  | 0x04 => parseS04 w
  | 0x05 => parseS05 w
  | 0x08 => parseS08 w
  | 0x0A => parseS0A w
  | 0x0B => parseS0B w
  | 0x0C => parseS0C w
  | 0x10 => parseS10 w
  | 0x11 => parseS11 w
  | 0x12 => parseS12 w
  | 0x14 => parseS14 w
  | 0x15 => parseS15 w
  | 0x16 => parseS16 w
  | 0x17 => parseS17 w
  | 0x18 => parseS18 w
  | 0x3F => .ok (.limm (w.extractLsb' 30 2) (w.extractLsb' 28 2) (w.extractLsb' 0 22))
  | _ => .error 2

/-- The instruction that tag, major and sub value name (R182, R199); the causes are those of R205: 1 the all-zero syllable,
2 a reserved major, 3 an unassigned sub value. The pad syllable is no instruction (R177). -/
noncomputable def parse (w : W32) : Except Nat Instr :=
  if w = 0 then .error 1 else
  match (w.extractLsb' 30 2).toNat with
  | 0 => parseK w
  | 1 => parseA w
  | 2 => parseX w
  | _ => parseS w

/-- The word of an instruction; `none` for the rows without an encoding. -/
def encode : Instr → Option W32
  | .nop s => some (0#2 ++ s ++ 4194304#28)
  | .kset s d i => some (0#2 ++ s ++ 2#6 ++ d ++ i)
  | .kaddi s d a i => some (0#2 ++ s ++ 3#6 ++ d ++ a ++ i)
  | .kadd s d a b => some (0#2 ++ s ++ 4#6 ++ d ++ a ++ b ++ 0#4)
  | .ksub s d a b => some (0#2 ++ s ++ 4#6 ++ d ++ a ++ b ++ 1#4)
  | .kand s d a b => some (0#2 ++ s ++ 4#6 ++ d ++ a ++ b ++ 2#4)
  | .kor s d a b => some (0#2 ++ s ++ 4#6 ++ d ++ a ++ b ++ 3#4)
  | .kxor s d a b => some (0#2 ++ s ++ 4#6 ++ d ++ a ++ b ++ 4#4)
  | .kandn s d a b => some (0#2 ++ s ++ 4#6 ++ d ++ a ++ b ++ 5#4)
  | .kshl s d a b => some (0#2 ++ s ++ 4#6 ++ d ++ a ++ b ++ 6#4)
  | .kshr s d a b => some (0#2 ++ s ++ 4#6 ++ d ++ a ++ b ++ 7#4)
  | .ksra s d a b => some (0#2 ++ s ++ 4#6 ++ d ++ a ++ b ++ 8#4)
  | .kmin s d a b => some (0#2 ++ s ++ 4#6 ++ d ++ a ++ b ++ 9#4)
  | .kmax s d a b => some (0#2 ++ s ++ 4#6 ++ d ++ a ++ b ++ 10#4)
  | .kminu s d a b => some (0#2 ++ s ++ 4#6 ++ d ++ a ++ b ++ 11#4)
  | .kmaxu s d a b => some (0#2 ++ s ++ 4#6 ++ d ++ a ++ b ++ 12#4)
  | .kaddw s d a b => some (0#2 ++ s ++ 4#6 ++ d ++ a ++ b ++ 13#4)
  | .ksubw s d a b => some (0#2 ++ s ++ 4#6 ++ d ++ a ++ b ++ 14#4)
  | .kclz s d a => some (0#2 ++ s ++ 4#6 ++ d ++ a ++ 15#10)
  | .kmovq s d w => some (0#2 ++ s ++ 5#6 ++ d ++ 0#6 ++ w ++ 0#6)
  | .loop s c i l => some (0#2 ++ s ++ 6#6 ++ c ++ 0#2 ++ i ++ l)
  | .ploop s c e i l => some (0#2 ++ s ++ 7#6 ++ c ++ e ++ i ++ l)
  | .br s o => some (0#2 ++ s ++ 8#6 ++ o)
  | .beqz s a o => some (0#2 ++ s ++ 576#12 ++ a ++ o)
  | .bnez s a o => some (0#2 ++ s ++ 577#12 ++ a ++ o)
  | .bltz s a o => some (0#2 ++ s ++ 578#12 ++ a ++ o)
  | .bgez s a o => some (0#2 ++ s ++ 579#12 ++ a ++ o)
  | .bgtz s a o => some (0#2 ++ s ++ 580#12 ++ a ++ o)
  | .blez s a o => some (0#2 ++ s ++ 581#12 ++ a ++ o)
  | .brq s w o => some (0#2 ++ s ++ 10#6 ++ w ++ 1#1 ++ o)
  | .brqz s w o => some (0#2 ++ s ++ 10#6 ++ w ++ 0#1 ++ o)
  | .call s o => some (0#2 ++ s ++ 11#6 ++ o)
  | .ret s => some (0#2 ++ s ++ 50331648#28)
  | .mark s => some (0#2 ++ s ++ 54525952#28)
  | .bara s w => some (0#2 ++ s ++ 57344#18 ++ w ++ 0#6)
  | .barw s a w => some (0#2 ++ s ++ 14#6 ++ a ++ 0#6 ++ w ++ 1#6)
  | .bar s w => some (0#2 ++ s ++ 57344#18 ++ w ++ 2#6)
  | .slipset s i => some (0#2 ++ s ++ 960#12 ++ i)
  | .tdef s t a => some (0#2 ++ s ++ 16#6 ++ t ++ a ++ 0#10)
  | .tdefTable s t e u => some (0#2 ++ s ++ 16#6 ++ t ++ e ++ 0#7 ++ u)
  | .tundef s t => some (0#2 ++ s ++ 17#6 ++ t ++ 0#16)
  | .budget s n i => some (0#2 ++ s ++ 72#8 ++ n ++ i)
  | .phase s i => some (0#2 ++ s ++ 1216#12 ++ i)
  | .kseed s a => some (0#2 ++ s ++ 1280#12 ++ a ++ 0#10)
  | .kseedx s a => some (0#2 ++ s ++ 1280#12 ++ a ++ 1#10)
  | .endK s => some (0#2 ++ s ++ 88080384#28)
  | .limm t s e => some (t ++ s ++ 63#6 ++ e)
  | .aadd s d a b => some (1#2 ++ s ++ 2#6 ++ d ++ a ++ b ++ 0#4)
  | .asub s d a b => some (1#2 ++ s ++ 2#6 ++ d ++ a ++ b ++ 1#4)
  | .aand s d a b => some (1#2 ++ s ++ 2#6 ++ d ++ a ++ b ++ 2#4)
  | .aor s d a b => some (1#2 ++ s ++ 2#6 ++ d ++ a ++ b ++ 3#4)
  | .axor s d a b => some (1#2 ++ s ++ 2#6 ++ d ++ a ++ b ++ 4#4)
  | .aandn s d a b => some (1#2 ++ s ++ 2#6 ++ d ++ a ++ b ++ 5#4)
  | .ashl s d a b => some (1#2 ++ s ++ 2#6 ++ d ++ a ++ b ++ 6#4)
  | .ashr s d a b => some (1#2 ++ s ++ 2#6 ++ d ++ a ++ b ++ 7#4)
  | .asra s d a b => some (1#2 ++ s ++ 2#6 ++ d ++ a ++ b ++ 8#4)
  | .amin s d a b => some (1#2 ++ s ++ 2#6 ++ d ++ a ++ b ++ 9#4)
  | .amax s d a b => some (1#2 ++ s ++ 2#6 ++ d ++ a ++ b ++ 10#4)
  | .aminu s d a b => some (1#2 ++ s ++ 2#6 ++ d ++ a ++ b ++ 11#4)
  | .amaxu s d a b => some (1#2 ++ s ++ 2#6 ++ d ++ a ++ b ++ 12#4)
  | .aaddw s d a b => some (1#2 ++ s ++ 2#6 ++ d ++ a ++ b ++ 13#4)
  | .asubw s d a b => some (1#2 ++ s ++ 2#6 ++ d ++ a ++ b ++ 14#4)
  | .aclz s d a => some (1#2 ++ s ++ 2#6 ++ d ++ a ++ 15#10)
  | .aaddi s d a i => some (1#2 ++ s ++ 3#6 ++ d ++ a ++ i)
  | .ali s d i => some (1#2 ++ s ++ 4#6 ++ d ++ i)
  | .amovk s d a b h => some (1#2 ++ s ++ 5#6 ++ d ++ a ++ b ++ h)
  | .aqpop s d w => some (1#2 ++ s ++ 6#6 ++ d ++ 0#6 ++ w ++ 0#6)
  | .ld s d a b z x c => some (1#2 ++ s ++ 8#6 ++ d ++ a ++ b ++ z ++ x ++ c)
  | .lds s a b z x c => some (1#2 ++ s ++ 639#12 ++ a ++ b ++ z ++ x ++ c)
  | .tld s t g => some (1#2 ++ s ++ 10#6 ++ t ++ g ++ 0#10)
  | .tldp s t g => some (1#2 ++ s ++ 10#6 ++ t ++ g ++ 1#10)
  | .tlds s t g => some (1#2 ++ s ++ 11#6 ++ t ++ g ++ 0#10)
  | .tldsc s t g => some (1#2 ++ s ++ 12#6 ++ t ++ g ++ 0#10)
  | .tcopy s g w c => some (1#2 ++ s ++ 832#12 ++ g ++ w ++ 0#2 ++ c)
  | .tgath s g w c => some (1#2 ++ s ++ 896#12 ++ g ++ w ++ 0#2 ++ c)
  | .tgathTile s t g w c => some (1#2 ++ s ++ 14#6 ++ t ++ g ++ w ++ 1#2 ++ c)
  | .txp s g w c => some (1#2 ++ s ++ 960#12 ++ g ++ w ++ 0#2 ++ c)
  | .txpTile s t g w c => some (1#2 ++ s ++ 15#6 ++ t ++ g ++ w ++ 1#2 ++ c)
  | .atomSwap s o a b z => some (1#2 ++ s ++ 16#6 ++ o ++ 0#4 ++ a ++ b ++ 1#1 ++ z ++ 0#2)
  | .atomCas s o a b z => some (1#2 ++ s ++ 16#6 ++ o ++ 1#4 ++ a ++ b ++ 1#1 ++ z ++ 0#2)
  | .atomAdd s o a b z => some (1#2 ++ s ++ 16#6 ++ o ++ 2#4 ++ a ++ b ++ 1#1 ++ z ++ 0#2)
  | .atomAnd s o a b z => some (1#2 ++ s ++ 16#6 ++ o ++ 3#4 ++ a ++ b ++ 1#1 ++ z ++ 0#2)
  | .atomOr s o a b z => some (1#2 ++ s ++ 16#6 ++ o ++ 4#4 ++ a ++ b ++ 1#1 ++ z ++ 0#2)
  | .atomXor s o a b z => some (1#2 ++ s ++ 16#6 ++ o ++ 5#4 ++ a ++ b ++ 1#1 ++ z ++ 0#2)
  | .atomMin s o a b z => some (1#2 ++ s ++ 16#6 ++ o ++ 6#4 ++ a ++ b ++ 1#1 ++ z ++ 0#2)
  | .atomMax s o a b z => some (1#2 ++ s ++ 16#6 ++ o ++ 7#4 ++ a ++ b ++ 1#1 ++ z ++ 0#2)
  | .atomMinu s o a b z => some (1#2 ++ s ++ 16#6 ++ o ++ 8#4 ++ a ++ b ++ 1#1 ++ z ++ 0#2)
  | .atomMaxu s o a b z => some (1#2 ++ s ++ 16#6 ++ o ++ 9#4 ++ a ++ b ++ 1#1 ++ z ++ 0#2)
  | .atomIncw s o a b z => some (1#2 ++ s ++ 16#6 ++ o ++ 10#4 ++ a ++ b ++ 1#1 ++ z ++ 0#2)
  | .atomDecw s o a b z => some (1#2 ++ s ++ 16#6 ++ o ++ 11#4 ++ a ++ b ++ 1#1 ++ z ++ 0#2)
  | .atomFaddb s o a b z => some (1#2 ++ s ++ 16#6 ++ o ++ 12#4 ++ a ++ b ++ 1#1 ++ z ++ 0#2)
  | .atomFaddt s o a b z => some (1#2 ++ s ++ 16#6 ++ o ++ 13#4 ++ a ++ b ++ 1#1 ++ z ++ 0#2)
  | .atomFaddF32 s o a b => some (1#2 ++ s ++ 16#6 ++ o ++ 14#4 ++ a ++ b ++ 8#4)
  | .atomFmaxF32 s o a b => some (1#2 ++ s ++ 16#6 ++ o ++ 15#4 ++ a ++ b ++ 8#4)
  | .await s a t w z => some (1#2 ++ s ++ 17#6 ++ a ++ t ++ w ++ 0#5 ++ z)
  | .pref s l a b z c => some (1#2 ++ s ++ 576#11 ++ l ++ a ++ b ++ z ++ 0#1 ++ c)
  | .rinit x s c n => some (x ++ 1#1 ++ s ++ 19#6 ++ c ++ n ++ 0#13)
  | .rclaim x s d n w => some (x ++ 1#1 ++ s ++ 19#6 ++ d ++ n ++ w ++ 1#6)
  | .rpub x s h n => some (x ++ 1#1 ++ s ++ 19#6 ++ h ++ n ++ 2#10)
  | .rwaitf x s n w => some (x ++ 1#1 ++ s ++ 1216#12 ++ n ++ 0#3 ++ w ++ 3#6)
  | .rrel x s n => some (x ++ 1#1 ++ s ++ 1216#12 ++ n ++ 4#13)
  | .nmred s t g => some (1#2 ++ s ++ 20#6 ++ t ++ g ++ 0#10)
  | .invl1 s => some (1#2 ++ s ++ 92274688#28)
  | .invl1r s a b => some (1#2 ++ s ++ 1408#12 ++ a ++ b ++ 1#4)
  | .add s d a b => some (2#2 ++ s ++ 2#6 ++ d ++ a ++ b ++ 0#4)
  | .sub s d a b => some (2#2 ++ s ++ 2#6 ++ d ++ a ++ b ++ 1#4)
  | .and s d a b => some (2#2 ++ s ++ 2#6 ++ d ++ a ++ b ++ 2#4)
  | .or s d a b => some (2#2 ++ s ++ 2#6 ++ d ++ a ++ b ++ 3#4)
  | .xor s d a b => some (2#2 ++ s ++ 2#6 ++ d ++ a ++ b ++ 4#4)
  | .andn s d a b => some (2#2 ++ s ++ 2#6 ++ d ++ a ++ b ++ 5#4)
  | .shl s d a b => some (2#2 ++ s ++ 2#6 ++ d ++ a ++ b ++ 6#4)
  | .shr s d a b => some (2#2 ++ s ++ 2#6 ++ d ++ a ++ b ++ 7#4)
  | .sra s d a b => some (2#2 ++ s ++ 2#6 ++ d ++ a ++ b ++ 8#4)
  | .min s d a b => some (2#2 ++ s ++ 2#6 ++ d ++ a ++ b ++ 9#4)
  | .max s d a b => some (2#2 ++ s ++ 2#6 ++ d ++ a ++ b ++ 10#4)
  | .minu s d a b => some (2#2 ++ s ++ 2#6 ++ d ++ a ++ b ++ 11#4)
  | .maxu s d a b => some (2#2 ++ s ++ 2#6 ++ d ++ a ++ b ++ 12#4)
  | .addw s d a b => some (2#2 ++ s ++ 2#6 ++ d ++ a ++ b ++ 13#4)
  | .subw s d a b => some (2#2 ++ s ++ 2#6 ++ d ++ a ++ b ++ 14#4)
  | .clz s d a => some (2#2 ++ s ++ 2#6 ++ d ++ a ++ 15#10)
  | .mul s d a b => some (2#2 ++ s ++ 3#6 ++ d ++ a ++ b ++ 0#4)
  | .mulh s d a b => some (2#2 ++ s ++ 3#6 ++ d ++ a ++ b ++ 1#4)
  | .mulhu s d a b => some (2#2 ++ s ++ 3#6 ++ d ++ a ++ b ++ 2#4)
  | .mulhsu s d a b => some (2#2 ++ s ++ 3#6 ++ d ++ a ++ b ++ 3#4)
  | .div s d a b => some (2#2 ++ s ++ 3#6 ++ d ++ a ++ b ++ 4#4)
  | .divu s d a b => some (2#2 ++ s ++ 3#6 ++ d ++ a ++ b ++ 5#4)
  | .rem s d a b => some (2#2 ++ s ++ 3#6 ++ d ++ a ++ b ++ 6#4)
  | .remu s d a b => some (2#2 ++ s ++ 3#6 ++ d ++ a ++ b ++ 7#4)
  | .mulw s d a b => some (2#2 ++ s ++ 3#6 ++ d ++ a ++ b ++ 8#4)
  | .divw s d a b => some (2#2 ++ s ++ 3#6 ++ d ++ a ++ b ++ 9#4)
  | .divuw s d a b => some (2#2 ++ s ++ 3#6 ++ d ++ a ++ b ++ 10#4)
  | .remw s d a b => some (2#2 ++ s ++ 3#6 ++ d ++ a ++ b ++ 11#4)
  | .remuw s d a b => some (2#2 ++ s ++ 3#6 ++ d ++ a ++ b ++ 12#4)
  | .addi s d a i => some (2#2 ++ s ++ 4#6 ++ d ++ a ++ i)
  | .andi s d i => some (2#2 ++ s ++ 5#6 ++ d ++ 0#6 ++ i)
  | .ori s d i => some (2#2 ++ s ++ 5#6 ++ d ++ 1#6 ++ i)
  | .xori s d i => some (2#2 ++ s ++ 5#6 ++ d ++ 2#6 ++ i)
  | .andni s d i => some (2#2 ++ s ++ 5#6 ++ d ++ 3#6 ++ i)
  | .shli s d i => some (2#2 ++ s ++ 6#6 ++ d ++ 0#6 ++ i)
  | .shri s d i => some (2#2 ++ s ++ 6#6 ++ d ++ 1#6 ++ i)
  | .srai s d i => some (2#2 ++ s ++ 6#6 ++ d ++ 2#6 ++ i)
  | .rori s d i => some (2#2 ++ s ++ 6#6 ++ d ++ 3#6 ++ i)
  | .li s d i => some (2#2 ++ s ++ 7#6 ++ d ++ i)
  | .seq s d a b => some (2#2 ++ s ++ 8#6 ++ d ++ a ++ b ++ 0#4)
  | .sne s d a b => some (2#2 ++ s ++ 8#6 ++ d ++ a ++ b ++ 1#4)
  | .slt s d a b => some (2#2 ++ s ++ 8#6 ++ d ++ a ++ b ++ 2#4)
  | .sltu s d a b => some (2#2 ++ s ++ 8#6 ++ d ++ a ++ b ++ 3#4)
  | .sle s d a b => some (2#2 ++ s ++ 8#6 ++ d ++ a ++ b ++ 4#4)
  | .sleu s d a b => some (2#2 ++ s ++ 8#6 ++ d ++ a ++ b ++ 5#4)
  | .sel s d a b => some (2#2 ++ s ++ 8#6 ++ d ++ a ++ b ++ 6#4)
  | .pushs s g => some (2#2 ++ s ++ 9#6 ++ g ++ 0#16)
  | .pusha s g => some (2#2 ++ s ++ 9#6 ++ g ++ 1#16)
  | .pushb s g => some (2#2 ++ s ++ 9#6 ++ g ++ 2#16)
  | .pushk s g => some (2#2 ++ s ++ 9#6 ++ g ++ 3#16)
  | .popl s d w => some (2#2 ++ s ++ 9#6 ++ d ++ 0#6 ++ w ++ 4#6)
  | .qpopf s d b w => some (2#2 ++ s ++ 9#6 ++ d ++ b ++ w ++ 5#6)
  | .chk s g => some (2#2 ++ s ++ 10#6 ++ g ++ 0#16)
  | .chkt s t => some (2#2 ++ s ++ 10#6 ++ t ++ 1#16)
  | .fadd s d a b => some (2#2 ++ s ++ 11#6 ++ d ++ a ++ b ++ 0#4)
  | .fsub s d a b => some (2#2 ++ s ++ 11#6 ++ d ++ a ++ b ++ 1#4)
  | .fmul s d a b => some (2#2 ++ s ++ 11#6 ++ d ++ a ++ b ++ 2#4)
  | .fmac s d a b => some (2#2 ++ s ++ 11#6 ++ d ++ a ++ b ++ 3#4)
  | .fmin s d a b => some (2#2 ++ s ++ 11#6 ++ d ++ a ++ b ++ 4#4)
  | .fmax s d a b => some (2#2 ++ s ++ 11#6 ++ d ++ a ++ b ++ 5#4)
  | .feq s d a b => some (2#2 ++ s ++ 11#6 ++ d ++ a ++ b ++ 6#4)
  | .flt s d a b => some (2#2 ++ s ++ 11#6 ++ d ++ a ++ b ++ 7#4)
  | .fle s d a b => some (2#2 ++ s ++ 11#6 ++ d ++ a ++ b ++ 8#4)
  | .fcvtif s d a => some (2#2 ++ s ++ 11#6 ++ d ++ a ++ 9#10)
  | .fcvtfi s d a => some (2#2 ++ s ++ 11#6 ++ d ++ a ++ 10#10)
  | .fabs s d a => some (2#2 ++ s ++ 11#6 ++ d ++ a ++ 11#10)
  | .fneg s d a => some (2#2 ++ s ++ 11#6 ++ d ++ a ++ 12#10)
  | .rdsys s d n => some (2#2 ++ s ++ 12#6 ++ d ++ 0#2 ++ n)
  | .wrsys s a n => some (2#2 ++ s ++ 12#6 ++ a ++ 1#2 ++ n)
  | .trap s c => some (2#2 ++ s ++ 3074#14 ++ c)
  | .ebreak s c => some (2#2 ++ s ++ 3075#14 ++ c)
  | .vfadd s d a b m => some (2#2 ++ s ++ 16#6 ++ d ++ a ++ b ++ m ++ 0#4)
  | .vfsub s d a b m => some (2#2 ++ s ++ 16#6 ++ d ++ a ++ b ++ m ++ 1#4)
  | .vfmul s d a b m => some (2#2 ++ s ++ 16#6 ++ d ++ a ++ b ++ m ++ 2#4)
  | .vfmin s d a b m => some (2#2 ++ s ++ 16#6 ++ d ++ a ++ b ++ m ++ 3#4)
  | .vfmax s d a b m => some (2#2 ++ s ++ 16#6 ++ d ++ a ++ b ++ m ++ 4#4)
  | .vfabs s d a m => some (2#2 ++ s ++ 16#6 ++ d ++ a ++ 0#5 ++ m ++ 5#4)
  | .vfneg s d a m => some (2#2 ++ s ++ 16#6 ++ d ++ a ++ 0#5 ++ m ++ 6#4)
  | .vfma s d a b c => some (2#2 ++ s ++ 17#6 ++ d ++ a ++ b ++ c ++ 0#2)
  | .vfms s d a b c => some (2#2 ++ s ++ 17#6 ++ d ++ a ++ b ++ c ++ 1#2)
  | .vfnma s d a b c => some (2#2 ++ s ++ 17#6 ++ d ++ a ++ b ++ c ++ 2#2)
  | .vfnms s d a b c => some (2#2 ++ s ++ 17#6 ++ d ++ a ++ b ++ c ++ 3#2)
  | .vadd s d a b m => some (2#2 ++ s ++ 18#6 ++ d ++ a ++ b ++ m ++ 0#4)
  | .vsub s d a b m => some (2#2 ++ s ++ 18#6 ++ d ++ a ++ b ++ m ++ 1#4)
  | .vmul s d a b m => some (2#2 ++ s ++ 18#6 ++ d ++ a ++ b ++ m ++ 2#4)
  | .vmulh s d a b m => some (2#2 ++ s ++ 18#6 ++ d ++ a ++ b ++ m ++ 3#4)
  | .vmin s d a b m => some (2#2 ++ s ++ 18#6 ++ d ++ a ++ b ++ m ++ 4#4)
  | .vmax s d a b m => some (2#2 ++ s ++ 18#6 ++ d ++ a ++ b ++ m ++ 5#4)
  | .vminu s d a b m => some (2#2 ++ s ++ 18#6 ++ d ++ a ++ b ++ m ++ 6#4)
  | .vmaxu s d a b m => some (2#2 ++ s ++ 18#6 ++ d ++ a ++ b ++ m ++ 7#4)
  | .vand s d a b m => some (2#2 ++ s ++ 18#6 ++ d ++ a ++ b ++ m ++ 8#4)
  | .vor s d a b m => some (2#2 ++ s ++ 18#6 ++ d ++ a ++ b ++ m ++ 9#4)
  | .vxor s d a b m => some (2#2 ++ s ++ 18#6 ++ d ++ a ++ b ++ m ++ 10#4)
  | .vandn s d a b m => some (2#2 ++ s ++ 18#6 ++ d ++ a ++ b ++ m ++ 11#4)
  | .vadds s d a b m => some (2#2 ++ s ++ 18#6 ++ d ++ a ++ b ++ m ++ 12#4)
  | .vsubs s d a b m => some (2#2 ++ s ++ 18#6 ++ d ++ a ++ b ++ m ++ 13#4)
  | .vabs s d a m => some (2#2 ++ s ++ 18#6 ++ d ++ a ++ 0#5 ++ m ++ 14#4)
  | .vpopc s d a m => some (2#2 ++ s ++ 18#6 ++ d ++ a ++ 0#5 ++ m ++ 15#4)
  | .vshl s d a b m => some (2#2 ++ s ++ 19#6 ++ d ++ a ++ b ++ m ++ 0#4)
  | .vshr s d a b m => some (2#2 ++ s ++ 19#6 ++ d ++ a ++ b ++ m ++ 1#4)
  | .vsra s d a b m => some (2#2 ++ s ++ 19#6 ++ d ++ a ++ b ++ m ++ 2#4)
  | .vrot s d a b m => some (2#2 ++ s ++ 19#6 ++ d ++ a ++ b ++ m ++ 3#4)
  | .vshli s d a n m => some (2#2 ++ s ++ 19#6 ++ d ++ a ++ n ++ m ++ 4#4)
  | .vshri s d a n m => some (2#2 ++ s ++ 19#6 ++ d ++ a ++ n ++ m ++ 5#4)
  | .vsrai s d a n m => some (2#2 ++ s ++ 19#6 ++ d ++ a ++ n ++ m ++ 6#4)
  | .vfeq s d a b m => some (2#2 ++ s ++ 80#8 ++ d ++ a ++ b ++ m ++ 0#4)
  | .vflt s d a b m => some (2#2 ++ s ++ 80#8 ++ d ++ a ++ b ++ m ++ 1#4)
  | .vfle s d a b m => some (2#2 ++ s ++ 80#8 ++ d ++ a ++ b ++ m ++ 2#4)
  | .vfunord s d a b m => some (2#2 ++ s ++ 80#8 ++ d ++ a ++ b ++ m ++ 3#4)
  | .veq s d a b m => some (2#2 ++ s ++ 80#8 ++ d ++ a ++ b ++ m ++ 4#4)
  | .vne s d a b m => some (2#2 ++ s ++ 80#8 ++ d ++ a ++ b ++ m ++ 5#4)
  | .vlt s d a b m => some (2#2 ++ s ++ 80#8 ++ d ++ a ++ b ++ m ++ 6#4)
  | .vltu s d a b m => some (2#2 ++ s ++ 80#8 ++ d ++ a ++ b ++ m ++ 7#4)
  | .vle s d a b m => some (2#2 ++ s ++ 80#8 ++ d ++ a ++ b ++ m ++ 8#4)
  | .vleu s d a b m => some (2#2 ++ s ++ 80#8 ++ d ++ a ++ b ++ m ++ 9#4)
  | .vsel s d a b m => some (2#2 ++ s ++ 21#6 ++ d ++ a ++ b ++ m ++ 0#4)
  | .vexp2 s d a m => some (2#2 ++ s ++ 22#6 ++ d ++ a ++ 0#5 ++ m ++ 0#4)
  | .vlog2 s d a m => some (2#2 ++ s ++ 22#6 ++ d ++ a ++ 0#5 ++ m ++ 1#4)
  | .vrcp s d a m => some (2#2 ++ s ++ 22#6 ++ d ++ a ++ 0#5 ++ m ++ 2#4)
  | .vrsq s d a m => some (2#2 ++ s ++ 22#6 ++ d ++ a ++ 0#5 ++ m ++ 3#4)
  | .vsqrt s d a m => some (2#2 ++ s ++ 22#6 ++ d ++ a ++ 0#5 ++ m ++ 4#4)
  | .vcvtF32Bf16 s d a m => some (2#2 ++ s ++ 23#6 ++ d ++ a ++ 0#5 ++ m ++ 0#4)
  | .vcvtF32F16 s d a m => some (2#2 ++ s ++ 23#6 ++ d ++ a ++ 0#5 ++ m ++ 1#4)
  | .vcvtF32E4m3 s d a m => some (2#2 ++ s ++ 23#6 ++ d ++ a ++ 0#5 ++ m ++ 2#4)
  | .vcvtF32E5m2 s d a m => some (2#2 ++ s ++ 23#6 ++ d ++ a ++ 0#5 ++ m ++ 3#4)
  | .vcvtF32E2m1 s d a m => some (2#2 ++ s ++ 23#6 ++ d ++ a ++ 0#5 ++ m ++ 4#4)
  | .vcvtBf16F32 s d a m => some (2#2 ++ s ++ 23#6 ++ d ++ a ++ 0#5 ++ m ++ 5#4)
  | .vcvtF16F32 s d a m => some (2#2 ++ s ++ 23#6 ++ d ++ a ++ 0#5 ++ m ++ 6#4)
  | .vcvtE4m3F32Sat s d a m => some (2#2 ++ s ++ 23#6 ++ d ++ a ++ 0#5 ++ m ++ 7#4)
  | .vcvtE4m3F32 s d a m => some (2#2 ++ s ++ 23#6 ++ d ++ a ++ 0#5 ++ m ++ 8#4)
  | .vcvtE5m2F32Sat s d a m => some (2#2 ++ s ++ 23#6 ++ d ++ a ++ 0#5 ++ m ++ 9#4)
  | .vcvtE5m2F32 s d a m => some (2#2 ++ s ++ 23#6 ++ d ++ a ++ 0#5 ++ m ++ 10#4)
  | .vcvtE2m1F32 s d a m => some (2#2 ++ s ++ 23#6 ++ d ++ a ++ 0#5 ++ m ++ 11#4)
  | .vcvtF32I32 s d a m => some (2#2 ++ s ++ 23#6 ++ d ++ a ++ 0#5 ++ m ++ 12#4)
  | .vcvtI32F32 s d a m => some (2#2 ++ s ++ 23#6 ++ d ++ a ++ 0#5 ++ m ++ 13#4)
  | .vcvtF32E8m0 s d a m => some (2#2 ++ s ++ 23#6 ++ d ++ a ++ 0#5 ++ m ++ 14#4)
  | .vcvtE8m0F32 s d a m => some (2#2 ++ s ++ 23#6 ++ d ++ a ++ 0#5 ++ m ++ 15#4)
  | .vcvtsrBf16 s d a b m => some (2#2 ++ s ++ 24#6 ++ d ++ a ++ b ++ m ++ 0#4)
  | .vcvtsrF16 s d a b m => some (2#2 ++ s ++ 24#6 ++ d ++ a ++ b ++ m ++ 1#4)
  | .vcvtsrE4m3Sat s d a b m => some (2#2 ++ s ++ 24#6 ++ d ++ a ++ b ++ m ++ 2#4)
  | .vcvtsrE4m3 s d a b m => some (2#2 ++ s ++ 24#6 ++ d ++ a ++ b ++ m ++ 3#4)
  | .vcvtsrE5m2Sat s d a b m => some (2#2 ++ s ++ 24#6 ++ d ++ a ++ b ++ m ++ 4#4)
  | .vcvtsrE5m2 s d a b m => some (2#2 ++ s ++ 24#6 ++ d ++ a ++ b ++ m ++ 5#4)
  | .vcvtsrE2m1 s d a b m => some (2#2 ++ s ++ 24#6 ++ d ++ a ++ b ++ m ++ 6#4)
  | .vredfadd s d a m => some (2#2 ++ s ++ 25#6 ++ d ++ a ++ 0#5 ++ m ++ 0#4)
  | .vredfmax s d a m => some (2#2 ++ s ++ 25#6 ++ d ++ a ++ 0#5 ++ m ++ 1#4)
  | .vredfmin s d a m => some (2#2 ++ s ++ 25#6 ++ d ++ a ++ 0#5 ++ m ++ 2#4)
  | .vredadd s d a m => some (2#2 ++ s ++ 25#6 ++ d ++ a ++ 0#5 ++ m ++ 3#4)
  | .vredmax s d a m => some (2#2 ++ s ++ 25#6 ++ d ++ a ++ 0#5 ++ m ++ 4#4)
  | .vredmin s d a m => some (2#2 ++ s ++ 25#6 ++ d ++ a ++ 0#5 ++ m ++ 5#4)
  | .vredmaxu s d a m => some (2#2 ++ s ++ 25#6 ++ d ++ a ++ 0#5 ++ m ++ 6#4)
  | .vredminu s d a m => some (2#2 ++ s ++ 25#6 ++ d ++ a ++ 0#5 ++ m ++ 7#4)
  | .vredand s d a m => some (2#2 ++ s ++ 25#6 ++ d ++ a ++ 0#5 ++ m ++ 8#4)
  | .vredor s d a m => some (2#2 ++ s ++ 25#6 ++ d ++ a ++ 0#5 ++ m ++ 9#4)
  | .vredxor s d a m => some (2#2 ++ s ++ 25#6 ++ d ++ a ++ 0#5 ++ m ++ 10#4)
  | .vrowld s t g w r v => some (2#2 ++ s ++ 26#6 ++ t ++ 0#1 ++ g ++ w ++ r ++ v)
  | .vrowst s t g r v => some (2#2 ++ s ++ 26#6 ++ t ++ 1#1 ++ g ++ 0#4 ++ r ++ v)
  | .vperm s d a b c => some (2#2 ++ s ++ 27#6 ++ d ++ a ++ b ++ c ++ 0#2)
  | .vxpose8 s d a => some (2#2 ++ s ++ 27#6 ++ d ++ a ++ 1#12)
  | .vsrbits s d a b m => some (2#2 ++ s ++ 28#6 ++ d ++ a ++ b ++ m ++ 0#4)
  | .vlane s d m => some (2#2 ++ s ++ 28#6 ++ d ++ 0#10 ++ m ++ 1#4)
  | .mand s d a b => some (2#2 ++ s ++ 116#8 ++ d ++ 0#2 ++ a ++ 0#2 ++ b ++ 0#7)
  | .mor s d a b => some (2#2 ++ s ++ 116#8 ++ d ++ 0#2 ++ a ++ 0#2 ++ b ++ 1#7)
  | .mxor s d a b => some (2#2 ++ s ++ 116#8 ++ d ++ 0#2 ++ a ++ 0#2 ++ b ++ 2#7)
  | .mandn s d a b => some (2#2 ++ s ++ 116#8 ++ d ++ 0#2 ++ a ++ 0#2 ++ b ++ 3#7)
  | .mnot s d a => some (2#2 ++ s ++ 116#8 ++ d ++ 0#2 ++ a ++ 4#12)
  | .mfirst s d a => some (2#2 ++ s ++ 116#8 ++ d ++ 0#2 ++ a ++ 5#12)
  | .mfromv s d a => some (2#2 ++ s ++ 116#8 ++ d ++ a ++ 6#12)
  | .mtov s d a => some (2#2 ++ s ++ 29#6 ++ d ++ 0#2 ++ a ++ 7#12)
  | .vbcast s d a => some (2#2 ++ s ++ 60#7 ++ d ++ a ++ 0#10)
  | .vext s d a b => some (2#2 ++ s ++ 30#6 ++ d ++ 0#1 ++ a ++ b ++ 1#4)
  | .vins s d a b => some (2#2 ++ s ++ 60#7 ++ d ++ a ++ b ++ 2#4)
  | .mcount s d a => some (2#2 ++ s ++ 30#6 ++ d ++ 0#3 ++ a ++ 3#10)
  | .mfind s d a => some (2#2 ++ s ++ 30#6 ++ d ++ 0#3 ++ a ++ 4#10)
  | .wld s t x w r => some (2#2 ++ s ++ 128#8 ++ t ++ x ++ w ++ r ++ 0#3)
  | .wldx s t x w r => some (2#2 ++ s ++ 132#8 ++ t ++ x ++ w ++ r ++ 0#3)
  | .wswap s => some (2#2 ++ s ++ 142606336#28)
  | .ashape s k => some (2#2 ++ s ++ 35840#16 ++ k ++ 0#8)
  | .mm s q t x w r y z => some (2#2 ++ s ++ 36#6 ++ q ++ t ++ x ++ w ++ r ++ 0#1 ++ y ++ z)
  | .mmt s q t x w r y z => some (2#2 ++ s ++ 37#6 ++ q ++ t ++ x ++ w ++ r ++ 0#1 ++ y ++ z)
  | .mmu s q t g w r z => some (2#2 ++ s ++ 38#6 ++ q ++ t ++ g ++ w ++ r ++ 0#2 ++ z)
  | .mmus s q t g w r z => some (2#2 ++ s ++ 39#6 ++ q ++ t ++ g ++ w ++ r ++ 0#2 ++ z)
  | .mmz s q => some (2#2 ++ s ++ 40#6 ++ q ++ 0#20)
  | .mmzAll s => some (2#2 ++ s ++ 167772161#28)
  | .drnF32 s q t r => some (2#2 ++ s ++ 41#6 ++ q ++ t ++ 0#10 ++ r ++ 0#3)
  | .drnBf16 s q t r => some (2#2 ++ s ++ 41#6 ++ q ++ t ++ 0#10 ++ r ++ 1#3)
  | .drnBf16Sr s q t g r => some (2#2 ++ s ++ 41#6 ++ q ++ t ++ g ++ 0#4 ++ r ++ 2#3)
  | .drnE4m3Sat s q t r => some (2#2 ++ s ++ 42#6 ++ q ++ t ++ 0#10 ++ r ++ 0#3)
  | .drnE4m3 s q t r => some (2#2 ++ s ++ 42#6 ++ q ++ t ++ 0#10 ++ r ++ 1#3)
  | .drnE4m3SrSat s q t g r => some (2#2 ++ s ++ 42#6 ++ q ++ t ++ g ++ 0#4 ++ r ++ 2#3)
  | .drnE4m3Sr s q t g r => some (2#2 ++ s ++ 42#6 ++ q ++ t ++ g ++ 0#4 ++ r ++ 3#3)
  | .drnE5m2Sat s q t r => some (2#2 ++ s ++ 42#6 ++ q ++ t ++ 0#10 ++ r ++ 4#3)
  | .drnE5m2 s q t r => some (2#2 ++ s ++ 42#6 ++ q ++ t ++ 0#10 ++ r ++ 5#3)
  | .drnE5m2SrSat s q t g r => some (2#2 ++ s ++ 42#6 ++ q ++ t ++ g ++ 0#4 ++ r ++ 6#3)
  | .drnE5m2Sr s q t g r => some (2#2 ++ s ++ 42#6 ++ q ++ t ++ g ++ 0#4 ++ r ++ 7#3)
  | .drnMx8e4 s q t r => some (2#2 ++ s ++ 43#6 ++ q ++ t ++ 0#10 ++ r ++ 0#3)
  | .drnMx8e4Sr s q t g r => some (2#2 ++ s ++ 43#6 ++ q ++ t ++ g ++ 0#4 ++ r ++ 1#3)
  | .drnMx8e5 s q t r => some (2#2 ++ s ++ 43#6 ++ q ++ t ++ 0#10 ++ r ++ 2#3)
  | .drnMx8e5Sr s q t g r => some (2#2 ++ s ++ 43#6 ++ q ++ t ++ g ++ 0#4 ++ r ++ 3#3)
  | .drnMx4 s q t r => some (2#2 ++ s ++ 43#6 ++ q ++ t ++ 0#10 ++ r ++ 4#3)
  | .drnMx4Sr s q t g r => some (2#2 ++ s ++ 43#6 ++ q ++ t ++ g ++ 0#4 ++ r ++ 5#3)
  | .drnBx24 s q t r => some (2#2 ++ s ++ 43#6 ++ q ++ t ++ 0#10 ++ r ++ 6#3)
  | .drna s q t w r => some (2#2 ++ s ++ 44#6 ++ q ++ t ++ 0#6 ++ w ++ r ++ 0#3)
  | .merrq s d => some (2#2 ++ s ++ 45#6 ++ d ++ 0#16)
  | .merrs s d => some (2#2 ++ s ++ 45#6 ++ d ++ 1#16)
  | .merrc s => some (2#2 ++ s ++ 188743682#28)
  | .rinitX s c n => some (2#2 ++ s ++ 48#6 ++ c ++ n ++ 0#13)
  | .rclaimX s d n w => some (2#2 ++ s ++ 48#6 ++ d ++ n ++ w ++ 1#6)
  | .rpubX s h n => some (2#2 ++ s ++ 48#6 ++ h ++ n ++ 2#10)
  | .rwaitfX s n w => some (2#2 ++ s ++ 3072#12 ++ n ++ 0#3 ++ w ++ 3#6)
  | .rrelX s n => some (2#2 ++ s ++ 3072#12 ++ n ++ 4#13)
  | .semadd s m n => some (2#2 ++ s ++ 49#6 ++ m ++ n ++ 0#10)
  | .semclr s m => some (2#2 ++ s ++ 49#6 ++ m ++ 1#16)
  | .gland v => some (1136#11 ++ v ++ 0#16)
  | .glrd v => some (1136#11 ++ v ++ 1#16)
  | .glst v => some (1136#11 ++ v ++ 2#16)
  | .skipz => some (2386558976#32)
  | .skipzAcc => some (2386558977#32)
  | .abend => some (2390753280#32)
  | .vrowldSlot n d => some (538#10 ++ n ++ 0#11 ++ d)
  | .vrowstSlot n d => some (538#10 ++ n ++ 1024#11 ++ d)
  | .vbcastConst d n => some (1084#11 ++ d ++ 0#2 ++ n ++ 0#10)
  | .sadd s d a b => some (3#2 ++ s ++ 2#6 ++ d ++ a ++ b ++ 0#4)
  | .ssub s d a b => some (3#2 ++ s ++ 2#6 ++ d ++ a ++ b ++ 1#4)
  | .sand s d a b => some (3#2 ++ s ++ 2#6 ++ d ++ a ++ b ++ 2#4)
  | .sor s d a b => some (3#2 ++ s ++ 2#6 ++ d ++ a ++ b ++ 3#4)
  | .sxor s d a b => some (3#2 ++ s ++ 2#6 ++ d ++ a ++ b ++ 4#4)
  | .sandn s d a b => some (3#2 ++ s ++ 2#6 ++ d ++ a ++ b ++ 5#4)
  | .sshl s d a b => some (3#2 ++ s ++ 2#6 ++ d ++ a ++ b ++ 6#4)
  | .sshr s d a b => some (3#2 ++ s ++ 2#6 ++ d ++ a ++ b ++ 7#4)
  | .ssra s d a b => some (3#2 ++ s ++ 2#6 ++ d ++ a ++ b ++ 8#4)
  | .smin s d a b => some (3#2 ++ s ++ 2#6 ++ d ++ a ++ b ++ 9#4)
  | .smax s d a b => some (3#2 ++ s ++ 2#6 ++ d ++ a ++ b ++ 10#4)
  | .sminu s d a b => some (3#2 ++ s ++ 2#6 ++ d ++ a ++ b ++ 11#4)
  | .smaxu s d a b => some (3#2 ++ s ++ 2#6 ++ d ++ a ++ b ++ 12#4)
  | .saddw s d a b => some (3#2 ++ s ++ 2#6 ++ d ++ a ++ b ++ 13#4)
  | .ssubw s d a b => some (3#2 ++ s ++ 2#6 ++ d ++ a ++ b ++ 14#4)
  | .sclz s d a => some (3#2 ++ s ++ 2#6 ++ d ++ a ++ 15#10)
  | .saddi s d a i => some (3#2 ++ s ++ 3#6 ++ d ++ a ++ i)
  | .sli s d i => some (3#2 ++ s ++ 4#6 ++ d ++ i)
  | .smovk s d a b h => some (3#2 ++ s ++ 5#6 ++ d ++ a ++ b ++ h)
  | .st s d a w z o => some (3#2 ++ s ++ 8#6 ++ d ++ a ++ w ++ z ++ o)
  | .tst s t g w r => some (3#2 ++ s ++ 10#6 ++ t ++ g ++ w ++ r ++ 0#5)
  | .tscat s t g w r => some (3#2 ++ s ++ 11#6 ++ t ++ g ++ w ++ r ++ 0#5)
  | .stash s t h w r => some (3#2 ++ s ++ 12#6 ++ t ++ h ++ w ++ r ++ 0#5)
  | .stashdrop s h => some (3#2 ++ s ++ 768#12 ++ h ++ 1#10)
  | .atomnrSwap s o a b z => some (3#2 ++ s ++ 16#6 ++ o ++ 0#5 ++ a ++ b ++ 1#1 ++ z ++ 0#2)
  | .atomnrCas s o a b z => some (3#2 ++ s ++ 16#6 ++ o ++ 1#5 ++ a ++ b ++ 1#1 ++ z ++ 0#2)
  | .atomnrAdd s o a b z => some (3#2 ++ s ++ 16#6 ++ o ++ 2#5 ++ a ++ b ++ 1#1 ++ z ++ 0#2)
  | .atomnrAnd s o a b z => some (3#2 ++ s ++ 16#6 ++ o ++ 3#5 ++ a ++ b ++ 1#1 ++ z ++ 0#2)
  | .atomnrOr s o a b z => some (3#2 ++ s ++ 16#6 ++ o ++ 4#5 ++ a ++ b ++ 1#1 ++ z ++ 0#2)
  | .atomnrXor s o a b z => some (3#2 ++ s ++ 16#6 ++ o ++ 5#5 ++ a ++ b ++ 1#1 ++ z ++ 0#2)
  | .atomnrMin s o a b z => some (3#2 ++ s ++ 16#6 ++ o ++ 6#5 ++ a ++ b ++ 1#1 ++ z ++ 0#2)
  | .atomnrMax s o a b z => some (3#2 ++ s ++ 16#6 ++ o ++ 7#5 ++ a ++ b ++ 1#1 ++ z ++ 0#2)
  | .atomnrMinu s o a b z => some (3#2 ++ s ++ 16#6 ++ o ++ 8#5 ++ a ++ b ++ 1#1 ++ z ++ 0#2)
  | .atomnrMaxu s o a b z => some (3#2 ++ s ++ 16#6 ++ o ++ 9#5 ++ a ++ b ++ 1#1 ++ z ++ 0#2)
  | .atomnrIncw s o a b z => some (3#2 ++ s ++ 16#6 ++ o ++ 10#5 ++ a ++ b ++ 1#1 ++ z ++ 0#2)
  | .atomnrDecw s o a b z => some (3#2 ++ s ++ 16#6 ++ o ++ 11#5 ++ a ++ b ++ 1#1 ++ z ++ 0#2)
  | .atomnrFaddb s o a b z => some (3#2 ++ s ++ 16#6 ++ o ++ 12#5 ++ a ++ b ++ 1#1 ++ z ++ 0#2)
  | .atomnrFaddt s o a b z => some (3#2 ++ s ++ 16#6 ++ o ++ 13#5 ++ a ++ b ++ 1#1 ++ z ++ 0#2)
  | .atomnrFaddF32 s o a b => some (3#2 ++ s ++ 16#6 ++ o ++ 14#5 ++ a ++ b ++ 8#4)
  | .atomnrFmaxF32 s o a b => some (3#2 ++ s ++ 16#6 ++ o ++ 15#5 ++ a ++ b ++ 8#4)
  | .nmadd s d a w o => some (3#2 ++ s ++ 17#6 ++ d ++ a ++ w ++ 2#2 ++ o)
  | .nmfence s => some (3#2 ++ s ++ 75497472#28)
  | .bkcopy s g => some (3#2 ++ s ++ 1280#12 ++ g ++ 0#10)
  | .bkfill s g => some (3#2 ++ s ++ 1280#12 ++ g ++ 1#10)
  | .bkand s g => some (3#2 ++ s ++ 1280#12 ++ g ++ 2#10)
  | .bkor s g => some (3#2 ++ s ++ 1280#12 ++ g ++ 3#10)
  | .bknot s g => some (3#2 ++ s ++ 1280#12 ++ g ++ 4#10)
  | .bkmaj s g => some (3#2 ++ s ++ 1280#12 ++ g ++ 5#10)
  | .bkwait s m n w => some (3#2 ++ s ++ 21#6 ++ m ++ n ++ w ++ 0#6)
  | .semsig s m n => some (3#2 ++ s ++ 22#6 ++ m ++ n ++ 0#10)
  | .discard s a b => some (3#2 ++ s ++ 1472#12 ++ a ++ b ++ 0#4)
  | .clean s a b => some (3#2 ++ s ++ 1472#12 ++ a ++ b ++ 1#4)
  | .crs s g w => some (3#2 ++ s ++ 1536#12 ++ g ++ w ++ 0#6)
  | .crsl s g w => some (3#2 ++ s ++ 1536#12 ++ g ++ w ++ 1#6)
  | .cag s g w => some (3#2 ++ s ++ 1536#12 ++ g ++ w ++ 2#6)
  | .cput s g w => some (3#2 ++ s ++ 1536#12 ++ g ++ w ++ 3#6)
  | .cget s g w => some (3#2 ++ s ++ 1536#12 ++ g ++ w ++ 4#6)
  | .cwait s a t w => some (3#2 ++ s ++ 24#6 ++ a ++ t ++ w ++ 5#6)
  | .bundleFetch _ _ => none
  | .loadDataArrival _ => none
  | .progressTrap _ _ => none
  | .tileFill _ => none
  | .scaleEntryVisible _ => none
  | .coreComplete _ => none
  | .barrierArrivalSignal _ => none
  | .carveStepMoveDone _ => none
  | .matrixDispatch _ => none
  | .preloadComplete _ => none
  | .streamLastRow _ => none
  | .matrixComplete _ => none
  | .bandReady _ => none
  | .channelGranuleWrite _ _ _ => none
  | .channelComplete _ _ => none
  | .channelHalt _ _ => none
  | .nmaddAccept _ => none
  | .nmaddApply _ => none
  | .bankCommandStart _ => none
  | .bankRow _ _ => none
  | .bankCommandComplete _ => none
  | .bankCompletionRecord _ => none
  | .landingShardArrive _ _ _ _ _ => none
  | .landingShardApply _ => none
  | .abutmentRun _ _ => none
  | .genBegin _ => none
  | .updateEnd _ => none
  | .collParticipantsMeet _ _ _ => none
  | .flitReceive _ _ _ => none
  | .linkFailure _ => none
  | .remoteWindowAccess _ _ _ _ => none
  | .remoteSignalRaise _ _ _ => none
  | .collComplete _ _ => none
  | .collHeld _ _ => none
  | .rdmaWrite _ _ _ => none
  | .rdmaRead _ _ _ => none
  | .mgmtConnect => none
  | .mgmtCsRead _ _ => none
  | .mgmtCsWrite _ _ _ => none
  | .imageChunk _ _ _ => none
  | .imageCommit _ _ => none
  | .attestation _ _ => none
  | .versionReport _ => none
  | .storageConnection _ _ _ _ => none
  | .moduleReset _ => none
  | .kernelLaunch _ => none
  | .graphLaunch _ => none
  | .graphSeal _ => none
  | .instanceEnd _ => none
  | .graphInstanceStart _ => none
  | .nodeKernel _ _ => none
  | .nodeConditional _ _ => none
  | .nodeSwitch _ _ => none
  | .nodeLoop _ _ => none
  | .nodeBankCompletion _ _ => none
  | .nodeCollectiveCompletion _ _ => none
  | .nodeStorageTransfer _ _ => none
  | .nodeHostSignal _ _ => none
  | .nvmeCommandEnd _ _ _ _ => none
  | .ageingTick _ => none
  | .gangBind _ => none
  | .preemptSelect _ => none
  | .slotBind _ _ _ _ _ _ _ _ => none
  | .slotFree _ => none
  | .slotPreempt _ => none
  | .slotKill _ => none
  | .gangStart _ => none
  | .saveComplete _ _ => none
  | .deadlineOverrun _ => none
  | .partWrite _ _ _ => none
  | .fdstatClear _ _ => none
  | .xlWrite _ _ _ => none
  | .shootdownStart _ => none
  | .shootdownComplete => none
  | .migrMoveFrame _ => none
  | .migrMoveCant _ => none
  | .migrEvictCant _ => none
  | .migrBackCant _ => none
  | .migrDropCant _ => none
  | .migrComplete => none
  | .lineWriteback _ _ _ => none
  | .eventPostDeferred _ => none
  | .svcResume _ => none
  | .svcChannelResume _ => none
  | .svcChannelIdle _ => none
  | .svcCollContinue _ => none
  | .svcCollAbort _ => none
  | .svcTerminate _ => none
  | .svcPreempt _ => none
  | .pwrcfgWrite _ => none
  | .droopDetect _ => none
  | .thermalRefresh _ _ => none
  | .throttleDecay _ => none
  | .hotPageMove _ => none
  | .hbmScrub _ _ => none
  | .sramScrub _ _ _ => none
  | .hbmRefresh _ => none
  | .hbmRetrain _ => none
  | .linkRetrain _ => none
  | .correctedSummary _ _ _ _ => none
  | .registerWrite _ _ => none
  | .storePerformed _ => none
  | .supplyRecovered _ _ => none
  | .mgmtConnectionClosed => none
  | .storageConnectionLost _ => none
  | .powerLoss _ => none

/-- The pad syllable (R177). -/
def padWord : W32 := 0x003FFFFF

/-- LDS accepts LQ alone as its destination (R187, R263): the cause that another code gives (a reserved code, else a destination not
permitted), and the word with LQ in its place. -/
def Instr.ldsDst (i : Instr) (w : W32) : Option Nat × W32 :=
  match i with
  | .lds _ _ _ _ _ _ =>
    let d := (w.extractLsb' 16 6).toNat
    (if d = 63 then none else if d < 52 then some 11 else some 4, w ||| 0x3F0000#32)
  | _ => (none, w)

/-- The lowest cause that makes a syllable illegal by itself (R199, R184, R186-R188, R203), or the instruction.
The causes that depend on the bundle or the loop (6 to 10) are judged at issue. -/
noncomputable def decode (w : W32) : Except Nat Instr :=
  match parse w with
  | .error c => .error c
  | .ok i =>
    match Machine.minCause [i.operandCause, (i.ldsDst w).1, if encode i = some (i.ldsDst w).2 then none else some 5] with
    | some c => .error c
    | none => .ok i

/-- The majors that exist only in abutment programs (R197). -/
def Instr.abutOnly : Instr → Bool
  | .gland _ | .glrd _ | .glst _ | .skipz | .skipzAcc | .abend => true
  | _ => false

/-- A syllable of an abutment program (R361, R363): VROW and VBCAST name slots and constants there; any other syllable that
the program may hold is the core's. `none` makes the program invalid. -/
noncomputable def decodeAbut (w : W32) : Option Instr :=
  if w.extractLsb' 28 4 ≠ 8#4 then none else
  match (w.extractLsb' 22 6).toNat with
  | 0x1A =>
    let i : Instr := if w.getLsbD 15 then .vrowstSlot (w.extractLsb' 16 6) (w.extractLsb' 0 5) else .vrowldSlot (w.extractLsb' 16 6) (w.extractLsb' 0 5)
    if encode i = some w then some i else none
  | 0x1E =>
    let i : Instr := .vbcastConst (w.extractLsb' 16 5) (w.extractLsb' 10 4)
    if encode i = some w then some i else none
  | 0x10 | 0x11 | 0x12 | 0x13 | 0x14 | 0x15 | 0x16 | 0x17 | 0x18 | 0x19 | 0x1B | 0x1C | 0x1D | 0x38 | 0x39 | 0x3A =>
    match decode w with
    | .ok i => some i
    | .error _ => none
  | _ => none

/-- The instruction whose word, numbered as the opcode table numbers it, is `w` (every syllable has 32 bits and is stored
little-endian, R44, R7). The rows that share a word with a core form are read in core text, as the core form. -/
noncomputable def decodeTableWord (nbits w : Nat) : Option Instr :=
  if nbits ≤ 32 then
    match decode (BitVec.ofNat 32 w) with
    | .ok i => some i
    | .error _ => none
  else none

end Sys2Proof
end

