-- ==== Sys2Proof/Config.lean ====
section
/-! DEFINITION. What the module fixes outside its registers, and the free values: constants without a body, so that no proof
can lean on a value of theirs (log 5, log 11, log 12). -/

namespace Sys2Proof.Config

/-- The n-th byte that a rule of R18 leaves undefined. -/
opaque undefByte : Nat → Byte
/-- The n-th choice among outcomes that the device does not define. -/
opaque choice : Nat → Bool
/-- Nanoseconds of TIME that pass in step n (R252). -/
opaque timeTick : Nat → W64
/-- Twentieths of a core cycle that a stretched clock loses in step n, of those that the step would bring (R252, R518). -/
opaque droop : Nat → Nat
/-- Where in its cycle the clock of core c stands when TIME is 0, in twentieths (R252). -/
opaque clockPhase : Nat → Nat
/-- SHA-512 (R532, R535). -/
opaque sha512 : List Byte → List Byte
/-- Ed25519 verification of a signature by a public key over a message (R532). -/
opaque edVerify : List Byte → List Byte → List Byte → Bool
/-- The signature of the device identity key over a message (R535). -/
opaque edSign : List Byte → List Byte
/-- The identity public key (R535). -/
opaque identityKey : List Byte
/-- The 64-byte key hash fused in the root of trust (R532). -/
opaque keyHash : List Byte
/-- The fused minimum SVN (R532). -/
opaque minSvn : Nat
/-- Size of the flash in bytes (R532). -/
opaque flashSize : Nat
/-- Where a stack controller looks for its marker in the 64 bytes that it stores as one: the word's index, modulo 8 (R131). -/
opaque markerWord : Nat
/-- Sectors of the image slot, which an erasure erases (R534). -/
opaque slotSectors : Nat

end Sys2Proof.Config
end

