-- ==== Sys2Proof/Machine/Bits.lean ====
section
/-! DEFINITION. Bit fields, byte order and list helpers (00 R7, R8). -/

namespace Sys2Proof.Machine

/-- Bits [lo + len - 1 : lo] of x as a number (R8). -/
def fld {n : Nat} (x : BitVec n) (lo len : Nat) : Nat := (x.toNat >>> lo) % 2 ^ len

/-- x with bits [lo + len - 1 : lo] replaced by the low bits of v. -/
def setFld {n : Nat} (x : BitVec n) (lo len v : Nat) : BitVec n :=
  let mask := BitVec.ofNat n ((2 ^ len - 1) <<< lo)
  (x &&& ~~~mask) ||| (BitVec.ofNat n ((v % 2 ^ len) <<< lo))

/-- A bit as a number. -/
def b2n (b : Bool) : Nat := if b then 1 else 0

/-- The low n bytes of v, little-endian (R7). -/
def toBytes : Nat → Nat → List Byte
  | 0, _ => []
  | n + 1, v => BitVec.ofNat 8 v :: toBytes n (v / 256)

/-- The number that bytes hold, little-endian (R7). -/
def ofBytes : List Byte → Nat
  | [] => 0
  | b :: r => b.toNat + 256 * ofBytes r

/-- The low w bits of v as a signed number. -/
def toSigned (w v : Nat) : Int :=
  if v % 2 ^ w < 2 ^ (w - 1) then (v % 2 ^ w : Nat) else (v % 2 ^ w : Nat) - (2 ^ w : Nat)

/-- floor(a / b) for a divisor above 0, and ceil(a / b). -/
def cdiv (a b : Nat) : Nat := (a + b - 1) / b

/-- Element i of a list, or a default. -/
def nth {α : Type} (l : List α) (i : Nat) (d : α) : α := l.getD i d

/-- The vector whose element i is f i. -/
def vecOf {α : Type} (n : Nat) (f : Nat → α) : Vector α n :=
  ⟨((List.range n).map f).toArray, by simp⟩

/-- Element i of a vector, or a default outside it. -/
def vget {α : Type} {n : Nat} (v : Vector α n) (i : Nat) (d : α) : α := v.toList.getD i d

/-- A vector with element i replaced; unchanged when i is outside it. -/
def vset {α : Type} {n : Nat} (v : Vector α n) (i : Nat) (a : α) : Vector α n :=
  ⟨(v.toList.set i a).toArray, by simp⟩

/-- Sparse maps: pairs in rising order of key. -/
def mapGet {α : Type} (m : List (Nat × α)) (k : Nat) (d : α) : α :=
  match m with
  | [] => d
  | (i, a) :: r => if i = k then a else if k < i then d else mapGet r k d

/-- The map with key k dropped. -/
def mapDel {α : Type} (m : List (Nat × α)) (k : Nat) : List (Nat × α) :=
  match m with
  | [] => []
  | (i, a) :: r => if i = k then r else if k < i then (i, a) :: r else (i, a) :: mapDel r k

/-- The map with key k at a. -/
def mapPut {α : Type} (m : List (Nat × α)) (k : Nat) (a : α) : List (Nat × α) :=
  match m with
  | [] => [(k, a)]
  | (i, b) :: r => if i = k then (k, a) :: r else if k < i then (k, a) :: (i, b) :: r else (i, b) :: mapPut r k a

/-- The map with key k at a, where keys that hold the default are not listed. -/
def mapSet {α : Type} [DecidableEq α] (d : α) (m : List (Nat × α)) (k : Nat) (a : α) : List (Nat × α) :=
  if a = d then mapDel m k else mapPut m k a

/-- Rising sets of numbers. -/
def setAdd (s : List Nat) (k : Nat) : List Nat :=
  match s with
  | [] => [k]
  | i :: r => if i = k then s else if k < i then k :: s else i :: setAdd r k

/-- The set without k. -/
def setDel (s : List Nat) (k : Nat) : List Nat := s.filter (fun i => i ≠ k)

/-- Index of the first element that satisfies p. -/
def findIdxN {α : Type} (p : α → Bool) : List α → Nat → Option Nat
  | [], _ => none
  | a :: r, i => if p a then some i else findIdxN p r (i + 1)

/-- The list with element i changed by f. -/
def listUpd {α : Type} (l : List α) (i : Nat) (f : α → α) : List α :=
  match l, i with
  | [], _ => []
  | a :: r, 0 => f a :: r
  | a :: r, n + 1 => a :: listUpd r n f

/-- Saturating addition at 2^w − 1. -/
def satAdd (w a b : Nat) : Nat := Nat.min (a + b) (2 ^ w - 1)

end Sys2Proof.Machine
end

