-- ==== Sys2Proof/Machine/State.lean ====
section
/-! DEFINITION. The state of one Lerhira L7 module, as plain data: the 480 cores with their walkers, queues, tiles and engines; the
one byte memory in which every storage has its place; the keystone's control-space registers and work; and the
agenda that says which agent moves next (log 1). The reset state stands at the end. -/

namespace Sys2Proof.Machine

/-- Sparse bytes: rising addresses, no entry equal to the byte 0 that an unlisted address reads as (R531, log 8). -/
abbrev Memory := List Host.Cell

/-- Eight 64-bit words: a record, a descriptor, a layout (R69, R119, R384). -/
abbrev Rec8 := Vector W64 8

/-! ## The walkers (02) -/

/-- What a walker is doing. -/
inductive Run where
  /-- no instance is bound on the core -/
  | idle
  /-- it issues, or waits inside an issue -/
  | running
  /-- it met a wait while a sibling was stopped, or a bundle that a sibling trapped on (R75, R201) -/
  | halted
  /-- it stands at its pre-emption point (R77-R80) -/
  | held
  /-- it took a fault or trap; the record is in `stop` (R74) -/
  | stopped
  /-- it issued END (R222) -/
  | ended
  deriving DecidableEq, Repr

/-- One open loop of a walker (R62-R64, R226): bounds, count, depth D, trip, resume base and cut. -/
structure Loop where
  first : VA
  last : VA
  n : Nat
  d : Nat
  /-- opened by PLOOP -/
  pl : Bool
  /-- walk count of the bundle that opened it: one dynamic loop has one such count in every walker (R49) -/
  opened : W64
  /-- trip index j -/
  j : Nat
  /-- resume base Lo(n) -/
  lo : Nat
  /-- the cuts c of pre-emptions that the walker has still to reach, in order (R77, R79) -/
  cut : List Nat
  deriving DecidableEq, Repr

/-- Where a walker of a core under pre-emption stops (R77-R80). -/
inductive Pre where
  /-- no pre-emption has been asked for -/
  | no
  /-- at its next bundle boundary, or in its present drain wait -/
  | now
  /-- at the top or the end of the cut loop -/
  | cut
  /-- when its walk count reaches this one, or in a drain wait -/
  | upTo (walk : W64)
  deriving DecidableEq, Repr

/-- A call-stack entry: return address and loop depth (R229). -/
structure Call where
  ret : VA
  depth : Nat
  deriving DecidableEq, Repr

/-- One waiting syllable of a part (R67-R70): its slot, what it waits on, its budget, and the cycles it has counted. -/
structure Stall where
  slot : Nat
  res : BitVec 8
  obj : BitVec 16
  bidx : BitVec 4
  budget : Nat
  addr : VA
  /-- an expiry is the stash-exhausted trap -/
  stash : Bool
  /-- the wait is a stopping place of R80 -/
  drain : Bool
  /-- the bundle's fetch waits, and no syllable of it -/
  fetch : Bool
  count : Nat
  deriving DecidableEq, Repr

/-- An aligned 8-byte unit that an access has read: its bytes as they were then, and whether it was marked uncorrectable (R148). -/
structure Got where
  unit : Nat
  bytes : List Byte
  bad : Bool
  deriving DecidableEq, Repr

/-- The registration of an AWAIT or CWAIT (R288, R289, R393). -/
structure AwaitReg where
  /-- slot of the waiting syllable in the walker's part -/
  slot : Nat
  va : VA
  loc : Nat
  /-- bytes of the word: 4 or 8 -/
  size : Nat
  thr : W64
  /-- the value as last read, at registration or by a FADDT's wake -/
  seen : W64
  /-- the last read met an uncorrectable mark (R289) -/
  bad : Bool
  deriving DecidableEq, Repr

/-- The state that each walker holds for itself (R50), with its position and its wait. -/
structure WalkerSt where
  run : Run
  pc : VA
  walk : W64
  k : Vector W64 16
  lc : Vector W64 4
  /-- open loops, outermost first -/
  loops : List Loop
  /-- call stack, oldest first -/
  calls : List Call
  /-- wb1-wb15; entry 0 is not used (R66) -/
  wb : Vector W32 16
  /-- entries of KQ and BQ at the front of the queue that this walker has popped (R57) -/
  kqPos : Nat
  bqPos : Nat
  /-- MARKs passed (R154) -/
  marks : Nat
  /-- BARA and BAR syllables passed: the phase of the next one (R233) -/
  bars : Nat
  stalls : List Stall
  pre : Pre
  await : Option AwaitReg
  /-- units that a VROWLD of the part at hand has read already (R148, R315) -/
  got : List Got
  /-- the record of the stop it took (R69, R505) -/
  stop : Option Rec8
  deriving DecidableEq, Repr

/-! ## Queues (R55), tiles (R114), channels (R140), rings (R144), semaphores (R146) -/

/-- An entry of SQ or AQ. -/
structure QEnt where
  value : W64
  psn : Bool
  deriving DecidableEq, Repr

/-- An entry of LQ, reserved at issue and filled later (R56, R247). -/
structure LQEnt where
  tag : Nat
  /-- the data have arrived -/
  here : Bool
  value : W64
  psn : Bool
  flg : Bool
  deriving DecidableEq, Repr

/-- A g register with its poison bit. -/
structure GReg where
  value : W64
  psn : Bool
  deriving DecidableEq, Repr

/-- A tile descriptor (R114). `idx` is the deferred-fault index kept with PSN (R270); `gen` counts definitions, so that a
late fill or release of an earlier definition is told apart (R118). -/
structure Tile where
  w0 : W64
  defd : Bool
  psn : Bool
  fill : BitVec 16
  use : BitVec 16
  idx : BitVec 8
  gen : Nat
  deriving DecidableEq, Repr

/-- The tile that an issued syllable works on: register, image and definition at issue. -/
structure TileRef where
  t : BitVec 6
  w0 : W64
  gen : Nat
  deriving DecidableEq, Repr

/-- What VROWST syllables of a passed bundle have still to write: place, bits, and which bits of the byte they are; and the fills that follow
(R148, R314, R315). -/
structure Late where
  walk : W64
  cells : List (Nat × Byte × Byte)
  fills : List TileRef
  deriving DecidableEq, Repr

/-- Translations made at issue: 64 KiB page of the virtual address, place of its first byte. -/
abbrev Snap := List (Nat × Nat)

/-- A granule under way: its number, the units that it has read, and those that it has written (R148). -/
structure GranSt where
  gran : Nat
  got : List Got
  units : List Nat
  deriving DecidableEq, Repr

inductive ChState where
  | idle | active | halted
  deriving DecidableEq, Repr

inductive ChKind where
  | tcopy | tgath | txp
  deriving DecidableEq, Repr

/-- The command of a copy channel (R274). -/
structure ChCmd where
  kind : ChKind
  src : Rec8
  o01 : W64
  o23 : W64
  dst : Rec8
  tile : Option TileRef
  mask : VA
  /-- TGATH: the candidate rows whose mask bit was 1, once the mask has been read (R278) -/
  picked : Option (List Nat)
  sig : Bool
  sem : BitVec 5
  walk : W64
  deriving DecidableEq, Repr

structure Chan where
  state : ChState
  dsp : Bool
  wmark : Nat
  pcount : W32
  /-- granules written above the watermark -/
  written : List Nat
  /-- granules under way (R148) -/
  underway : List GranSt
  /-- bytes of the destination, by key and length, that another write or another active channel has reached, which are undefined (R143) -/
  raced : List (Nat × Nat)
  cmd : Option ChCmd
  deriving DecidableEq, Repr

structure Ring where
  head : BitVec 16
  tail : BitVec 16
  claimed : BitVec 7
  nslot : BitVec 7
  en : Bool
  slot0 : BitVec 6
  /-- bit k: slot k is claimed and not yet published (R281) -/
  bits : W64
  deriving DecidableEq, Repr

structure Sem where
  count : W32
  ovf : Bool
  deriving DecidableEq, Repr

/-! ## The matrix unit (10 R318) -/

structure Plane where
  fmt : BitVec 4
  /-- cell (row, column) at key 256 × row + column; an absent cell holds 0 -/
  cells : List (Nat × BitVec 16)
  /-- scale code of block (bk, bn) at key 32 × bk + bn; an absent code is 127 -/
  scales : List (Nat × Byte)
  /-- cells and scale codes whose parity fails (R339) -/
  badCells : List Nat
  badScales : List Nat
  deriving DecidableEq, Repr

structure ScaleEnt where
  brows : Nat
  bcols : Nat
  codes : List Byte
  /-- codes of this entry read with an uncorrectable error (R511) -/
  bad : List Nat
  deriving DecidableEq, Repr

inductive MatKind where
  | wld | wldx | wswap | ashape | mm | mmt | mmu | mmus | mmz | mmzAll
  | drn (variant : BitVec 3) | drn8 (variant : BitVec 3) | drnmx (variant : BitVec 3) | drna
  | merrq (d : BitVec 6) | merrs (d : BitVec 6) | merrc
  deriving DecidableEq, Repr

/-- A matrix syllable issued and not yet complete (R320), with all it read at issue. -/
structure MatOp where
  kind : MatKind
  q : BitVec 2
  t : TileRef
  /-- the second tile: scales of MM.S and of an MX drain, the index tile of MMUS -/
  t1 : Option TileRef
  z : Bool
  as : Bool
  rel : Bool
  sem : Option (BitVec 5)
  bands : BitVec 4
  gw : W64
  gw1 : W64
  gc : W64
  dscale : W32
  srkey : W64
  scale : Option ScaleEnt
  seq : BitVec 24
  walk : W64
  /-- it has streamed its last row (R321) -/
  streamed : Bool
  /-- 8-byte units of its tiles that it has read already (R156, R315) -/
  got : List Got
  /-- 8-byte units of its destination that it has written already (R148) -/
  units : List Nat
  deriving DecidableEq, Repr

structure Matrix where
  active : Plane
  shadow : Plane
  /-- accumulator element (row, column) at key 256 × row + column; an absent element is +0 -/
  acc : List (Nat × W32)
  /-- accumulator elements with an uncorrectable error -/
  accBad : List Nat
  bands : BitVec 4
  scaleQ : List ScaleEnt
  queue : List MatOp
  preload : Option MatOp
  compute : List MatOp
  log : List W64
  sticky : Bool
  lost : Bool
  seq : BitVec 24
  deriving DecidableEq, Repr

/-! ## Accesses issued and not yet performed (05) -/

/-- A tile box in memory (R267): layout, origin. -/
structure Box where
  lay : Rec8
  o01 : W64
  o23 : W64
  deriving DecidableEq, Repr

inductive LoadKind where
  /-- LD and LDS; `dst` none is the LQ entry `tag`; of a TLDS, `fails` holds the pages it may not reach, with their causes -/
  | ld (va : VA) (sz : BitVec 2) (sx : Bool) (dst : Option (BitVec 5)) (tag : Nat) (spec : Bool)
  | tld (box : Box) (t : TileRef) (spec : Bool) (fails : List (Nat × Nat))
  | tldp (box : Box) (t : TileRef) (dst : VA)
  | tldsc (box : Box) (t : TileRef)
  | nmred (lay : Rec8) (o0 : Int) (b : Nat) (ix : List W32) (t : TileRef)
  | atom (op : BitVec 4) (sz : BitVec 2) (ord : BitVec 2) (va : VA) (v w : W64) (tag : Nat)
  /-- an LDS whose address failed at issue: LQ entry, cause, first failing byte (R71) -/
  | deferred (tag cause : Nat) (va : VA)
  /-- a TLDS whose layout record could not be read (R270) -/
  | tlost (t : TileRef) (cause : Nat) (va : VA)
  deriving DecidableEq, Repr

/-- A load-class access in A's order (R151). `epoch` is the number of MARKs passed (R154); `got` are the 8-byte units that
it has read already, and `units` those of its destination that it has written, since a wide access is performed unit by unit (R148). -/
structure LoadOp where
  kind : LoadKind
  walk : W64
  epoch : Nat
  snap : Snap
  got : List Got
  units : List Nat
  deriving DecidableEq, Repr

inductive StoreKind where
  | st (va : VA) (n : Nat) (v : W64)
  | tst (box : Box) (t : TileRef) (rel : Bool)
  | tscat (box : Box) (t : TileRef) (rel : Bool) (ix : List W32)
  | stash (va : VA) (t : TileRef) (rel : Bool)
  | atomnr (op : BitVec 4) (sz : BitVec 2) (ord : BitVec 2) (va : VA) (v w : W64)
  | discard (va : VA) (len : Nat)
  /-- not an access: a SEMSIG waits here for the stores before it (R283) -/
  | semsig (sm : BitVec 5) (n : Nat)
  deriving DecidableEq, Repr

/-- A store-class access in S's order (R152). -/
structure StoreOp where
  kind : StoreKind
  walk : W64
  epoch : Nat
  snap : Snap
  /-- 8-byte units that it has read already, and those that it has written (R148) -/
  got : List Got
  units : List Nat
  deriving DecidableEq, Repr

/-- An NMADD issued and not yet applied (R356). -/
structure NmOp where
  loc : Nat
  va : VA
  v : W32
  /-- the number of its acceptance at the home slice, once it is accepted (R169) -/
  accepted : Option Nat
  /-- stores of the core that were pending at issue and must be performed first (R169) -/
  after : Nat
  deriving DecidableEq, Repr

/-- An RPUB whose release is not yet complete (R162): the ring's core, the ring, and the slot's tile as defined at issue. -/
structure Pub where
  owner : Nat
  ring : BitVec 3
  tile : TileRef
  walk : W64
  deriving DecidableEq, Repr

/-- A bank command (R342-R352), with the identity of the instance that issued it. -/
structure BankCmd where
  op : BitVec 3
  dst : VA
  lenk : Nat
  crec : VA
  fill : BitVec 2
  srcs : List VA
  snap : Snap
  seq : W32
  part : Nat
  inst : Nat
  serial : W32
  gang : BitVec 15
  rank : BitVec 4
  /-- pending stores and NMADDs of the core at issue that must be performed before it starts (R346) -/
  after : Nat
  afterNm : Nat
  /-- load-class accesses of A pending at issue, and the channel commands active then, by channel and walk count: they were issued before
  it (R173) -/
  afterLd : Nat
  chans : List (Nat × W64)
  started : Bool
  /-- rows already written -/
  rows : List Nat
  /-- units of its sources as they were before it wrote them itself (R347) -/
  kept : List Got
  fast : Nat
  seqr : Nat
  copy : Nat
  err : Nat
  /-- the last row is written; the completion record is still to be written -/
  complete : Bool
  /-- 64 KiB pages of its ranges that lie in bank-native, uncompressed frames (R348) -/
  native : List Nat
  /-- another access has written one of its ranges, so its destination is undefined (R173, R353) -/
  spoiled : Bool
  tns : W64
  deriving DecidableEq, Repr

/-- What the I/O die sends on the links for a collective (R388, R391, R392, R397): its fabric context and TAG, what it asks or brings with the
damaged bytes or elements, and the hops of its way, each a dimension and whether it leads to the successor (R381, R541). -/
structure LinkMsg where
  core : Nat
  slot : Nat
  fctx : Nat
  tag : Nat
  /-- target device of a window request, x first; none for a part of a collective, which goes to every participant -/
  target : Option (List Nat)
  win : Nat
  off : Nat
  /-- bytes that a CGET asks for -/
  want : Nat
  /-- RSOFF of a CPUT with RSIG = 1 -/
  rsoff : Option Nat
  data : List Byte
  bad : List Nat
  route : List (Nat × Bool)
  /-- the collective was aborted here (R397) -/
  abort : Bool
  deriving DecidableEq, Repr

/-- A remote window request that this module holds (R397, R442): fabric context, window, offset, and the request itself. -/
structure WinReq where
  fctx : BitVec 16
  win : BitVec 8
  off : BitVec 48
  op : RemoteOp
  deriving DecidableEq, Repr

/-- A collective issued and not yet complete (R382-R397). -/
structure Coll where
  sub : BitVec 3
  desc : Rec8
  part : Nat
  walk : W64
  snap : Snap
  /-- the release before it is complete whatever its core does now (R175) -/
  released : Bool
  /-- gang and rank whose context was saved before that release was complete -/
  owner : Option (Nat × Nat)
  /-- its participants have met and agree -/
  met : Bool
  /-- source elements, by participant: the local ones and what the links have brought -/
  data : List (Nat × List Byte)
  /-- damaged source elements: participant, element -/
  bad : List (Nat × Nat)
  /-- the request has left, and the remote side has answered -/
  sent : Bool
  answered : Bool
  held : Option (BitVec 8 × VA)
  /-- the delivery of a CRSL shard has been handed to its landing record -/
  delivered : Bool
  /-- places of its destination that another agent has written meanwhile, which are undefined (R394) -/
  raced : List Nat
  /-- the writes of a CPUT to this device itself are made; the raise at RSOFF is still to come (R392) -/
  wrote : Bool
  /-- the transfer's end, with its code -/
  code : Option (BitVec 8)
  serial : W32
  gang : BitVec 15
  rank : BitVec 4
  deriving DecidableEq, Repr

/-! ## A core -/

/-- Identifier registers (R31). -/
structure IdRegs where
  core : W64
  gang : W64
  ngang : W64
  gsize : W64
  cluster : W64
  die : W64
  dev : W64
  inst : W64
  deriving DecidableEq, Repr

structure Core where
  id : IdRegs
  part : Nat
  /-- the runtime gang and rank bound here -/
  gangUid : Option Nat
  wA : WalkerSt
  wX : WalkerSt
  wS : WalkerSt
  /-- which walkers have reached a dynamic bundle, in the order of arrival (R51, R201, R240) -/
  arrivals : List (W64 × List Walker)
  slip : BitVec 13
  srkey : W64
  dscale : W32
  late : Bool
  /-- arrivals made and not yet signalled: bundle w and phase (R233) -/
  barPend : List (W64 × Nat)
  /-- arrivals made since the instance started, signalled or not: the index of the next (R233) -/
  barCount : Nat
  /-- twentieths of a cycle that the physical core has lost to droop: CYCLE follows from TIME (R252) -/
  lost : Nat
  a : Vector W64 32
  /-- a registers that wait for an earlier LD (R256) -/
  aPend : BitVec 32
  /-- a registers whose LD met uncorrectable data, with its address (R266) -/
  aBad : List (Nat × VA)
  s : Vector W64 16
  g : Vector GReg 64
  v : Vector (Vector W32 256) 32
  m : Vector (BitVec 256) 8
  lq : List LQEnt
  lqTag : Nat
  sq : List QEnt
  aq : List QEnt
  bq : List Bool
  kq : List W64
  tiles : Vector Tile 64
  /-- TUNDEFs that a walker has passed and the last one has still to perform: tile, walk count (R51, R70) -/
  undefs : List (Nat × W64)
  /-- the write of a VROWST that X has passed and that is not whole yet (R315) -/
  lateRows : Option Late
  tileTable : List W64
  chans : Vector Chan 16
  rings : Vector Ring 8
  sems : Vector Sem 32
  mat : Matrix
  /-- the deferred-fault table (R506) -/
  dft : Vector (W64 × W64) 32
  /-- L1 sectors: sector number, its 32 bytes (R126) -/
  l1 : List (Nat × List Byte)
  loads : List LoadOp
  stores : List StoreOp
  nm : List NmOp
  pubs : List Pub
  /-- bundles whose acquire by an ATOM has not completed, and whether S had still to pass the bundle when it issued (R158, R160) -/
  acqHold : List (W64 × Bool)
  bankQ : List BankCmd
  bkseq : W32
  colls : Vector (Option Coll) 8
  /-- the core has completed END (R222) -/
  done : Bool
  /-- a pre-emption has been asked for (R77) -/
  preempt : Bool
  /-- the PLOOPs cut, each by the walk count that opened it, and c, for a walker that has still to enter one (R77) -/
  cut : List (W64 × Nat)
  deriving DecidableEq, Repr

/-! ## Gangs, instances, graphs (01, 20) -/

inductive GangSt where
  | ready | bound | preempting | saved | done
  deriving DecidableEq, Repr

structure Gang where
  uid : Nat
  inst : Nat
  idx : Nat
  st : GangSt
  /-- physical cores in rank order while bound -/
  cores : List Nat
  /-- save-area addresses in rank order, once assigned (R471) -/
  saves : List VA
  nsave : Nat
  /-- the region and its ancestors, and SLOTKIB of the pool, as the snapshot of its last binding found them (R445, R447, R449) -/
  path : List Nat
  kib : Option Nat
  /-- barrier arrival counts by rank (R233), and the ranks that have issued END -/
  arr : List Nat
  endedRanks : List Nat
  carve : Nat
  /-- carve steps still in motion: step, true when added, rank whose PHASE moves it (R130, R240) -/
  motion : List (Nat × Bool × Nat)
  /-- die that holds the carve-out -/
  carveDie : Option Nat
  /-- order in which gangs became ready, and in which they were bound -/
  readySeq : Nat
  boundSeq : Nat
  /-- the base level it is queued at -/
  level : Nat
  /-- a deadline overrun has been reported (R469) -/
  overrun : Bool
  /-- TIME at the pre-emption request -/
  reqAt : W64
  /-- cluster chosen for it by a pre-emption, kept for it until it binds (R466) -/
  want : Option Nat
  /-- memory as it stood when the gang was last bound: what a bundle of its text held before it was rewritten (R180) -/
  text : Memory
  deriving DecidableEq, Repr

structure Inst where
  id : Nat
  part : Nat
  /-- work queue and record index, or none for a graph node -/
  wq : Option (Nat × W64)
  /-- graph instance and node -/
  node : Option (Nat × Nat)
  serial : W32
  gslot : BitVec 3
  lrec : Vector W64 16
  image : Vector W64 16
  tileTable : List W64
  fdom : Nat
  level : Nat
  /-- generation counted in RC, if any (R376) -/
  gen : Option (VA × Nat)
  /-- saves made into each save area for the instance (R470) -/
  areas : List (VA × Nat)
  bkQueued : Nat
  bkReported : Nat
  /-- its END and ERR once it must end -/
  ending : Option (BitVec 8 × BitVec 8)
  /-- all done, the status is written -/
  ended : Bool
  deriving DecidableEq, Repr

/-- A sealed version of a graph (R458-R460). -/
structure GraphVer where
  uid : Nat
  part : Nat
  obj : VA
  version : W32
  cbase : VA
  cstride : W32
  nodes : List Rec8
  edges : List W64
  templates : List (Nat × Vector W64 16)
  current : Bool
  /-- the store's copy holds uncorrectable data (R513) -/
  bad : Bool
  deriving DecidableEq, Repr

inductive NodeSt where
  | waiting | running | resolved | skipped
  | failed (err : BitVec 8)
  deriving DecidableEq, Repr

structure GraphInst where
  id : Nat
  ver : Nat
  part : Nat
  wq : Nat
  recIdx : W64
  lrec : Vector W64 16
  serial : W32
  fdom : Nat
  slot : Option (BitVec 3)
  nodes : List NodeSt
  /-- per edge: unresolved, or taken or not -/
  edges : List (Option Bool)
  /-- instance run by a kernel node -/
  insts : List (Nat × Nat)
  /-- trips run by a loop node -/
  trips : List (Nat × Nat)
  /-- words that collective-completion nodes are registered on: node, place, value as last read, unreadable mark -/
  regs : List (Nat × Nat × W64 × Bool)
  /-- nodes that have failed in some trip, with the reason of their first failure -/
  fails : List (Nat × BitVec 8)
  ending : Option (BitVec 8)
  ended : Bool
  deriving DecidableEq, Repr

/-- An NVMe-oF transfer in progress (R537). -/
structure Xfer where
  gi : Nat
  node : Nat
  desc : Rec8
  left : List Nat
  code : BitVec 8
  nvme : BitVec 16
  /-- places of BUF that another agent has written meanwhile -/
  spoiled : List Nat
  deriving DecidableEq, Repr

/-- One ready queue of a partition (R464, R465). -/
structure ReadyQ where
  eff : Nat
  count : Nat
  /-- number of the last binding before the last tick -/
  tick : Nat
  deriving DecidableEq, Repr

/-! ## Landing and update runs (11 R360-R376) -/

/-- A shard held until CNT reaches its micro-batch. -/
structure Shard where
  part : Nat
  addr : VA
  mb : BitVec 16
  vals : List W32
  /-- collective that waits on it: core and slot -/
  src : Option (Nat × Nat)
  deriving DecidableEq, Repr

/-- A landing (vals given) or an update being run over its blocks. -/
structure Landing where
  part : Nat
  addr : VA
  vals : Option (List W32)
  src : Option (Nat × Nat)
  todo : List Nat
  gen : Option Nat
  /-- GenBegin has passed -/
  begun : Bool
  deriving DecidableEq, Repr

/-- A landing record that the base die has validated since it was armed (R369), with the pieces that only the base die may write meanwhile:
those of the record, the update record, the programs and the accumulator, and, while STATE is 2, those of the update's slots (R370, R373). -/
structure Armed where
  part : Nat
  addr : Nat
  guard : List (Nat × Nat)
  busy : List (Nat × Nat)
  deriving DecidableEq, Repr

/-- One run of an abutment program on one block (R360, R362), with the engine's registers. -/
structure AbutRun where
  /-- address of the landing record -/
  lrec : VA
  part : Nat
  blk : Nat
  key : W64
  prog : List (Vector W32 8)
  pc : Nat
  v : Vector (Vector W32 64) 32
  m : Vector (BitVec 64) 8
  p : Vector W32 16
  /-- the record, and the 64-lane rows it works on: accumulator block address, layout slots -/
  acc : VA
  rows : Nat
  cols : Nat
  bi : Nat
  bj : Nat
  slots : List (Nat × Rec8)
  snap : Snap
  isLanding : Bool
  sparse : Option (List Nat)
  /-- the accumulator block as it was before a landing run's GLAND, which a SKIPZ takes back (R365) -/
  undo : Option (List Byte)
  /-- what the last bundle, or the end, has still to write: place, byte, whether its unit is then marked (R148, R373) -/
  late : List (Nat × Byte × Bool)
  /-- the writes of its end are made, or under way -/
  closed : Bool
  skipped : Bool
  ended : Bool
  deriving DecidableEq, Repr

/-! ## Keystone registers (19-24) -/

structure PartRegs where
  w0 : W64
  w1 : W64
  w2 : W64
  /-- the root's CANT in force, withdrawn from the caches (R441) -/
  cant : W64
  deriving DecidableEq, Repr

structure XlRegs where
  w0 : W64
  w1 : W64
  w2 : W64
  w3 : W64
  /-- ROOT in force for walks (R473) -/
  root : BitVec 28
  deriving DecidableEq, Repr

structure EvqRegs where
  w0 : W64
  tail : W64
  head : W64
  drop : W32
  /-- events posted since reset (H3 SEQ, R504) -/
  seq : W64
  /-- stop events that wait for room (R503) -/
  waiting : List (List W64)
  deriving DecidableEq, Repr

structure WqRegs where
  w0 : W64
  w1 : W64
  head : W64
  /-- the tail word as the last signal brought it (R453) -/
  tail : W64
  /-- the record before HEAD that the keystone has copied and not yet answered: its sixteen words; none when there is none (R453) -/
  taken : List W64
  /-- the tail word has been written and is still to be read, since its page moves (R495) -/
  due : Bool
  deriving DecidableEq, Repr

/-- A stash ring that the supervisor has registered with the keystone (R445): partition, header, region, and the size of its slots. -/
structure RingReg where
  part : Nat
  va : VA
  region : Nat
  bytes : Nat
  deriving DecidableEq, Repr

structure SlotRegs where
  w0 : W64
  w1 : W64
  w2 : W64
  w3 : W64
  w4 : W64
  w5 : W64
  w6 : W64
  deriving DecidableEq, Repr

inductive XlUnit where
  | walker (core : Nat) (w : Walker)
  | chan (core ch : Nat)
  | matFetch (core : Nat)
  | bank (core : Nat)
  | baseDie (stack : Nat)
  | io
  /-- a die's walk cache, which holds table entries -/
  | walkCache (die : Nat)
  deriving DecidableEq, Repr

/-- An entry held by a translation structure (R481): a leaf, or a table entry in a walk cache. -/
structure TlbEnt where
  part : Nat
  unit : XlUnit
  /-- virtual page start and level of the leaf -/
  vbase : Nat
  level : Nat
  pte : W64
  /-- word of the replica vector that the walk took for a replicated page (R491) -/
  vec : Option W64
  deriving DecidableEq, Repr

structure ShootSt where
  part : Nat
  lo : Nat
  hi : Nat
  /-- a shootdown of the whole partition puts this ROOT in force (R473) -/
  root : Option (BitVec 28)
  deriving DecidableEq, Repr

/-- A page move in progress (R494, R500, R501). -/
structure MigrSt where
  part : Nat
  va : Nat
  op : BitVec 4
  frame : Nat
  tdie : Nat
  /-- physical address of the leaf entry -/
  pteAt : Nat
  level : Nat
  old : W64
  /-- requested by hart 3 (R525): no STATUS is written -/
  hart3 : Bool
  /-- MIG is set and the shootdown started (R494) -/
  started : Bool
  deriving DecidableEq, Repr

/-- A message that the module sends on the management channel (R530). -/
structure MgmtMsg where
  type : Byte
  status : Byte
  tag : W32
  arg : W64
  data : W64
  payload : List Byte
  deriving DecidableEq, Repr

structure ZoneSt where
  temp : BitVec 8
  valve : BitVec 8
  thr : BitVec 3
  hot : Bool
  flow : BitVec 12
  /-- ms that TEMP has stayed below TWARN − 5 (R523), up to 100 -/
  below : Nat
  /-- TEMP was at TCRIT or above at the last refresh -/
  crit : Bool
  deriving DecidableEq, Repr

/-! ## Issue -/

/-- The part that a walker is issuing (R46): where it stands, the LIMMs of the syllable at hand, the core as every
syllable of the part reads it (R47), and the waits met. -/
structure Issue where
  core : Nat
  w : Walker
  addr : VA
  slot : Nat
  /-- ext22 values of the LIMMs of this syllable, in slot order (R189) -/
  exts : List (BitVec 22)
  pre : Core
  /-- the memory, and the abutment run at hand, as the part found them (R47) -/
  preMem : Memory
  preAbut : Option AbutRun
  waits : List Stall
  /-- registrations made by waiting AWAITs -/
  reg : Option AwaitReg
  /-- W0 words of the memory-error events that a stop of this part posts with it (R511) -/
  errs : List W64
  /-- overcommitted cantilever writes that begin to wait: partition, die, address (R496) -/
  overs : List (Nat × Nat × VA)
  /-- what the part's VROWSTs write: place, and which bits of the byte; and their fills (R314) -/
  rows : List (Nat × Byte)
  fills : List TileRef
  /-- what the part's VROWLDs read (R148) -/
  reads : List (Nat × Nat)
  /-- the branch outcome, if the part holds one that is taken -/
  next : Option VA
  /-- a loop opened or skipped, a branch or return has set the walker's position -/
  jumped : Bool
  /-- the bundle that the walker has fetched and has still to issue: its eight syllables, in slot order -/
  words : List W32
  /-- an abutment engine issues, not a core -/
  abut : Bool
  deriving DecidableEq, Repr

/-! ## The module -/

structure State where
  cores : Vector Core 480
  issue : Issue
  mem : Memory
  /-- uncorrectable marks, by 8-byte unit of the place (R511) -/
  ue : List Nat
  /-- lines held exclusively in an L1 for atomics (R167): line number of the place, core -/
  excl : List (Nat × Nat)
  tlb : List TlbEnt
  /-- cantilever lines allocated (R496): line number of the place, die that holds it -/
  cant : List (Nat × Nat)
  /-- lines without room whose overcommit an engine has reported (R496) -/
  overs : List Nat
  gangs : List Gang
  gangNext : Nat
  insts : List Inst
  instNext : Nat
  serials : Vector W32 8
  /-- contexts held by the save engine: gang, rank, core (R470) -/
  saved : List (Nat × Nat × Core)
  graphs : List GraphVer
  ginsts : List GraphInst
  xfers : List Xfer
  readyQ : Vector (Vector ReadyQ 8) 8
  shards : List Shard
  landings : List Landing
  /-- landing records validated since they were armed (R369) -/
  landOk : List Armed
  /-- pieces that cores and engines have written, newest first: what was written after a landing record was armed shows in it (R370) -/
  writeLog : List (List (Nat × Nat))
  abut : Option AbutRun
  parts : Vector PartRegs 8
  fdstat : Vector W64 4
  /-- clears that wait for terminations (R451) -/
  fdclr : Vector W64 4
  sched : Vector W64 8
  xl : Vector XlRegs 8
  shootW0 : W64
  shootW1 : W64
  shoot : Option ShootSt
  pinq : W64
  migrW0 : W64
  migrW1 : W64
  migrW2 : W64
  migr : Option MigrSt
  /-- a supervisor's GO that waits for hart 3's move to end, and a write of PWRCFG that waits for it (R527) -/
  migrWait : Bool
  pwrWait : Option W64
  /-- dies whose lines a lowered reservation does not hold yet: partition, die, and the page under FAULT that eviction waits on (R498, R499) -/
  excess : List (Nat × Nat × Option Nat)
  evq : Vector EvqRegs 9
  svc : W64
  ctstat : Vector W64 16
  /-- lines whose write-back was refused and stays pinned (R132), and lines listed as raw collisions, by line number -/
  refused : List Nat
  collided : List Nat
  /-- the marker that each stack controller has drawn (R514) -/
  markers : Vector W64 16
  pwrcfg : W64
  zones : Vector ZoneSt 9
  pump : BitVec 8
  coolW0 : W64
  coolW1 : W64
  drstat : Vector W64 40
  /-- clusters whose clock is stretched now (R518) -/
  stretched : List Nat
  boot : W64
  /-- what a boot under way has still to find, until STAGE is 2, 4 or 5 (R531) -/
  booting : Option BootEnv
  links : Vector W64 12
  stgt : Vector W64 16
  /-- stacks that run the bank-row extension (R538) -/
  ext : BitVec 16
  /-- the image slot of the flash, which no reset clears (R532-R534) -/
  flash : Memory
  flashErased : Bool
  mgmtUp : Bool
  /-- messages sent, oldest first: responses, doorbells, host signals -/
  outbox : List MgmtMsg
  /-- what the I/O die has sent for collectives, oldest first -/
  linkOut : List LinkMsg
  /-- bytes returned by RDMA READs, oldest first; none is a remote access error (R528) -/
  rdmaOut : List (Option (List Byte))
  /-- what CPUT and CGET requests served here have answered: the bytes, and which of them are damaged; none is a refusal -/
  winOut : List (Option (List Byte × List Nat))
  /-- remote window requests whose failure has been reported and that wait for the supervisor (R397, R442) -/
  winWait : List WinReq
  /-- CPUTs served here whose raise at RSOFF is still to come: fabric context, window, RSOFF (R392) -/
  rsigs : List (BitVec 16 × BitVec 8 × BitVec 48)
  /-- blocks written to storage by transfers, oldest first: target, first block, bytes (R537) -/
  nvmeOut : List (Nat × Nat × List Byte)
  /-- blocks asked of storage by transfers, oldest first: target, first block, blocks (R537) -/
  nvmeAsk : List (Nat × Nat × Nat)
  /-- when the last summary of corrected errors of a unit was posted: the unit by its key, TIME (R510) -/
  summed : List (Nat × W64)
  /-- corrected errors that a unit has counted since its last summary: the unit by its key, count (R510) -/
  corrected : List (Nat × Nat)
  /-- stash rings registered with the keystone (R445) -/
  rings : List RingReg
  slots : Vector SlotRegs 480
  wqs : Vector WqRegs 1024
  idDev : BitVec 24
  powered : Bool
  time : W64
  seqNo : Nat
  /-- counter of the free values (log 5): the model's own -/
  freeCtr : Nat
  /-- whose turn it is when the agenda is empty (log 1): the model's own -/
  turn : Nat
  /-- the steps that the world and the engines take next (log 1): the model's own -/
  agenda : List Instr
  /-- the step at hand waits for an edit of a block to end, and is taken up again later (R440, R447) -/
  retry : Bool
  deriving DecidableEq, Repr

/-! ## Stops of the model -/

/-- Why a step ends in a fault. -/
inductive Fault where
  /-- A step names a core, register, queue or unit that the module does not have; raised by the event rows. Safe:
  no such step exists on the hardware. -/
  | noSuchUnit
  deriving DecidableEq, Repr

/-- Why a step is refused. -/
inductive Refusal where
  /-- the instruction has no meaning yet; raised by Dispatch only. Safe. -/
  | notModelled (mnemonic : String)
  deriving DecidableEq, Repr

/-! ## Reset (R531, and the resets of each register's map) -/

def WalkerSt.reset : WalkerSt :=
  { run := .idle, pc := 0, walk := 0, k := .replicate 16 0, lc := .replicate 4 0, loops := [], calls := [],
    wb := .replicate 16 0, kqPos := 0, bqPos := 0, marks := 0, bars := 0, stalls := [], pre := .no, await := none, got := [], stop := none }

def Tile.reset : Tile := { w0 := 0, defd := false, psn := false, fill := 0, use := 0, idx := 0, gen := 0 }
def Chan.reset : Chan := { state := .idle, dsp := false, wmark := 0, pcount := 0, written := [], underway := [], raced := [], cmd := none }
def Ring.reset : Ring := { head := 0, tail := 0, claimed := 0, nslot := 0, en := false, slot0 := 0, bits := 0 }
def Sem.reset : Sem := { count := 0, ovf := false }
/-- An array plane at kernel entry: cells 0, format BF16, scales 127 (R318). -/
def Plane.reset : Plane := { fmt := 1, cells := [], scales := [], badCells := [], badScales := [] }
def Matrix.reset : Matrix :=
  { active := .reset, shadow := .reset, acc := [], accBad := [], bands := 0xF, scaleQ := [], queue := [], preload := none,
    compute := [], log := [], sticky := false, lost := false, seq := 0 }
def IdRegs.reset : IdRegs :=
  { core := 0, gang := 0, ngang := 0, gsize := 0, cluster := 0, die := 0, dev := 0, inst := 0 }

def Core.reset : Core :=
  { id := .reset, part := 0, gangUid := none, wA := .reset, wX := .reset, wS := .reset, arrivals := [],
    slip := 64, srkey := 0, dscale := 0x3F800000, late := false, barPend := [], barCount := 0, lost := 0,
    a := .replicate 32 0, aPend := 0, aBad := [], s := .replicate 16 0, g := .replicate 64 ⟨0, false⟩,
    v := .replicate 32 (.replicate 256 0), m := .replicate 8 0, lq := [], lqTag := 0, sq := [], aq := [], bq := [], kq := [],
    tiles := .replicate 64 .reset, undefs := [], lateRows := none, tileTable := [], chans := .replicate 16 .reset, rings := .replicate 8 .reset,
    sems := .replicate 32 .reset, mat := .reset, dft := .replicate 32 (0, 0), l1 := [],
    loads := [], stores := [], nm := [], pubs := [], acqHold := [], bankQ := [], bkseq := 0,
    colls := .replicate 8 none, done := false, preempt := false, cut := [] }

def Issue.reset : Issue :=
  { core := 0, w := .A, addr := 0, slot := 0, exts := [], pre := .reset, preMem := [], preAbut := none, waits := [], reg := none, errs := [], overs := [], rows := [], fills := [], reads := [], next := none,
    jumped := false, words := [], abut := false }

def ZoneSt.reset : ZoneSt :=
  { temp := 0, valve := 0, thr := 0, hot := false, flow := 0, below := 0, crit := false }

/-- The module right after reset, before boot stage 0 has done anything (R531). -/
def State.reset : State :=
  { cores := .replicate 480 .reset, issue := .reset, mem := [], ue := [], excl := [], tlb := [], cant := [], overs := [], gangs := [], gangNext := 0,
    insts := [], instNext := 0, serials := .replicate 8 0, saved := [], graphs := [], ginsts := [], xfers := [],
    readyQ := .replicate 8 ⟨((List.range 8).map fun l => { eff := l, count := 0, tick := 0 }).toArray, rfl⟩,
    shards := [], landings := [], landOk := [], writeLog := [], abut := none, parts := .replicate 8 ⟨0, 0, 0, 0⟩, fdstat := .replicate 4 0,
    fdclr := .replicate 4 0, sched := .replicate 8 0, xl := .replicate 8 ⟨0, 0, 0, 0, 0⟩, shootW0 := 0, shootW1 := 0,
    shoot := none, pinq := 0, migrW0 := 0, migrW1 := 0, migrW2 := 0, migr := none, migrWait := false, pwrWait := none, excess := [],
    evq := .replicate 9 ⟨0, 0, 0, 0, 0, []⟩, svc := 0, ctstat := .replicate 16 0, refused := [], collided := [], markers := .replicate 16 0,
    pwrcfg := 0x0055644000000000, zones := .replicate 9 .reset, pump := 0, coolW0 := 0, coolW1 := 0,
    drstat := .replicate 40 0, stretched := [], boot := 0, booting := none, links := .replicate 12 0, stgt := .replicate 16 0, ext := 0,
    flash := [], flashErased := false, mgmtUp := false, outbox := [], linkOut := [], rdmaOut := [], winOut := [], winWait := [], rsigs := [], nvmeOut := [], nvmeAsk := [], summed := [], corrected := [], rings := [],
    slots := .replicate 480 ⟨0, 0, 0, 0, 0, 0, 0⟩, wqs := .replicate 1024 ⟨0, 0, 0, 0, [], false⟩, idDev := 0, powered := true,
    time := 0, seqNo := 0, freeCtr := 0, turn := 0, agenda := [], retry := false }

end Sys2Proof.Machine
end

