-- ==== Sys2Proof/Machine/Mem.lean ====
section
/-! DEFINITION. The byte memory and its places. Every storage of the module is part of one sparse memory, keyed by a place
(log 13): an HBM byte by its physical address (04 R109), a cantilever byte by partition and virtual address (21 R496), a
carve-out byte by its gang and offset (04 R129), a scratchpad byte by its core and offset (04 R110). -/

namespace Sys2Proof.Machine

/-- The canonical form: rising addresses, no entry that holds 0. -/
def Memory.ok : Memory → Nat → Bool
  | [], _ => true
  | (a, b) :: r, lo => decide (lo ≤ a) && decide (b ≠ 0) && Memory.ok r (a + 1)

/-- The canonical form holds. -/
def Memory.wf (m : Memory) : Bool := Memory.ok m 0

/-- The byte at an address; an unlisted address reads as 0 (R531, log 8). -/
def Memory.get (m : Memory) (a : Nat) : Byte := mapGet m a 0

/-- The memory with one byte written. -/
def Memory.set (m : Memory) (a : Nat) (b : Byte) : Memory := mapSet 0 m a b

/-- n bytes from an address on. -/
def Memory.getN (m : Memory) (a n : Nat) : List Byte := (List.range n).map fun i => m.get (a + i)

/-- Bytes written from an address on. -/
def Memory.setN (m : Memory) (a : Nat) : List Byte → Memory
  | [] => m
  | b :: r => Memory.setN (m.set a b) (a + 1) r

/-- The bytes of [a, a + n) become 0. -/
def Memory.zero (m : Memory) (a n : Nat) : Memory := m.filter fun c => !(decide (a ≤ c.1) && decide (c.1 < a + n))

/-- The bytes of [a, a + n) take the values of f, by offset. -/
def Memory.fill (m : Memory) (a n : Nat) (f : Nat → Byte) : Memory :=
  m.filter (fun c => decide (c.1 < a))
    ++ (((List.range n).map fun i => (a + i, f i)).filter fun c => decide (c.2 ≠ 0))
    ++ m.filter fun c => decide (a + n ≤ c.1)

/-- The bytes of [src, src + n) as they would lie from dst on; every other cell keeps its place. -/
def Memory.blit (m : Memory) (src dst n : Nat) : Memory :=
  m.filter (fun c => decide (c.1 < dst))
    ++ ((m.filter fun c => decide (src ≤ c.1) && decide (c.1 < src + n)).map fun c => (c.1 - src + dst, c.2))
    ++ m.filter fun c => decide (dst + n ≤ c.1)

/-! ## Places -/

def placeSaved : Nat := 2 ^ 59
def placeCant : Nat := 2 ^ 60
def placeCarve : Nat := 2 ^ 61
def placeSpad : Nat := 2 ^ 62

/-- Place of a cantilever byte. -/
def cantPlace (part va : Nat) : Nat := placeCant + part * 2 ^ 52 + va
/-- Place of a carve-out byte of a gang. -/
def carvePlace (gang o : Nat) : Nat := placeCarve + gang * 2 ^ 32 + o
/-- Place of a scratchpad byte of a core. -/
def spadPlace (core o : Nat) : Nat := placeSpad + core * 2 ^ 21 + o
def spadSize : Nat := 0x180000
/-- Place of a scratchpad byte in the context that the save engine holds for a rank of a gang (20 R470). -/
def savedPlace (gang rank o : Nat) : Nat := placeSaved + gang * 2 ^ 26 + rank * 2 ^ 21 + o

/-- The place lies in a scratchpad. -/
def isSpad (l : Nat) : Bool := decide (placeSpad ≤ l)
/-- The place lies in HBM. -/
def isHbm (l : Nat) : Bool := decide (l < 2 ^ 40)
/-- The stack of an HBM place (R109). -/
def stackOf (pa : Nat) : Nat := (pa >>> 36) % 16
/-- The bytes of a mark's unit of protection: 8 in a scratchpad, a sector of 32 elsewhere (R510). -/
def markUnit (l : Nat) : Nat := if isSpad l then 8 else 32

/-- n bytes at a place. -/
def State.rd (s : State) (l n : Nat) : List Byte := s.mem.getN l n
/-- A little-endian number at a place. -/
def State.rdN (s : State) (l n : Nat) : Nat := ofBytes (s.rd l n)
def State.rd64 (s : State) (l : Nat) : W64 := BitVec.ofNat 64 (s.rdN l 8)
/-- Eight words at a place. -/
def State.rdRec (s : State) (l : Nat) : Rec8 := vecOf 8 fun i => s.rd64 (l + 8 * i)

/-- One of the n bytes at a place carries an uncorrectable mark (R511). -/
def State.marked (s : State) (l n : Nat) : Bool :=
  n != 0 && s.ue.any fun u => decide (u * 8 < l + n) && decide (l < u * 8 + 8)

/-- The first marked byte of [l, l + n). -/
def State.firstMark (s : State) (l n : Nat) : Option Nat :=
  (List.range n).find? fun i => s.ue.contains ((l + i) / 8)

/-- A unit of a mark is covered by the n bytes at a place, so that a write of them clears it (R511). -/
def covers (l n u : Nat) : Bool :=
  let b := u * 8 / markUnit (u * 8) * markUnit (u * 8)
  decide (l ≤ b) && decide (b + markUnit (u * 8) ≤ l + n)

/-- The lines [l, l + n) are recalled from every L1 that holds them exclusively (R167). -/
def State.recall (s : State) (l n : Nat) : State :=
  { s with excl := s.excl.filter fun e => !(decide (e.1 * 128 < l + n) && decide (l < e.1 * 128 + 128)) }

/-- Bytes written at a place, in its coherence order (R149): marks of units written whole are cleared (R511). -/
def State.wr (s : State) (l : Nat) (b : List Byte) : State :=
  let s := s.recall l b.length
  { s with mem := s.mem.setN l b, ue := s.ue.filter fun u => !covers l b.length u }

def State.wr64 (s : State) (l : Nat) (v : W64) : State := s.wr l (toBytes 8 v.toNat)

/-- Scattered bytes written as one write: a unit all of whose bytes are among them loses its mark. -/
def State.wrCells (s : State) (cells : List (Nat × Byte)) : State :=
  let m := cells.foldl (fun m c => m.set c.1 c.2) s.mem
  let full (u : Nat) : Bool :=
    let b := u * 8 / markUnit (u * 8) * markUnit (u * 8)
    (List.range (markUnit (u * 8))).all fun i => cells.any fun c => c.1 = b + i
  let ex := s.excl.filter fun e => !(cells.any fun c => c.1 / 128 = e.1)
  { s with mem := m, ue := s.ue.filter (fun u => !full u), excl := ex }

/-- The unit of protection at a place becomes marked uncorrectable (R511). -/
def State.mark (s : State) (l : Nat) : State :=
  let n := markUnit l
  let b := l / n * n
  { s with ue := (List.range (n / 8)).foldl (fun u i => setAdd u (b / 8 + i)) s.ue }

end Sys2Proof.Machine
end

