-- ==== Sys2Proof/Machine/Ops.lean ====
section
/-! DEFINITION. The operations that every meaning is built from: access to the issuing core and walker, waits (02 R58, R67, R68),
events (22 R502-R504), stops (02 R74, 22 R505), which are how this machine takes an exception, and the resumption of a stopped
walker (22 R508), which is the return from one. -/

namespace Sys2Proof.Machine

/-- What a step answers. -/
abbrev Out := Host.Outcome State Fault Refusal

/-- A meaning that ends early (a stop taken, a wait recorded) and one that ends normally both answer a next state. -/
def done : Except State State → Out
  | .ok s => .next s
  | .error s => .next s

/-- The value of a computation that ends early in a state, or the state. -/
def orElse {α : Type} (x : Except State α) (f : α → State) : State :=
  match x with
  | .ok a => f a
  | .error s => s

/-! ## The issuing core and walker -/

def State.core (s : State) (c : Nat) : Core := vget s.cores c Core.reset
def State.setCore (s : State) (c : Nat) (k : Core) : State := { s with cores := vset s.cores c k }
def State.modCore (s : State) (c : Nat) (f : Core → Core) : State := s.setCore c (f (s.core c))

def Core.wk (k : Core) : Walker → WalkerSt
  | .A => k.wA | .X => k.wX | .S => k.wS
def Core.setWk (k : Core) (w : Walker) (x : WalkerSt) : Core :=
  match w with
  | .A => { k with wA := x } | .X => { k with wX := x } | .S => { k with wS := x }
def Core.modWk (k : Core) (w : Walker) (f : WalkerSt → WalkerSt) : Core := k.setWk w (f (k.wk w))

/-- The core that issues. -/
def State.cur (s : State) : Core := s.core s.issue.core
def State.modCur (s : State) (f : Core → Core) : State := s.modCore s.issue.core f
/-- The walker that issues, as it is now, and as the part reads it (R47). -/
def State.curW (s : State) : WalkerSt := s.cur.wk s.issue.w
def State.preW (s : State) : WalkerSt := s.issue.pre.wk s.issue.w
def State.modW (s : State) (f : WalkerSt → WalkerSt) : State := s.modCur fun k => k.modWk s.issue.w f
/-- Walk count of the bundle being issued (R49). -/
def State.walk (s : State) : W64 := s.preW.walk

/-- WALKER and PWALKER codes of R69. -/
def walkerNo : Walker → Nat
  | .A => 0 | .X => 1 | .S => 2

/-- a stands behind b in walk count; counts wrap modulo 2^64 (R49). -/
def walkLt (a b : W64) : Bool := (b - a).toNat != 0 && decide ((b - a).toNat < 2 ^ 63)

/-- A core number that the module has: 60d + 12k + p (R467). -/
def coreOk (c : Nat) : Bool := decide (c < 480)

/-! ## Free values (log 5) -/

/-- The next free byte, and the state with the counter advanced. -/
def State.freeByte (s : State) : Byte × State := (Config.undefByte s.freeCtr, { s with freeCtr := s.freeCtr + 1 })
/-- n free bytes. -/
def State.freeBytes (s : State) (n : Nat) : List Byte × State :=
  ((List.range n).map fun i => Config.undefByte (s.freeCtr + i), { s with freeCtr := s.freeCtr + n })
/-- A choice among two outcomes that the device leaves open. -/
def State.choose (s : State) : Bool × State := (Config.choice s.freeCtr, { s with freeCtr := s.freeCtr + 1 })

/-! ## Events (R502-R504) -/

def EvqRegs.none0 : EvqRegs := ⟨0, 0, 0, 0, 0, []⟩
/-- Capacity of an event queue; 0 while it is out of service (R502). -/
def EvqRegs.cap (e : EvqRegs) : Nat :=
  if e.w0.getLsbD 63 then (if fld e.w0 52 4 = 0 then 0 else 2 ^ fld e.w0 52 4) else 0
def EvqRegs.hasRoom (e : EvqRegs) : Bool := decide ((e.tail - e.head).toNat < e.cap)

/-- A message of the module on the management channel; it is lost while no connection is up (R529, R530). -/
def State.send (s : State) (m : MgmtMsg) : State := if s.mgmtUp then { s with outbox := s.outbox ++ [m] } else s

/-- An event written at the queue's tail, with its doorbell (R503); in a boot stage that permits no doorbell none is sent (R530). -/
def State.writeEvent (s : State) (q : Nat) (ev : List W64) : State :=
  let e := vget s.evq q .none0
  let at' := fld e.w0 12 32 * 4096 + 128 * (e.tail.toNat % e.cap)
  let s := s.wr at' (ev.flatMap fun (x : W64) => toBytes 8 x.toNat)
  let s := { s with evq := vset s.evq q { e with tail := e.tail + 1 } }
  if fld s.boot 60 4 = 4 then s.send { type := 3, status := 0, tag := 0, arg := BitVec.ofNat 64 q, data := 0, payload := [] } else s

/-- Stop events that waited are written while there is room, oldest first. -/
def State.flushEvents : Nat → State → Nat → State
  | 0, s, _ => s
  | n + 1, s, q =>
    let e := vget s.evq q .none0
    match e.waiting with
    | [] => s
    | ev :: r =>
      if e.hasRoom then
        State.flushEvents n (State.writeEvent { s with evq := vset s.evq q { e with waiting := r } } q ev) q
      else s

/-- H1 of a header: the instance concerned by its SERIAL, the gang, the rank (R504). -/
def eventWho (serial gang rank : Nat) : W64 := BitVec.ofNat 64 (serial <<< 32 ||| gang <<< 17 ||| rank)
/-- The eight words of a header (R504). -/
def State.headerOf (s : State) (q cls part : Nat) (c : Option Nat) (who : W64) : List W64 :=
  [BitVec.ofNat 64 (cls <<< 56 ||| part <<< 53 ||| (c.getD 0x1FF) <<< 44), who, s.time, (vget s.evq q .none0).seq, 0, 0, 0, 0]
/-- The header of an event that concerns the instance on a core, if it concerns a core. -/
def State.eventHeader (s : State) (q cls : Nat) (c : Option Nat) : List W64 :=
  match c with
  | some c =>
    let k := s.core c
    s.headerOf q cls k.part (some c) (eventWho (fld k.id.inst 32 32) (fld k.id.gang 0 15) (fld k.id.core 0 4))
  | none => s.headerOf q cls (if q < 8 then q else 0) none 0

/-- A list of words padded with zeros to eight. -/
def pad8 (b : List W64) : List W64 := (b ++ List.replicate 8 0).take 8

/-- An event is posted: a stop event waits for room, any other is dropped and counted (R503). -/
def State.postEventH (s : State) (q cls : Nat) (header body : List W64) : State :=
  let ev := header ++ pad8 body
  let s := State.flushEvents (vget s.evq q .none0).waiting.length s q
  let e := vget s.evq q .none0
  let e := { e with seq := e.seq + 1 }
  if e.waiting = [] ∧ e.hasRoom then State.writeEvent { s with evq := vset s.evq q e } q ev
  else if cls = 1 then
    { s with evq := vset s.evq q { e with w0 := e.w0 ||| (1 <<< 62), waiting := e.waiting ++ [ev] } }
  else { s with evq := vset s.evq q { e with drop := if e.drop = 0xFFFFFFFF then e.drop else e.drop + 1 } }

def State.postEvent (s : State) (q cls : Nat) (c : Option Nat) (body : List W64) : State :=
  s.postEventH q cls (s.eventHeader q cls c) body

/-- W0 of a memory-error event of TYPE 2 (R511). UNIT and ADDR follow from the place. -/
def ueEvent (type l : Nat) : W64 :=
  if isSpad l then BitVec.ofNat 64 (3 <<< 60 ||| type <<< 58 ||| (l - placeSpad) % 2 ^ 21)
  else if isHbm l then BitVec.ofNat 64 (1 <<< 60 ||| type <<< 58 ||| stackOf l <<< 52 ||| l)
  else BitVec.ofNat 64 (2 <<< 60 ||| type <<< 58)

/-- An agent of core c has consumed uncorrectable data at a place (R511). -/
def State.consumed (s : State) (c : Nat) (l : Nat) : State := s.postEvent (s.core c).part 4 (some c) [ueEvent 2 l]

/-- The walk of a speculative access or of an engine met a damaged entry, if it did (R511). -/
def State.consumedWalk (s : State) (c : Nat) (l : Option Nat) : State :=
  match l with
  | some l => s.consumed c l
  | none => s

/-! ## Stops: taking a fault or a trap (R74, R505) -/

/-- W0 of a stop record (R69). -/
def State.stopW0 (s : State) (code : Nat) : W64 :=
  BitVec.ofNat 64 ((s.issue.addr.toNat >>> 5) <<< 10 ||| s.issue.slot <<< 7 ||| walkerNo s.issue.w <<< 5 ||| code)

/-- A record of R505. -/
def State.stopRec (s : State) (code cause va : Nat) (w2 w3 w5 w6 : W64) : Rec8 :=
  ⟨#[s.stopW0 code, BitVec.ofNat 64 (cause <<< 56 ||| va % 2 ^ 52), w2, w3, s.preW.walk, w5, w6, 0], rfl⟩

/-- The issuing walker stops (R74): it keeps its position, its record is kept, its stall counts and registration end, and the
keystone posts a class-1 event after the memory errors that the part met. -/
def State.takeStop (s : State) (rec : Rec8) : State :=
  let c := s.issue.core
  let s := s.issue.errs.foldl (fun s e => s.postEvent (s.core c).part 4 (some c) [e]) s
  let s := s.modW fun k => { k with run := .stopped, stop := some rec, stalls := [], await := none, got := [] }
  s.postEvent (s.core c).part 1 (some c) rec.toList

/-- A failed translation or address check: cause of R257, first failing byte, and what the walk saw (R505). -/
structure AccFail where
  cause : Nat
  va : Nat
  level : Nat
  mal : Bool
  /-- place of the entry that was read with an uncorrectable error -/
  ue : Option Nat
  pte : W64
  deriving DecidableEq, Repr

/-- A failure that no walk took part in. -/
def accFail (cause va : Nat) : AccFail := ⟨cause, va, 0, false, none, 0⟩

/-- A memory error that the stop of this part reports (R511). -/
def State.noteUe (s : State) (l : Option Nat) : State :=
  match l with
  | some l => { s with issue := { s.issue with errs := s.issue.errs ++ [ueEvent 2 l] } }
  | none => s

/-- An access fault (R257); a page-table entry read with an error is reported with it (R511). -/
def State.accessFault (s : State) (f : AccFail) : State :=
  (s.noteUe f.ue).takeStop (s.stopRec 3 f.cause f.va
    (BitVec.ofNat 64 (f.level <<< 34 ||| b2n f.mal <<< 33 ||| b2n f.ue.isSome <<< 32))
    (if f.cause = 1 ∨ f.cause = 2 then f.pte else 0) 0 0)
/-- A layout fault (R258). -/
def State.layoutFault (s : State) (cause : Nat) : State := s.takeStop (s.stopRec 4 cause 0 0 0 0 0)
/-- An address-arithmetic fault (R122). -/
def State.addrFault (s : State) : State := s.takeStop (s.stopRec 5 0 0 0 0 0 0)
/-- A schedule fault (R115, R117, R253, R281, R314, R323). -/
def State.schedFault (s : State) (cause : Nat) : State := s.takeStop (s.stopRec 6 cause 0 0 0 0 0)
/-- An illegal-syllable trap (R205). -/
def State.illegal (s : State) (cause : Nat) : State := s.takeStop (s.stopRec 7 cause 0 0 0 0 0)
/-- A loop-overflow trap (R231). -/
def State.loopOverflow (s : State) (cause : Nat) : State := s.takeStop (s.stopRec 8 cause 0 0 0 0 0)
/-- A poison trap on the deferred-fault index (R73, R506). -/
def State.poisonTrap (s : State) (dfi : Nat) : State :=
  let rec' := if dfi < 32 then vget s.cur.dft dfi (0, 0) else (0, 0)
  s.takeStop (s.stopRec 9 0 0 (BitVec.ofNat 64 dfi) 0 rec'.1 rec'.2)
/-- A data-error fault (R505, R511). -/
def State.dataError (s : State) (cause va : Nat) : State := s.takeStop (s.stopRec 0xA cause va 0 0 0 0)
/-- A program trap (R250). -/
def State.programTrap (s : State) (code : Nat) : State := s.takeStop (s.stopRec 0xB 0 0 (BitVec.ofNat 64 (code <<< 36)) 0 0 0)
/-- A breakpoint trap (R250). -/
def State.breakpoint (s : State) (code : Nat) : State := s.takeStop (s.stopRec 0xC 0 0 (BitVec.ofNat 64 (code <<< 36)) 0 0 0)

/-- The index of a poison trap's record, if the record is one (R506). -/
def poisonIdx (rec : Rec8) : Option Nat :=
  if fld rec[0] 0 5 = 9 then some (fld rec[2] 0 8) else none

/-- The walker of core c issues its part again (R508 OP 1): stall counts restart, and the deferred-fault record that its poison
trap named is freed (R506). -/
def State.resumeWalker (s : State) (c : Nat) (w : Walker) : State :=
  let k := s.core c
  let x := k.wk w
  let dft := match x.stop.bind poisonIdx with
    | some i => if i < 32 then vset k.dft i (0, 0) else k.dft
    | none => k.dft
  s.setCore c ({ k with dft := dft }.setWk w { x with run := .running, stop := none, stalls := [], got := [] })

/-- Every stopped or halted walker of core c goes on (R75, R508). -/
def State.resumeCore (s : State) (c : Nat) : State :=
  [Walker.A, .X, .S].foldl (fun s w =>
    match ((s.core c).wk w).run with
    | .stopped | .halted => s.resumeWalker c w
    | _ => s) s

/-- A walker of core c is stopped. -/
def Core.anyStopped (k : Core) : Bool :=
  k.wA.run == .stopped || k.wX.run == .stopped || k.wS.run == .stopped

/-! ## Deferred faults (R71, R506) -/

/-- A deferred fault takes the lowest free record; index 0xFF means that none was free. -/
def Core.defer (k : Core) (code va : Nat) (walk : W64) : Nat × Core :=
  match (List.range 32).find? fun i => !(vget k.dft i (0, 0)).1.getLsbD 63 with
  | some i => (i, { k with dft := vset k.dft i (BitVec.ofNat 64 (1 <<< 63 ||| code <<< 56 ||| va % 2 ^ 52), walk) })
  | none => (0xFF, k)

/-! ## Waits (R58, R67, R68) -/

/-- A budget register as the part reads it; wb0 is 2^32 (R66). -/
def WalkerSt.budget (x : WalkerSt) (n : Nat) : Nat := if n = 0 then 2 ^ 32 else (vget x.wb n 0).toNat

/-- The waits at which a walker on its way to a pre-emption point may stop: a queue, a ring, a channel watermark, a barrier, a
semaphore gate, an address or fabric-semaphore wait, a STASH reservation (R80). -/
def drainRes (r : Nat) : Bool := decide (r ≤ 11) && r != 5

/-- The syllable at hand waits: RES, OBJID and ADDR of R69, under a budget register. A tile wait of X is a stopping place too (R316, R341), though
R80 does not list it (log 93). -/
def State.waitOn (s : State) (res obj bidx : Nat) (addr : VA := 0) : State :=
  { s with issue := { s.issue with waits := s.issue.waits ++
    [{ slot := s.issue.slot, res := BitVec.ofNat 8 res, obj := BitVec.ofNat 16 obj, bidx := BitVec.ofNat 4 bidx,
       budget := s.preW.budget bidx, addr := addr, stash := res == 11, drain := drainRes res || (res == 5 && s.issue.w == .X), fetch := false, count := 0 }] } }
/-- The waits met so far are those of the bundle's fetch. -/
def State.fetchWaits (s : State) : State :=
  { s with issue := { s.issue with waits := s.issue.waits.map fun (y : Stall) => { y with fetch := true } } }

/-- RES of an interlock wait inside the model: it counts toward no budget (R218). -/
def resInterlock : Nat := 255
/-- An interlock wait. -/
def State.interlock (s : State) : State := s.waitOn resInterlock 0 0

/-- The waits at which a sibling of a stopped walker halts (R75; log 17). -/
def haltRes (r : Nat) : Bool := decide (r ≤ 13) || r == 16 || r == 17 || r == 19

end Sys2Proof.Machine
end

