-- ==== Sys2Proof/Machine/Flags.lean ====
section
/-! DEFINITION. Poison and flag computations: how poison spreads through X (02 R72), the hit flag FLG of an LQ entry (07 R247),
saturation and OVF of a semaphore (04 R146), and the integer results of 07 R219, R244 and R245. -/

namespace Sys2Proof.Machine

/-- A clean value. -/
def clean (v : W64) : GReg := ⟨v, false⟩

/-- The result of an X operation over the operands read, in operand order: the first poisoned operand's value, poisoned, else
the clean result (R72). -/
def poisoned (ops : List GReg) (v : W64) : GReg :=
  match ops.find? GReg.psn with
  | some g => ⟨g.value, true⟩
  | none => clean v

/-- SEL (R72, R245): a poisoned selector gives its own value, poisoned; a clean one copies the chosen operand whole. -/
def selPoison (sel a b : GReg) : GReg := if sel.psn then sel else if sel.value ≠ 0 then a else b

/-- A semaphore after n increments: it saturates and sets OVF (R146). -/
def Sem.add (m : Sem) (n : Nat) : Sem :=
  if m.count.toNat + n > 0xFFFFFFFF then ⟨0xFFFFFFFF, true⟩ else ⟨BitVec.ofNat 32 (m.count.toNat + n), m.ovf⟩

/-! ## Integer results (R219) -/

def shAmt (b : W64) : Nat := fld b 0 6
def aluAndn (a b : W64) : W64 := a &&& ~~~b
def aluShl (a b : W64) : W64 := a <<< shAmt b
def aluShr (a b : W64) : W64 := a >>> shAmt b
def aluSra (a b : W64) : W64 := a.sshiftRight (shAmt b)
def aluMin (a b : W64) : W64 := if a.toInt ≤ b.toInt then a else b
def aluMax (a b : W64) : W64 := if a.toInt ≤ b.toInt then b else a
def aluMinu (a b : W64) : W64 := if a.toNat ≤ b.toNat then a else b
def aluMaxu (a b : W64) : W64 := if a.toNat ≤ b.toNat then b else a
/-- The low 32 bits, sign-extended. -/
def sextW (v : W64) : W64 := (v.setWidth 32).signExtend 64
def aluAddw (a b : W64) : W64 := sextW (a + b)
def aluSubw (a b : W64) : W64 := sextW (a - b)
/-- Leading zero bits, 0 to 64. -/
def aluClz (a : W64) : W64 := if a = 0 then 64 else BitVec.ofNat 64 (63 - Nat.log2 a.toNat)

/-! ## Products and quotients (R244) -/

def mulhS (a b : W64) : W64 := BitVec.ofInt 64 ((a.toInt * b.toInt) / (2 ^ 64 : Nat))
def mulhU (a b : W64) : W64 := BitVec.ofNat 64 (a.toNat * b.toNat / 2 ^ 64)
def mulhSU (a b : W64) : W64 := BitVec.ofInt 64 ((a.toInt * (b.toNat : Int)) / (2 ^ 64 : Nat))
/-- Signed division of w-bit operands, toward zero; by 0 it gives −1, and the most negative number by −1 gives itself. -/
def divS {w : Nat} (a b : BitVec w) : BitVec w := if b = 0 then -1 else BitVec.ofInt w (a.toInt.tdiv b.toInt)
def divU {w : Nat} (a b : BitVec w) : BitVec w := if b = 0 then -1 else BitVec.ofNat w (a.toNat / b.toNat)
def remS {w : Nat} (a b : BitVec w) : BitVec w := if b = 0 then a else BitVec.ofInt w (a.toInt.tmod b.toInt)
def remU {w : Nat} (a b : BitVec w) : BitVec w := if b = 0 then a else BitVec.ofNat w (a.toNat % b.toNat)
/-- A 32-bit operation on the low words, sign-extended. -/
def wordOp (f : W32 → W32 → W32) (a b : W64) : W64 := (f (a.setWidth 32) (b.setWidth 32)).signExtend 64

/-! ## Comparisons (R245) -/

def boolW (b : Bool) : W64 := if b then 1 else 0
def cmpSlt (a b : W64) : W64 := boolW (decide (a.toInt < b.toInt))
def cmpSle (a b : W64) : W64 := boolW (decide (a.toInt ≤ b.toInt))
def cmpSltu (a b : W64) : W64 := boolW (decide (a.toNat < b.toNat))
def cmpSleu (a b : W64) : W64 := boolW (decide (a.toNat ≤ b.toNat))

end Sys2Proof.Machine
end

