-- ==== Sys2Proof/Machine/Operands.lean ====
section
/-! DEFINITION. Operand forms: registers of the four streams (06 R186, R187), the loop counters under a stage (02 R64), the five
queues (02 R55-R59), operand groups (08 R255) and immediates (06 R189). Reads see the core as it stood before the part (R47);
pops and pushes act on the queues in slot order. -/

namespace Sys2Proof.Machine

/-! ## Registers -/

/-- k register of the issuing walker; k0 reads as zero (R60). -/
def State.rdK (s : State) (i : Nat) : W64 := if i = 0 then 0 else vget s.preW.k i 0

/-- lcn: the trip of the open loop at depth n, less the stage in the innermost PLOOP (R63, R64), else the value left there. -/
def State.rdLc (s : State) (stage : BitVec 2) (n : Nat) : W64 :=
  match s.preW.loops[n]? with
  | some l => BitVec.ofNat 64 (if l.pl && n + 1 = s.preW.loops.length then l.j - stage.toNat else l.j)
  | none => vget s.preW.lc n 0

/-- A source of a K syllable (R217). -/
def State.srcK (s : State) (stage : BitVec 2) (c : BitVec 6) : W64 :=
  if c.toNat < 16 then s.rdK c.toNat else s.rdLc stage (c.toNat - 16)

/-- A write to kd of the issuing walker's copy; k0 discards it (R60). -/
def State.wrK (s : State) (c : BitVec 6) (v : W64) : State :=
  if c = 0 then s else s.modW fun x => { x with k := vset x.k c.toNat v }

/-- A source of an A syllable: the load interlock (R256), the data error of a loaded register (R266). -/
def State.srcA (s : State) (stage : BitVec 2) (c : BitVec 6) : Except State W64 :=
  if c.toNat < 32 then
    if c = 0 then .ok 0
    else if s.issue.pre.aPend.getLsbD c.toNat then .error s.interlock
    else match s.issue.pre.aBad.find? fun e => e.1 = c.toNat with
      | some e => .error (s.dataError 1 e.2.toNat)
      | none => .ok (vget s.issue.pre.a c.toNat 0)
  else if c.toNat < 48 then .ok (s.rdK (c.toNat - 32))
  else .ok (s.rdLc stage (c.toNat - 48))

/-- Loads in flight into register r no longer write it. -/
def dropLoads (r : Nat) (l : LoadOp) : LoadOp :=
  match l.kind with
  | .ld va sz sx (some d) tag sp => if d.toNat = r then { l with kind := .ld va sz sx (some 0) tag sp } else l
  | _ => l

/-- A write to ad; a0 discards it (R187). -/
def State.wrA (s : State) (c : BitVec 6) (v : W64) : State :=
  if c = 0 then s else s.modCur fun k =>
    { k with a := vset k.a c.toNat v, aPend := k.aPend &&& ~~~((1 : W32) <<< c.toNat),
             aBad := k.aBad.filter (fun e => e.1 ≠ c.toNat), loads := k.loads.map (dropLoads c.toNat) }

/-- A write to sd; s0 discards it (R187). -/
def State.wrS (s : State) (c : BitVec 6) (v : W64) : State :=
  if c = 0 then s else s.modCur fun k => { k with s := vset k.s c.toNat v }

/-- A g register with its poison. -/
def State.rdG (s : State) (c : BitVec 6) : GReg := if c = 0 then ⟨0, false⟩ else vget s.issue.pre.g c.toNat ⟨0, false⟩
/-- A write to gd; g0 discards it, poison included (R72). -/
def State.wrG (s : State) (c : BitVec 6) (v : GReg) : State :=
  if c = 0 then s else s.modCur fun k => { k with g := vset k.g c.toNat v }

/-! ## Queues (R55-R59) -/

/-- Entries that each queue holds (R55). -/
def lqSize : Nat := 64
def sqSize : Nat := 64
def aqSize : Nat := 32
def bqSize : Nat := 32
def kqSize : Nat := 16

/-- SQ pop by S under a budget (R58, R186); a poisoned entry traps and stays (R73). -/
def State.popSQ (s : State) (bidx : Nat) : Except State (W64 × State) :=
  match s.cur.sq with
  | [] => .error (s.waitOn 1 0 bidx)
  | e :: r => if e.psn then .error (s.poisonTrap (fld e.value 0 8)) else .ok (e.value, s.modCur fun k => { k with sq := r })

/-- AQ pop by A (R260). -/
def State.popAQ (s : State) (bidx : Nat) : Except State (W64 × State) :=
  match s.cur.aq with
  | [] => .error (s.waitOn 2 0 bidx)
  | e :: r => if e.psn then .error (s.poisonTrap (fld e.value 0 8)) else .ok (e.value, s.modCur fun k => { k with aq := r })

/-- LQ pop by X: a reserved entry whose data have not arrived waits (R56). -/
def State.popLQ (s : State) (bidx : Nat) : Except State (LQEnt × State) :=
  match s.cur.lq with
  | [] => .error (s.waitOn 0 0 bidx)
  | e :: r => if e.here then .ok (e, s.modCur fun k => { k with lq := r }) else .error (s.waitOn 0 0 bidx)

/-- BQ pop at the walker's own read position (R57, R230). -/
def State.popBQ (s : State) (bidx : Nat) : Except State (Bool × State) :=
  let i := s.curW.bqPos
  match s.issue.pre.bq[i]? with
  | some b => .ok (b, s.modW fun x => { x with bqPos := i + 1 })
  | none => .error (s.waitOn 3 0 bidx)

/-- KQ pop at the walker's own read position (R57, R224). -/
def State.popKQ (s : State) (bidx : Nat) : Except State (W64 × State) :=
  let i := s.curW.kqPos
  match s.issue.pre.kq[i]? with
  | some v => .ok (v, s.modW fun x => { x with kqPos := i + 1 })
  | none => .error (s.waitOn 4 0 bidx)

/-- Pushes by X; a full queue waits under wb0 (R58). -/
def State.pushSQ (s : State) (g : GReg) : Except State State :=
  if s.cur.sq.length < sqSize then .ok (s.modCur fun k => { k with sq := k.sq ++ [⟨g.value, g.psn⟩] })
  else .error (s.waitOn 1 0 0)
def State.pushAQ (s : State) (g : GReg) : Except State State :=
  if s.cur.aq.length < aqSize then .ok (s.modCur fun k => { k with aq := k.aq ++ [⟨g.value, g.psn⟩] })
  else .error (s.waitOn 2 0 0)
def State.pushBQ (s : State) (b : Bool) : Except State State :=
  if s.cur.bq.length < bqSize then .ok (s.modCur fun k => { k with bq := k.bq ++ [b] })
  else .error (s.waitOn 3 0 0)
def State.pushKQ (s : State) (v : W64) : Except State State :=
  if s.cur.kq.length < kqSize then .ok (s.modCur fun k => { k with kq := k.kq ++ [v] })
  else .error (s.waitOn 4 0 0)

/-- Entries of BQ and KQ that all three walkers have popped leave (R57). -/
def Core.trim (k : Core) : Core :=
  let b := Nat.min k.wA.bqPos (Nat.min k.wX.bqPos k.wS.bqPos)
  let q := Nat.min k.wA.kqPos (Nat.min k.wX.kqPos k.wS.kqPos)
  let f := fun (x : WalkerSt) => { x with bqPos := x.bqPos - b, kqPos := x.kqPos - q }
  { k with bq := k.bq.drop b, kq := k.kq.drop q, wA := f k.wA, wX := f k.wX, wS := f k.wS }

/-- An LQ entry reserved at issue (R56), with its tag. -/
def State.reserveLQ (s : State) : Except State (Nat × State) :=
  if s.cur.lq.length < lqSize then
    let t := s.cur.lqTag
    .ok (t, s.modCur fun k => { k with lqTag := t + 1, lq := k.lq ++ [⟨t, false, 0, false, false⟩] })
  else .error (s.waitOn 0 0 0)

/-- A reserved entry receives its data. -/
def Core.fillLQ (k : Core) (tag : Nat) (v : W64) (psn flg : Bool) : Core :=
  { k with lq := k.lq.map fun e => if e.tag = tag then ⟨tag, true, v, psn, flg⟩ else e }

/-! ## Sources of S, and groups -/

/-- A source of an S syllable; code 63 pops SQ under the budget of the syllable (R186, R255). -/
def State.srcS (s : State) (stage : BitVec 2) (bidx : Nat) (c : BitVec 6) : Except State (W64 × State) :=
  if c.toNat < 16 then .ok (if c = 0 then 0 else vget s.issue.pre.s c.toNat 0, s)
  else if c.toNat = 63 then s.popSQ bidx
  else if c.toNat < 48 then .ok (s.rdK (c.toNat - 32), s)
  else .ok (s.rdLc stage (c.toNat - 48), s)

/-- Operand group of n members in A (R255). -/
def State.grpA (s : State) (stage : BitVec 2) (n : Nat) (c : BitVec 6) : Except State (List W64) :=
  (List.range n).mapM fun i => s.srcA stage (c + BitVec.ofNat 6 i)

/-- Operand group of n members in S (R255); a group holds no SQ. -/
def State.grpS (s : State) (stage : BitVec 2) (n : Nat) (c : BitVec 6) : Except State (List W64) :=
  (List.range n).mapM fun i => (s.srcS stage 0 (c + BitVec.ofNat 6 i)).map Prod.fst

/-- A clean g operand, or the poison trap (R73). -/
def State.cleanG (s : State) (c : BitVec 6) : Except State W64 :=
  let g := s.rdG c
  if g.psn then .error (s.poisonTrap (fld g.value 0 8)) else .ok g.value

/-- An immediate as a 64-bit value (R189). -/
def immW (i : Int) : W64 := BitVec.ofInt 64 i

end Sys2Proof.Machine
end

