-- ==== Sys2Proof/Machine/Xlat.lean ====
section
/-! DEFINITION. Translation and address checks (21 R473-R492, 04 R108-R112, R128-R130): walks, translation caches, the windows, and
the pages that an access reaches. A translation made at issue is kept with the access as a list of pages (`Snap`). -/

namespace Sys2Proof.Machine

/-- Permissions that an access needs (R479). -/
structure Perm where
  r : Bool
  w : Bool
  x : Bool
  deriving DecidableEq, Repr

def permR : Perm := ⟨true, false, false⟩
def permW : Perm := ⟨false, true, false⟩
def permRW : Perm := ⟨true, true, false⟩
def permX : Perm := ⟨false, false, true⟩

/-- What a walk finds (R478). -/
inductive Found where
  | fail (f : AccFail)
  /-- MIG is set: the access is held (R495) -/
  | hold
  | leaf (pte : W64) (level : Nat)
  deriving DecidableEq, Repr

def XlRegs.none0 : XlRegs := ⟨0, 0, 0, 0, 0⟩
def PartRegs.none0 : PartRegs := ⟨0, 0, 0, 0⟩

/-- Index of a virtual address in the table of a level, and the bytes that one entry of the level spans (R474). -/
def tblIndex (lv va : Nat) : Nat :=
  match lv with
  | 0 => (va >>> 39) % 8192 | 1 => (va >>> 30) % 512 | 2 => (va >>> 21) % 512 | _ => (va >>> 16) % 32
def lvSpan (lv : Nat) : Nat :=
  match lv with
  | 0 => 2 ^ 39 | 1 => 2 ^ 30 | 2 => 2 ^ 21 | _ => 2 ^ 16

/-- A frame of the bank-native half of a stack with the bank-row extension (R480). -/
def bnFrame (ext : BitVec 16) (f : Nat) : Bool := (f >>> 35) % 2 = 1 && (fld ext 0 16 >>> stackOf f) % 2 = 1

/-- A replica vector without a fault: the word used on a die, or none when the vector makes its entry malformed (R491). -/
def replicaWord (v : Rec8) (die : Nat) : Option W64 :=
  let ok := v.toList.all fun (w : W64) => fld w 44 19 = 0 && fld w 0 16 = 0
  let mine := vget v die 0
  if !ok then none
  else if mine.getLsbD 63 then some mine
  else v.toList.find? fun (w : W64) => w.getLsbD 63

/-- An entry is malformed (R477); the replica vector is judged with it (R491). -/
def State.malformed (s : State) (part lv : Nat) (e : W64) : Bool :=
  let leaf := e.getLsbD 62
  if !leaf then
    lv = 3 || fld e 44 18 ≠ 0 || fld e 0 8 ≠ 0 || (lv < 2 && fld e 8 4 ≠ 0)
  else
    let comp := e.getLsbD 58; let bn := e.getLsbD 57; let cant := e.getLsbD 56
    let pol := e.getLsbD 55; let repl := e.getLsbD 52; let w := e.getLsbD 60
    let hdie := fld e 44 3
    let dies := fld (vget s.parts part .none0).w0 0 8
    lv = 0 || fld e 47 5 ≠ 0 || fld e 0 6 ≠ 0
    || (!repl && fld e 6 38 * 64 % lvSpan lv ≠ 0)
    || ((bn || cant) && lv ≠ 2)
    || (cant && (comp || bn || repl || fld e 6 38 ≠ 0 || (dies >>> hdie) % 2 = 0))
    || (!cant && (hdie ≠ 0 || pol))
    || (bn && !repl && fld e 40 4 = 0 && !bnFrame s.ext (fld e 16 28 * 65536))
    || (repl && (w || comp || bn || cant))
    || (repl && (replicaWord (s.rdRec (fld e 6 38 * 64)) 0).isNone)

/-- A translation structure takes an entry in; a walker's TLB holds 64 leaf entries (R481). -/
def State.tlbAdd (s : State) (t : TlbEnt) : State :=
  let rest := s.tlb.filter fun x => !(x.part == t.part && x.unit == t.unit && x.vbase == t.vbase && x.level == t.level)
  let keep := match t.unit with
    | .walker _ _ => if (rest.filter fun x => x.unit == t.unit).length < 64 then rest
        else match findIdxN (fun x => decide (x.unit = t.unit)) rest 0 with
          | some i => rest.eraseIdx i
          | none => rest
    | _ => rest
  { s with tlb := keep ++ [t] }

/-- The walk from a level on (R478); a line that an L1 holds exclusively is recalled before it is read (R167). A table entry that the die's walk cache holds may still be used after the memory has
changed, until a shootdown (R483): the choice is free. -/
def State.walkGo : List Nat → State → Nat → Nat → Nat → Nat → Found × State
  | [], s, _, _, _, _ => (.hold, s)
  | lv :: r, s, part, die, va, t =>
    let at' := t + 8 * tblIndex lv va
    let vb := va / lvSpan lv * lvSpan lv
    let s := s.recall at' 8
    let m := s.rd64 at'
    let old := s.tlb.find? fun x =>
      x.part == part && x.unit == .walkCache die && x.level == lv && x.vbase == vb
    let (e, s) := match old with
      | none => (m, s)
      | some o => if o.pte = m then (m, s) else
          let (c, s) := s.choose
          (if c then m else o.pte, s)
    if s.marked at' 8 then (.fail ⟨1, va, lv, false, some at', e⟩, s)
    else if !e.getLsbD 63 then (.fail ⟨1, va, lv, false, none, e⟩, s)
    else if s.malformed part lv e then (.fail ⟨1, va, lv, true, none, e⟩, s)
    else if e.getLsbD 62 then (if e.getLsbD 53 then (.hold, s) else (.leaf e lv, s))
    else State.walkGo r (s.tlbAdd ⟨part, .walkCache die, vb, lv, e, none⟩) part die va (fld e 8 36 * 256)

/-- Walk(n, va, die) (R478). -/
def State.walkPages (s : State) (part die va : Nat) : Found × State :=
  let x := vget s.xl part .none0
  if !x.w0.getLsbD 63 then (.fail (accFail 1 va), s)
  else State.walkGo [0, 1, 2, 3] s part die va (x.root.toNat * 65536)

/-- Who translates: the core whose windows apply, the partition, the translation structure, the die, and which windows the
access accepts: 0 none, 1 the carve window, 2 both (R112, R129). -/
structure XCtx where
  core : Option Nat
  part : Nat
  unit : XlUnit
  die : Nat
  win : Nat
  deriving DecidableEq, Repr

/-- The word of its replica vector that a leaf of a replicated page has on a die, as memory stands (R491). -/
def State.vecWord (s : State) (die : Nat) (e : W64) : Option W64 :=
  if e.getLsbD 52 then replicaWord (s.rdRec (fld e 6 38 * 64)) die else none

/-- A walk has found this leaf. -/
def Found.isLeaf (f : Found) (e : W64) (lv : Nat) : Bool :=
  match f with
  | .leaf x n => x == e && n == lv
  | _ => false

/-- The leaf that an access uses, and with it the replica: a leaf that its structure holds, or the walk's; where they differ the choice is
free until a shootdown (R483). -/
def State.leafOf (s : State) (x : XCtx) (va : Nat) : Found × State :=
  let (fresh, s) := s.walkPages x.part x.die va
  let held := s.tlb.find? fun t =>
    t.part == x.part && t.unit == x.unit && decide (t.vbase ≤ va) && decide (va < t.vbase + lvSpan t.level)
  let (got, vec, s) := match held with
    | none => (fresh, none, s)
    | some t => if fresh.isLeaf t.pte t.level && s.vecWord x.die t.pte == t.vec then (fresh, none, s) else
        let (c, s) := s.choose
        if c then (fresh, none, s) else (Found.leaf t.pte t.level, t.vec, s)
  match got with
  | .leaf e lv => (got, s.tlbAdd ⟨x.part, x.unit, va / lvSpan lv * lvSpan lv, lv, e, if vec.isSome then vec else s.vecWord x.die e⟩)
  | _ => (got, s)

/-- Why an access does not proceed: a fault, or a wait with its RES and address (R130, R495, R496). -/
inductive AccErr where
  | fail (f : AccFail)
  | wait (res va : Nat)
  deriving DecidableEq, Repr

/-- The frame that a leaf names on a die: its own, or that of the replica that the structure took with it (R491). -/
def State.leafFrame (s : State) (x : XCtx) (va : Nat) (e : W64) : Option Nat :=
  if !e.getLsbD 52 then some (fld e 16 28 * 65536)
  else
    let held := s.tlb.find? fun t => t.part == x.part && t.unit == x.unit && t.pte == e && t.vec.isSome
      && decide (t.vbase ≤ va) && decide (va < t.vbase + lvSpan t.level)
    (match held with
      | some t => t.vec
      | none => s.vecWord x.die e).map fun w => fld w 16 28 * 65536

/-- Place of the 64 KiB page that holds va under a leaf (R478, R491, R496). -/
def State.leafPlace (s : State) (x : XCtx) (va : Nat) (e : W64) (lv : Nat) : Except AccErr Nat :=
  if e.getLsbD 56 then .ok (cantPlace x.part (va / 65536 * 65536))
  else match s.leafFrame x va e with
    | none => .error (.fail ⟨1, va, lv, true, none, e⟩)
    | some f => if f / 2 ^ 40 ≠ 0 then .error (.fail ⟨7, va, lv, false, none, e⟩) else .ok (f + va % lvSpan lv / 65536 * 65536)

/-- The leaf grants the permissions (R479). -/
def permOk (p : Perm) (e : W64) : Bool :=
  (!p.r || e.getLsbD 61) && (!p.w || e.getLsbD 60) && (!p.x || e.getLsbD 59)

/-- The place of one page of translated space, with its leaf. -/
def State.pageOf (s : State) (x : XCtx) (p : Perm) (va : Nat) : Except AccErr (Nat × W64 × State) :=
  match s.leafOf x va with
  | (.fail f, _) => .error (.fail f)
  | (.hold, _) => .error (.wait 21 va)
  | (.leaf e lv, s) =>
    if !permOk p e then .error (.fail ⟨2, va, lv, false, none, e⟩)
    else match s.leafPlace x va e lv with
      | .error er => .error er
      | .ok l => .ok (l, e, s)

/-! ## Windows -/

/-- The runtime gang bound on a core. -/
def State.gangAt (s : State) (c : Nat) : Option Gang :=
  (s.core c).gangUid.bind fun u => s.gangs.find? fun g => g.uid == u

/-- The first physical core of rank r of the gang on core c (R34, R111). -/
def State.peerCore (s : State) (c rank : Nat) : Option Nat := (s.gangAt c).bind fun g => g.cores[rank]?

def spaceOf (va : Nat) : Nat := if va < 0xE * 2 ^ 48 then 0 else if va < 0xF * 2 ^ 48 then 1 else 2

/-- Place of a gang-window range (R111), or none. -/
def State.gangPlace (s : State) (c va n : Nat) : Option Nat :=
  let o := va - 0xF * 2 ^ 48
  let rank := (o >>> 21) % 16
  let off := o % 2 ^ 21
  if o >>> 25 ≠ 0 ∨ rank ≥ fld (s.core c).id.gsize 0 4 ∨ off + n > spadSize then none
  else (s.peerCore c rank).map fun t => spadPlace t off

/-- Place of a carve-window range (R129, R130). A step that another core's PHASE is removing is still reached, or not: the device
does not define which (R240). -/
def State.carveRange (s : State) (c va n : Nat) : Except AccErr (Nat × State) :=
  let o := va - 0xE * 2 ^ 48
  let touched (st : Nat) : Bool := decide (st * 2 ^ 25 < o + n) && decide (o < (st + 1) * 2 ^ 25)
  match s.gangAt c with
  | none => .error (.fail (accFail 4 va))
  | some g =>
    let leaving := (List.range ((o + n + 2 ^ 25 - 1) / 2 ^ 25)).filter fun st => touched st && decide (g.carve ≤ st)
    if o + n > 2 ^ 29 then .error (.fail (accFail 4 va))
    else if g.motion.any fun m => m.2.1 && touched m.1 then .error (.wait 20 va)
    else if leaving = [] then .ok (carvePlace g.uid o, s)
    else if leaving.all fun st => g.motion.any fun m => m.1 == st && !m.2.1 && m.2.2 != fld (s.core c).id.core 0 4 then
      let (b, s) := s.choose
      if b then .ok (carvePlace g.uid o, s) else .error (.fail (accFail 4 va))
    else .error (.fail (accFail 4 va))

/-- The pages of a list, each named by its first byte that the access touches. -/
def State.pagesGo : List Nat → State → XCtx → Perm → Snap → Except AccErr (Snap × State)
  | [], s, _, _, acc => .ok (acc, s)
  | va :: r, s, x, p, acc =>
    if acc.any fun e => e.1 = va / 65536 then State.pagesGo r s x p acc
    else match s.pageOf x p va with
      | .error e => .error e
      | .ok (l, _, s) => State.pagesGo r s x p (acc ++ [(va / 65536, l)])

/-- The first byte of each 64 KiB page that [va, va + n) touches. -/
def pageStarts (va n : Nat) : List Nat :=
  if n = 0 then [] else
  (List.range ((va + n - 1) / 65536 - va / 65536 + 1)).map fun i =>
    if i = 0 then va else (va / 65536 + i) * 65536

/-- The pages of [va, va + n): every check of R108, R111, R129 and R479, with the first failing byte (R257). -/
@[irreducible] def State.reach (s : State) (x : XCtx) (p : Perm) (va : Int) (n : Nat) : Except AccErr (Snap × State) :=
  if n = 0 then .ok ([], s) else
  if va < 0 ∨ (2 ^ 52 : Nat) ≤ va then .error (.fail (accFail 3 (va % (2 ^ 52 : Nat)).toNat)) else
  let v := va.toNat
  if spaceOf v ≠ spaceOf (v + n - 1) ∨ 2 ^ 52 < v + n then .error (.fail (accFail 4 v)) else
  match spaceOf v with
  | 0 => State.pagesGo (pageStarts v n) s x p []
  | 1 =>
    match x.core with
    | none => .error (.fail (accFail 4 v))
    | some c =>
      if x.win < 1 then .error (.fail (accFail 4 v)) else
      match s.carveRange c v n with
      | .error e => .error e
      | .ok (l, s) => .ok ((pageStarts v n).map fun a => (a / 65536, l - v % 65536 + (a / 65536 - v / 65536) * 65536), s)
  | _ =>
    match x.core with
    | none => .error (.fail (accFail 4 v))
    | some c =>
      if x.win < 2 then .error (.fail (accFail 4 v)) else
      match s.gangPlace c v n with
      | none => .error (.fail (accFail 4 v))
      | some l => .ok ((pageStarts v n).map fun a => (a / 65536, l - v % 65536 + (a / 65536 - v / 65536) * 65536), s)

/-- Several ranges, judged in order; pages already found are kept. -/
def State.reachAll : List (Int × Nat) → State → XCtx → Perm → Snap → Except AccErr (Snap × State)
  | [], s, _, _, acc => .ok (acc, s)
  | (va, n) :: r, s, x, p, acc =>
    match s.reach x p va n with
    | .error e => .error e
    | .ok (sn, s) =>
      State.reachAll r s x p (acc ++ sn.filter fun e => !(acc.any fun a => a.1 = e.1))

/-- The place of a byte under translations already made. -/
def Snap.place (sn : Snap) (va : Nat) : Nat :=
  match sn.find? fun e => e.1 = va / 65536 with
  | some e => e.2 + va % 65536
  | none => 0

/-- The range [va, va + n) as pieces that lie in one page each: place, length. -/
def Snap.pieces (sn : Snap) (va n : Nat) : List (Nat × Nat) :=
  (pageStarts va n).map fun a => (sn.place a, Nat.min (va + n) ((a / 65536 + 1) * 65536) - a)

/-- n bytes of a virtual range at its points of coherence. -/
def State.rdV (s : State) (sn : Snap) (va n : Nat) : List Byte := (sn.pieces va n).flatMap fun p => s.rd p.1 p.2
/-- A byte of a virtual range carries an uncorrectable mark: its place. -/
def State.markedV (s : State) (sn : Snap) (va n : Nat) : Option Nat :=
  (sn.pieces va n).findSome? fun p => (s.firstMark p.1 p.2).map fun i => p.1 + i
/-- Bytes written over a virtual range. -/
def State.wrV : State → List (Nat × Nat) → List Byte → State
  | s, [], _ => s
  | s, (l, n) :: r, b => State.wrV (s.wr l (b.take n)) r (b.drop n)

/-- A failed access ends the syllable: a fault, or a wait under wb0 (R130, R495, R496). -/
def State.accErr (s : State) (e : AccErr) : State :=
  match e with
  | .fail f => s.accessFault f
  | .wait res va => s.waitOn res 0 0 (if res = 20 then 0 else BitVec.ofNat 52 va)

/-- The translation context of the issuing walker. -/
def State.xctx (s : State) (win : Nat) : XCtx :=
  { core := some s.issue.core, part := s.cur.part, unit := .walker s.issue.core s.issue.w, die := s.issue.core / 60, win }

/-- The issuing walker's access to [va, va + n). -/
def State.access (s : State) (win : Nat) (p : Perm) (va : Int) (n : Nat) : Except State (Snap × State) :=
  match s.reach (s.xctx win) p va n with
  | .ok r => .ok r
  | .error e => .error (s.accErr e)

/-- The first address of a box or list of ranges that does not lie in one range of R108. -/
def spansRanges (rs : List (Int × Nat)) : Option Nat :=
  let here (r : Int × Nat) : Bool := r.2 != 0 && decide (0 ≤ r.1) && decide (r.1 < (2 ^ 52 : Nat))
  match rs.filter here with
  | [] => none
  | r :: q =>
    if (r :: q).all fun x => spaceOf x.1.toNat == spaceOf r.1.toNat && spaceOf (x.1.toNat + x.2 - 1) == spaceOf r.1.toNat
        && decide (x.1.toNat + x.2 ≤ 2 ^ 52) then none
    else some r.1.toNat

/-- The issuing walker's access to several ranges, which must lie in one range of R108. -/
def State.accessAll (s : State) (win : Nat) (p : Perm) (rs : List (Int × Nat)) : Except State (Snap × State) :=
  match spansRanges rs with
  | some va => .error (s.accErr (.fail (accFail 4 va)))
  | none =>
  match State.reachAll rs s (s.xctx win) p [] with
  | .ok r => .ok r
  | .error e => .error (s.accErr e)

/-! ## Cantilever lines (R135, R496) -/

/-- Line number of a place. -/
def lineOf (l : Nat) : Nat := l / 128
def isCant (l : Nat) : Bool := decide (placeCant ≤ l) && decide (l < placeCarve)
/-- Partition and virtual address of a cantilever place. -/
def cantPart (l : Nat) : Nat := (l - placeCant) / 2 ^ 52
def cantVa (l : Nat) : Nat := (l - placeCant) % 2 ^ 52

/-- A leaf of a cantilever page that a translation structure holds: that of a unit, or of any. -/
def State.cantLeaf (s : State) (u : Option XlUnit) (part va : Nat) : Option TlbEnt :=
  s.tlb.find? fun t => t.part == part && t.level == 2 && t.pte.getLsbD 62 && t.pte.getLsbD 56
    && decide (t.vbase ≤ va) && decide (va < t.vbase + lvSpan 2) && u.all fun x => t.unit == x

/-- Home die of a cantilever page: as the leaf names it through which unit u reaches the page, else as the page's leaf does; where the page
moves or its leaf is gone, as the leaf names it that an access still holds. -/
def State.hdie (s : State) (part va : Nat) (u : Option XlUnit := none) : Nat :=
  match u.bind fun x => s.cantLeaf (some x) part va with
  | some t => fld t.pte 44 3
  | none =>
    match (s.walkPages part 0 va).1 with
    | .leaf e _ => fld e 44 3
    | _ =>
      match s.cantLeaf none part va with
      | some t => fld t.pte 44 3
      | none => 0

/-- The 2 MiB page of a virtual address. -/
def cantPage (va : Nat) : Nat := va / 2 ^ 21 * 2 ^ 21
/-- A line belongs to a page of a partition. -/
def lineIn (part page ln : Nat) : Bool :=
  decide (cantPlace part page ≤ ln * 128) && decide (ln * 128 < cantPlace part page + 2 ^ 21)
/-- Lines of a page that are allocated. -/
def State.pageLines (s : State) (part page : Nat) : Nat := s.cant.countP fun e => lineIn part page e.1

/-- The move of a page of a partition to another die, once MIG is set (R501). -/
def State.dieMove (s : State) (part : Nat) : Option MigrSt :=
  s.migr.filter fun m => m.started && m.op == 2 && m.part == part

/-- Lines that the root's reservation, as last withdrawn, gives a partition on a die (R441, R496). -/
def State.cantCap (s : State) (part die : Nat) : Nat :=
  fld (vget s.parts part .none0).cant (8 * die) 8 * 16384
/-- Lines of a partition that a die holds. -/
def State.cantUsed (s : State) (part die : Nat) : Nat :=
  s.cant.countP fun e => e.2 = die && cantPart (e.1 * 128) = part

/-- Lines that a move under way will bring to a die (R501). -/
def State.cantComing (s : State) (part die : Nat) : Nat :=
  match s.dieMove part with
  | some m => if m.tdie = die then s.cant.countP fun e => lineIn part m.va e.1 && e.2 != die else 0
  | none => 0
/-- A die has room for one more line of a partition. -/
def State.cantRoom (s : State) (part die : Nat) : Bool := decide (s.cantUsed part die + s.cantComing part die < s.cantCap part die)
/-- The dies that must have room for a line: its home die, and the die to which its page moves. -/
def State.lineDies (s : State) (part va : Nat) (u : Option XlUnit) : List Nat :=
  s.hdie part va u :: match s.dieMove part with
    | some m => if cantPage va = m.va then [m.tdie] else []
    | none => []

/-- The line of the pieces that has no room, else the lines allocated at their first write, by unit u (R496). -/
def State.cantAlloc (u : Option XlUnit) : List Nat → State → Except Nat State
  | [], s => .ok s
  | ln :: r, s =>
    if !isCant (ln * 128) || s.cant.any (fun e => e.1 = ln) then State.cantAlloc u r s
    else
      let part := cantPart (ln * 128)
      let va := cantVa (ln * 128)
      if (s.lineDies part va u).all (s.cantRoom part) then
        State.cantAlloc u r { s with cant := mapPut s.cant ln (s.hdie part va u), overs := s.overs.erase ln }
      else .error ln

/-- The lines of a piece. -/
def linesOf (p : Nat × Nat) : List Nat :=
  if p.2 = 0 then [] else (List.range (lineOf (p.1 + p.2 - 1) - lineOf p.1 + 1)).map fun i => lineOf p.1 + i
/-- The first place of the pieces in a line. -/
def firstIn (ps : List (Nat × Nat)) (ln : Nat) : Nat :=
  match ps.find? fun p => (linesOf p).contains ln with
  | some p => Nat.max p.1 (ln * 128)
  | none => ln * 128
/-- The first place of the pieces that has no room, else the lines of the pieces allocated (R496). -/
def State.cantTake (s : State) (ps : List (Nat × Nat)) (u : Option XlUnit := none) : Except Nat State :=
  (State.cantAlloc u (ps.flatMap linesOf) s).mapError (firstIn ps)

end Sys2Proof.Machine
end

