-- ==== Sys2Proof/Machine/Control.lean ====
section
/-! DEFINITION. The K stream (07 R217-R241, R253): control that each walker executes for itself, the loop engine (02 R62-R64),
branches, the gang barrier, tile definitions and the rendezvous. -/

namespace Sys2Proof.Machine

/-! ## Other walkers -/

def otherWalkers : Walker → List Walker
  | .A => [.X, .S] | .X => [.A, .S] | .S => [.A, .X]

/-- Walkers that have reached dynamic bundle w, in the order of arrival. -/
def Core.reached (k : Core) (w : W64) : List Walker :=
  match k.arrivals.find? fun e => e.1 = w with
  | some e => e.2
  | none => []

/-- A walker has passed bundle w: it stands beyond it, or has ended at it. -/
def WalkerSt.passed (x : WalkerSt) (w : W64) : Bool := walkLt w x.walk || (x.walk == w && x.run == .ended)
/-- A walker has reached bundle w. -/
def Core.hasReached (k : Core) (w : W64) (o : Walker) : Bool := (k.wk o).passed w || (k.reached w).contains o
/-- The issuing walker is the first to have reached its bundle (R51). -/
def State.isFirst (s : State) : Bool := (s.cur.reached s.walk).head? == some s.issue.w
/-- All three walkers have reached the bundle, and the issuing walker did so last (R51). -/
def State.isLast (s : State) : Bool :=
  (s.cur.reached s.walk).length == 3 && (s.cur.reached s.walk).getLast? == some s.issue.w
/-- The walker that reached bundle w last has passed it. -/
def Core.lastPassed (k : Core) (w : W64) : Bool :=
  (k.reached w).length == 3 && (k.reached w).getLast?.any fun o => (k.wk o).passed w

/-! ## Results -/

/-- kd takes a value. -/
def kResult (s : State) (d : BitVec 6) (v : W64) : Out := .next (s.wrK d v)

def execNop (_ : BitVec 2) (s : State) : Out := .next s
/-- LIMM has no effect of its own: it extends its base (R189). -/
def execLimm (_ _ : BitVec 2) (_ : BitVec 22) (s : State) : Out := .next s
/-- KSET (R223). -/
def execKset (_ : BitVec 2) (d : BitVec 6) (i : BitVec 16) (s : State) : Out :=
  kResult s d (immW (immVal i.toNat 16 true s.issue.exts))
/-- KADDI (R223). -/
def execKaddi (st : BitVec 2) (d a : BitVec 6) (i : BitVec 10) (s : State) : Out :=
  kResult s d (s.srcK st a + immW (immVal i.toNat 10 true s.issue.exts))

/-- KALU on two sources (R219, R223). -/
def kAlu (f : W64 → W64 → W64) (st : BitVec 2) (d a b : BitVec 6) (s : State) : Out :=
  kResult s d (f (s.srcK st a) (s.srcK st b))
def execKadd (st : BitVec 2) (d a b : BitVec 6) (s : State) : Out := kAlu (fun x y => x + y) st d a b s
def execKsub (st : BitVec 2) (d a b : BitVec 6) (s : State) : Out := kAlu (fun x y => x - y) st d a b s
def execKand (st : BitVec 2) (d a b : BitVec 6) (s : State) : Out := kAlu (fun x y => x &&& y) st d a b s
def execKor (st : BitVec 2) (d a b : BitVec 6) (s : State) : Out := kAlu (fun x y => x ||| y) st d a b s
def execKxor (st : BitVec 2) (d a b : BitVec 6) (s : State) : Out := kAlu (fun x y => x ^^^ y) st d a b s
def execKandn (st : BitVec 2) (d a b : BitVec 6) (s : State) : Out := kAlu aluAndn st d a b s
def execKshl (st : BitVec 2) (d a b : BitVec 6) (s : State) : Out := kAlu aluShl st d a b s
def execKshr (st : BitVec 2) (d a b : BitVec 6) (s : State) : Out := kAlu aluShr st d a b s
def execKsra (st : BitVec 2) (d a b : BitVec 6) (s : State) : Out := kAlu aluSra st d a b s
def execKmin (st : BitVec 2) (d a b : BitVec 6) (s : State) : Out := kAlu aluMin st d a b s
def execKmax (st : BitVec 2) (d a b : BitVec 6) (s : State) : Out := kAlu aluMax st d a b s
def execKminu (st : BitVec 2) (d a b : BitVec 6) (s : State) : Out := kAlu aluMinu st d a b s
def execKmaxu (st : BitVec 2) (d a b : BitVec 6) (s : State) : Out := kAlu aluMaxu st d a b s
def execKaddw (st : BitVec 2) (d a b : BitVec 6) (s : State) : Out := kAlu aluAddw st d a b s
def execKsubw (st : BitVec 2) (d a b : BitVec 6) (s : State) : Out := kAlu aluSubw st d a b s
def execKclz (st : BitVec 2) (d a : BitVec 6) (s : State) : Out := kResult s d (aluClz (s.srcK st a))
/-- KMOVQ (R224). -/
def execKmovq (_ : BitVec 2) (d : BitVec 6) (w : BitVec 4) (s : State) : Out :=
  done ((s.popKQ w.toNat).map fun p => p.2.wrK d p.1)

/-! ## Loops (R225-R227) -/

/-- Loop depth saved in the top call-stack entry (R226, R229). -/
def WalkerSt.callBase (x : WalkerSt) : Nat :=
  match x.calls.getLast? with
  | some c => c.depth
  | none => 0

/-- The iteration bound: N, or the next cut (R77). -/
def Loop.bound (l : Loop) : Nat :=
  match l.cut with
  | c :: _ => Nat.min l.n c
  | [] => l.n
/-- Trip total (R64, R227). -/
def Loop.trips (l : Loop) : Nat := l.bound + l.d - 1

/-- The walker's position becomes t when the part has issued. -/
def State.goto (s : State) (t : VA) : State := { s with issue := { s.issue with next := some t, jumped := true } }

/-- OpenLoop (R226). Two loops of one part are opened one after the other, the second inside the first; a loop with N = 0 goes to
Last + 32 and ends no trip of a loop around it, even one with the same Last; the manual says neither (log 68). -/
def openLoop (pl : Bool) (n d : Nat) (lenm1 : BitVec 13) (s : State) : Except State State :=
  let x := s.curW
  let depth := x.loops.length
  let first := s.issue.addr + 32
  let last := s.issue.addr + BitVec.ofNat 52 (32 * (lenm1.toNat + 1))
  let reachesPast := match x.loops.getLast? with
    | some l => decide (x.callBase < depth) && decide (l.last < last)
    | none => false
  if depth = 4 then .error (s.loopOverflow 1)
  else if reachesPast then .error (s.loopOverflow 4)
  else if n = 0 then .ok ((s.modW fun x => { x with lc := vset x.lc depth 0 }).goto (last + 32))
  else
    let cut := if pl then (s.cur.cut.filter fun e => e.1 = s.walk).map Prod.snd else []
    .ok ((s.modW fun x => { x with loops := x.loops ++
      [{ first, last, n, d, pl, opened := s.walk, j := 0, lo := 0, cut }] }).goto first)

/-- N of R225: the immediate, or a register clamped to 2^32 − 1. -/
def loopCount (st : BitVec 2) (c : BitVec 6) (i : BitVec 1) (s : State) : Nat :=
  if i = 1 then (immVal c.toNat 6 false s.issue.exts).toNat else Nat.min (s.srcK st c).toNat (2 ^ 32 - 1)

def execLoop (st : BitVec 2) (c : BitVec 6) (i : BitVec 1) (l : BitVec 13) (s : State) : Out :=
  done (openLoop false (loopCount st c i s) 1 l s)
def execPloop (st : BitVec 2) (c : BitVec 6) (e : BitVec 2) (i : BitVec 1) (l : BitVec 13) (s : State) : Out :=
  done (openLoop true (loopCount st c i s) (e.toNat + 1) l s)

/-! ## Branches (R228-R231) -/

/-- Target(y) (R189), exact. -/
def target (s : State) (off : Int) : Int := (s.issue.addr.toNat : Int) + 32 * off

/-- The target lies in translated space, else an access fault at the branch (R181). R181 names no cause; it is 3 here for every such
target, one in a window included (log 69). -/
def checkTarget (s : State) (t : Int) : Except State VA :=
  if 0 ≤ t ∧ t < ((0xE * 2 ^ 48 : Nat) : Int) then .ok (BitVec.ofNat 52 t.toNat)
  else .error (s.accessFault (accFail 3 (t % (2 ^ 52 : Nat)).toNat))

/-- A walker that leaves the loop in which its pre-emption point lies stops at its next bundle boundary; R79 does not say where
(log 70). -/
def WalkerSt.leaveLoop (x : WalkerSt) (l : Loop) : WalkerSt :=
  if x.pre = .cut ∧ l.cut ≠ [] then { x with pre := .now } else x

/-- Loops at depth ≥ base are closed, innermost first, until one holds t; lc keeps its present value (R229). -/
def closeLoops : Nat → WalkerSt → Nat → (Loop → Bool) → WalkerSt
  | 0, x, _, _ => x
  | f + 1, x, base, keep =>
    match x.loops.getLast? with
    | none => x
    | some l =>
      if x.loops.length ≤ base || keep l then x
      else
        let y : WalkerSt := { x with lc := vset x.lc (x.loops.length - 1) (BitVec.ofNat 64 l.j), loops := x.loops.dropLast }
        closeLoops f (y.leaveLoop l) base keep

def Loop.holds (l : Loop) (t : VA) : Bool := decide (l.first ≤ t) && decide (t ≤ l.last)

/-- TakeBranch (R229). -/
def takeBranch (s : State) (t : VA) : State :=
  (s.modW fun x => closeLoops x.loops.length x x.callBase fun l => l.holds t).goto t

/-- A branch that is taken: its target is checked first (R181). -/
def branchIf (s : State) (taken : Bool) (off : Int) : Except State State :=
  if taken then (checkTarget s (target s off)).map fun t => takeBranch s t else .ok s

def execBr (_ : BitVec 2) (o : BitVec 22) (s : State) : Out := done (branchIf s true (immVal o.toNat 22 true s.issue.exts))

/-- BRK (R228). -/
def brk (test : Int → Bool) (st : BitVec 2) (a : BitVec 6) (o : BitVec 10) (s : State) : Out :=
  done (branchIf s (test (s.srcK st a).toInt) (immVal o.toNat 10 true s.issue.exts))
def execBeqz (st : BitVec 2) (a : BitVec 6) (o : BitVec 10) (s : State) : Out := brk (fun v => decide (v = 0)) st a o s
def execBnez (st : BitVec 2) (a : BitVec 6) (o : BitVec 10) (s : State) : Out := brk (fun v => decide (v ≠ 0)) st a o s
def execBltz (st : BitVec 2) (a : BitVec 6) (o : BitVec 10) (s : State) : Out := brk (fun v => decide (v < 0)) st a o s
def execBgez (st : BitVec 2) (a : BitVec 6) (o : BitVec 10) (s : State) : Out := brk (fun v => decide (0 ≤ v)) st a o s
def execBgtz (st : BitVec 2) (a : BitVec 6) (o : BitVec 10) (s : State) : Out := brk (fun v => decide (0 < v)) st a o s
def execBlez (st : BitVec 2) (a : BitVec 6) (o : BitVec 10) (s : State) : Out := brk (fun v => decide (v ≤ 0)) st a o s

/-- BRQ (R230): the popped bit is compared with the sense. -/
def brqSense (sense : Bool) (w : BitVec 4) (o : BitVec 17) (s : State) : Out :=
  done ((s.popBQ w.toNat).bind fun p => branchIf p.2 (p.1 == sense) (immVal o.toNat 17 true s.issue.exts))
def execBrq (_ : BitVec 2) (w : BitVec 4) (o : BitVec 17) (s : State) : Out := brqSense true w o s
def execBrqz (_ : BitVec 2) (w : BitVec 4) (o : BitVec 17) (s : State) : Out := brqSense false w o s

/-- CALL (R229): a full stack is found before the target is checked. -/
def execCall (_ : BitVec 2) (o : BitVec 22) (s : State) : Out :=
  done (if s.curW.calls.length ≥ 8 then .error (s.loopOverflow 2)
    else (checkTarget s (target s (immVal o.toNat 22 true s.issue.exts))).bind fun t =>
      .ok ((s.modW fun x => { x with calls := x.calls ++ [⟨s.issue.addr + 32, x.loops.length⟩] }).goto t))

/-- RET (R229). -/
def execRet (_ : BitVec 2) (s : State) : Out :=
  match s.curW.calls.getLast? with
  | none => .next (s.loopOverflow 3)
  | some c =>
    .next ((s.modW fun x => closeLoops x.loops.length { x with calls := x.calls.dropLast } c.depth fun _ => false).goto c.ret)

/-! ## MARK, SLIPSET, BUDGET, KSEED, END -/

/-- MARK (R54, R154): A and S wait until both have reached it; accesses issued from this bundle on count as after it. That both pass it
in one cycle is the concern of the whole part: see `State.issuePart`. -/
def execMark (_ : BitVec 2) (s : State) : Out :=
  match s.issue.w with
  | .X => .next s
  | .A => if s.cur.hasReached s.walk .S then .next (s.modW fun x => { x with marks := x.marks + 1 })
          else .next (s.waitOn 13 0 0)
  | .S => if s.cur.hasReached s.walk .A then .next (s.modW fun x => { x with marks := x.marks + 1 })
          else .next (s.waitOn 13 0 0)

/-- The SLIP bound takes the nearer bound of [4, 4096] (R53). -/
def clampSlip (v : Int) : Nat := if v < 4 then 4 else if v > 4096 then 4096 else v.toNat
/-- SLIPSET, performed by A (R51, R236). -/
def execSlipset (_ : BitVec 2) (i : BitVec 16) (s : State) : Out :=
  match s.issue.w with
  | .A => .next (s.modCur fun k => { k with slip := BitVec.ofNat 13 (clampSlip (immVal i.toNat 16 false s.issue.exts)) })
  | _ => .next s

/-- BUDGET (R237). -/
def execBudget (_ : BitVec 2) (n : BitVec 4) (i : BitVec 16) (s : State) : Out :=
  let v : W32 := BitVec.ofNat 32 (Nat.min (immVal i.toNat 16 false s.issue.exts).toNat 0xFFFFFFFF)
  .next (s.modW fun x => { x with wb := vset x.wb n.toNat v })

/-- KSEED and KSEEDX, performed by X (R241). -/
def kseed (f : W64 → W64 → W64) (st : BitVec 2) (a : BitVec 6) (s : State) : Out :=
  match s.issue.w with
  | .X => .next (s.modCur fun k => { k with srkey := f s.issue.pre.srkey (s.srcK st a) })
  | _ => .next s
def execKseed (st : BitVec 2) (a : BitVec 6) (s : State) : Out := kseed (fun _ v => v) st a s
def execKseedx (st : BitVec 2) (a : BitVec 6) (s : State) : Out := kseed (fun k v => k ^^^ v) st a s


/-! ## Tiles (R114-R118, R238, R239) -/

/-- Bits per element of a format code; 0 for a reserved code (R113). -/
def fmtBits (f : Nat) : Nat :=
  match f with
  | 0 => 32 | 1 => 16 | 2 => 16 | 3 => 8 | 4 => 8 | 5 => 4 | 6 => 32 | 7 => 64 | 8 => 8 | 9 => 2048 | _ => 0

def tFmt (w0 : W64) : Nat := fld w0 55 4
def tRows (w0 : W64) : Nat := fld w0 43 12 + 1
def tCols (w0 : W64) : Nat := fld w0 27 16 + 1
/-- Row pitch and base in bytes. -/
def tPitch (w0 : W64) : Nat := 64 * fld w0 15 12
def tBase (w0 : W64) : Nat := 64 * fld w0 0 15
/-- Row size in bytes (R115). -/
def tRowBytes (w0 : W64) : Nat := tCols w0 * fmtBits (tFmt w0) / 8

/-- A descriptor image that TDEF accepts (R115, R238). -/
def tileOk (w0 : W64) : Bool :=
  decide (fld w0 59 5 = 0) && decide (tFmt w0 ≤ 9) && decide (tCols w0 * fmtBits (tFmt w0) % 8 = 0)
  && (decide (tRows w0 = 1) || decide (tRowBytes w0 ≤ tPitch w0))
  && decide (tBase w0 + (tRows w0 - 1) * tPitch w0 + tRowBytes w0 ≤ spadSize)

def Core.tile (k : Core) (t : Nat) : Tile := vget k.tiles t Tile.reset
def Core.setTile (k : Core) (t : Nat) (x : Tile) : Core := { k with tiles := vset k.tiles t x }

/-- The tile is defined anew (R115, R238). -/
def Core.defineTile (k : Core) (t : Nat) (w0 : W64) : Core :=
  k.setTile t { w0, defd := true, psn := false, fill := 0, use := 0, idx := 0xFF, gen := (k.tile t).gen + 1 }

/-- TDEF of an image (R51, R238): the first walker to reach it performs it; the others pass. -/
def tdefImage (t : BitVec 6) (img : Option W64) (s : State) : Out :=
  if !s.isFirst then .next s
  else if (s.cur.tile t.toNat).defd then .next (s.waitOn 14 t.toNat 0)
  else match img with
    | none => .next (s.schedFault 4)
    | some w0 => if tileOk w0 then .next (s.modCur fun k => k.defineTile t.toNat w0) else .next (s.schedFault 4)

def execTdef (st : BitVec 2) (t a : BitVec 6) (s : State) : Out := tdefImage t (some (s.srcK st a)) s
/-- TDEF from the kernel image's tile table. -/
def execTdefTable (_ : BitVec 2) (t e : BitVec 6) (u : BitVec 3) (s : State) : Out :=
  tdefImage t (s.cur.tileTable[64 * (u.toNat - 1) + e.toNat]?) s

/-- A tile register without a definition: its poison mark goes with the definition (R71, R118). -/
def Tile.undef (x : Tile) : Tile := { x with defd := false, psn := false, idx := 0xFF }

/-- TUNDEF (R118, R239): the last walker to reach it performs it; one that passes before that leaves it noted (R70). -/
def execTundef (_ : BitVec 2) (t : BitVec 6) (s : State) : Out :=
  let e := (t.toNat, s.walk)
  if !s.isLast then
    .next (if s.cur.undefs.contains e || s.cur.lastPassed s.walk then s else s.modCur fun k => { k with undefs := k.undefs ++ [e] })
  else if !(s.cur.tile t.toNat).defd then .next (s.schedFault 3)
  else .next (s.modCur fun k => { k.setTile t.toNat (k.tile t.toNat).undef with undefs := k.undefs.erase e })

/-! ## Gangs (R232-R235, R240) -/

def State.modGang (s : State) (u : Nat) (f : Gang → Gang) : State :=
  { s with gangs := s.gangs.map fun g => if g.uid = u then f g else g }

/-- Rank of a core in its gang (R31). -/
def Core.rank (k : Core) : Nat := fld k.id.core 0 4

/-- Arrival counts of the ranks that have not issued END (R233). -/
def Gang.liveArr (g : Gang) : List Nat :=
  (List.range g.arr.length).filterMap fun r => if g.endedRanks.contains r then none else some (nth g.arr r 0)

/-- The least arrival count; none when every core has issued END. -/
def Gang.minArr (g : Gang) : Option Nat := g.liveArr.min?
/-- END (R222): the walker issues nothing further; a core whose three walkers have issued it counts as arrived to every phase of
the gang barrier (R233). -/
def execEndK (_ : BitVec 2) (s : State) : Out :=
  let s := s.modW fun x => { x with run := .ended }
  let k := s.cur
  if k.wA.run = .ended ∧ k.wX.run = .ended ∧ k.wS.run = .ended then
    match k.gangUid with
    | some u => .next (s.modGang u fun g => { g with endedRanks := setAdd g.endedRanks k.rank })
    | none => .next s
  else .next s

/-- LAST (R233). -/
def Gang.last (g : Gang) : Nat :=
  match g.minArr with
  | some m => (m + 0xFFFF) % 0x10000
  | none => 0xFFFF
/-- Phase p, counted exactly, is complete (R233). -/
def Gang.complete (g : Gang) (p : Nat) : Bool := g.liveArr.all fun a => decide (p < a)
/-- The next arrival of rank r is held by the 2^14 rule (R233). -/
def Gang.holds (g : Gang) (r : Nat) : Bool :=
  match g.minArr with
  | some m => decide (2 ^ 14 ≤ nth g.arr r 0 + 1 - m)
  | none => false

/-- LAST as the issuing core sees it; a core without a gang reads the reset value. -/
def State.lastPhase (s : State) (c : Nat) : Nat :=
  match s.gangAt c with
  | some g => g.last
  | none => 0xFFFF

/-- An earlier arrival of the core is held by the 2^14 rule, so a later BAR waits (R233). -/
def State.barHeld (s : State) : Bool :=
  (s.cur.barPend.any fun e => decide (e.2 < s.curW.bars)) &&
    match s.gangAt s.issue.core with
    | some g => g.holds s.cur.rank
    | none => false

/-- The core's arrival at the BAR that the walker stands at is made once all three walkers have reached it (R159, R232). -/
def State.reachBar (s : State) : State :=
  if s.curW.bars = s.cur.barCount && [Walker.A, .X, .S].all (fun o => o == s.issue.w || s.cur.hasReached s.walk o) then
    s.modCur fun k => { k with barCount := k.barCount + 1, barPend := k.barPend ++ [(s.walk, k.barCount)] }
  else s

/-- An acquire: the core's L1 is flash-invalidated (R158); exclusive lines hold their data at the point of coherence here. -/
def Core.acquire (k : Core) : Core := { k with l1 := [] }

/-- BARA (R232): arrives and passes. -/
def execBara (_ : BitVec 2) (w : BitVec 4) (s : State) : Out :=
  let s := s.reachBar
  if s.barHeld then .next (s.waitOn 8 0 w.toNat)
  else .next (s.modW fun x => { x with bars := x.bars + 1 })

/-- BAR (R232, R234): arrives, then waits for the phase of its own arrival. -/
def execBar (_ : BitVec 2) (w : BitVec 4) (s : State) : Out :=
  let s := s.reachBar
  let p := s.curW.bars
  let ok := match s.gangAt s.issue.core with
    | some g => decide (p < nth g.arr s.cur.rank 0) && g.complete p
    | none => false
  if s.barHeld || !ok then .next (s.waitOn 8 0 w.toNat)
  else .next ((s.modW fun x => { x with bars := x.bars + 1 }).modCur Core.acquire)

/-- The syllable at hand has waited before, at this RES. -/
def State.waitedFor (s : State) (res : Nat) : Bool :=
  s.preW.stalls.any fun e => decide (e.slot = s.issue.slot) && decide (e.res.toNat = res)

/-- BARW (R234): d decides; a walker that had to wait does not set LATE, and a wait under the 2^14 rule counts as one (log 71). -/
def execBarw (st : BitVec 2) (a : BitVec 6) (w : BitVec 4) (s : State) : Out :=
  let d := ((s.srcK st a).toNat % 0x10000 + 0x10000 - s.lastPhase s.issue.core) % 0x10000
  if s.barHeld then .next (s.waitOn 8 0 w.toNat)
  else if 2 ≤ d ∧ d ≤ 0x8000 then .next (s.schedFault 6)
  else if d = 1 then .next (s.waitOn 8 0 w.toNat)
  else if s.waitedFor 8 then .next (s.modCur Core.acquire)
  else .next (s.modCur fun k => { k.acquire with late := true })

/-- A PHASE of rank r gives the carve-out n steps (R129, R130, R240): the new size holds at once; added steps are in motion until
their move completes; removed steps keep their bytes until theirs does. -/
def Gang.resize (g : Gang) (n r : Nat) : Gang :=
  let added := (List.range (n - g.carve)).map fun i => (g.carve + i, true, r)
  let removed := (List.range (g.carve - n)).map fun i => (g.carve - 1 - i, false, r)
  let stay := g.motion.filter fun m => !(added.any fun a => a.1 == m.1) && !(removed.any fun a => a.1 == m.1)
  { g with carve := n, motion := stay ++ added ++ removed }

/-- The steps from `old` to n of a gang's carve-out read as zero (R129). -/
def State.zeroSteps (s : State) (u old n : Nat) : State :=
  { s with mem := s.mem.zero (carvePlace u (old * 2 ^ 25)) ((n - old) * 2 ^ 25) }

/-- The kernel's declared carve-out, in steps (R212, R457). -/
def State.carveDecl (s : State) (g : Gang) : Nat :=
  match s.insts.find? fun i => i.id = g.inst with
  | some i => fld i.image[0] 52 4
  | none => 0

/-- PHASE (R240): the last walker to reach it starts the move; the others wait until it has. -/
def execPhase (_ : BitVec 2) (i : BitVec 16) (s : State) : Out :=
  let n := (immVal i.toNat 16 false s.issue.exts).toNat
  if (otherWalkers s.issue.w).any (fun o => (s.cur.wk o).passed s.walk) then .next s
  else if (otherWalkers s.issue.w).all (fun o => s.cur.hasReached s.walk o) &&
      (s.cur.reached s.walk).getLast? == some s.issue.w then
    match s.gangAt s.issue.core with
    | none => .next (s.schedFault 5)
    | some g =>
      if s.carveDecl g < n then .next (s.schedFault 5)
      else .next ((s.modGang g.uid fun g => g.resize n s.cur.rank).zeroSteps g.uid g.carve n)
  else .next (s.waitOn 15 0 0)

end Sys2Proof.Machine
end

