-- ==== Sys2Proof/Machine/Numbers.lean ====
section
/-! DEFINITION. Number formats and arithmetic (03): exact values, decoding, the one rounding helper Convert, FP32 arithmetic, the
coordinate-keyed generator, square-block microscaling, band sums and BX24 blocks. Exact values are dyadic numbers, so nothing
here rounds except `convert`. -/

namespace Sys2Proof.Machine

/-- The floating-point element formats of R83. -/
inductive FpF where
  | fp32 | fp16 | bf16 | e4m3 | e5m2 | e2m1
  deriving DecidableEq, Repr

/-- Width in bits (R83). -/
def FpF.width : FpF → Nat
  | .fp32 => 32 | .fp16 => 16 | .bf16 => 16 | .e4m3 => 8 | .e5m2 => 8 | .e2m1 => 4
/-- P: fraction bits (R83). -/
def FpF.p : FpF → Nat
  | .fp32 => 23 | .fp16 => 10 | .bf16 => 7 | .e4m3 => 3 | .e5m2 => 2 | .e2m1 => 1
/-- Exponent bias (R83). -/
def FpF.bias : FpF → Nat
  | .fp32 => 127 | .fp16 => 15 | .bf16 => 127 | .e4m3 => 7 | .e5m2 => 15 | .e2m1 => 1
/-- Exponent bits (R83). -/
def FpF.eb (f : FpF) : Nat := f.width - 1 - f.p
/-- Emin = 1 − bias (R83). -/
def FpF.emin (f : FpF) : Int := 1 - (f.bias : Int)
/-- HasInf (R87). -/
def FpF.hasInf : FpF → Bool
  | .e4m3 => false | .e2m1 => false | _ => true
/-- The canonical NaN (R83); E2M1 has none and gives +0 (R89). -/
def FpF.nan : FpF → Nat
  | .fp32 => 0x7FC00000 | .fp16 => 0x7E00 | .bf16 => 0x7FC0 | .e4m3 => 0x7F | .e5m2 => 0x7E | .e2m1 => 0
/-- The encoding of MaxFin (R83). -/
def FpF.maxFin : FpF → Nat
  | .fp32 => 0x7F7FFFFF | .fp16 => 0x7BFF | .bf16 => 0x7F7F | .e4m3 => 0x7E | .e5m2 => 0x7B | .e2m1 => 7
/-- The encoding of +∞, where the format has one. -/
def FpF.inf (f : FpF) : Nat := (2 ^ f.eb - 1) * 2 ^ f.p

/-- An exact value: NaN, ±∞, or (−1)^neg × m × 2^e; a zero has a sign (R84, R86). -/
inductive Val where
  | nan
  | inf (neg : Bool)
  | fin (neg : Bool) (m : Nat) (e : Int)
  deriving DecidableEq, Repr

/-- Decode(F, bits) (R84): the exact value of an encoding. -/
def decodeF (f : FpF) (bits : Nat) : Val :=
  let neg := (bits >>> (f.width - 1)) % 2 = 1
  let ex := (bits >>> f.p) % 2 ^ f.eb
  let fr := bits % 2 ^ f.p
  if f = .e4m3 ∧ ex = 15 ∧ fr = 7 then .nan
  else if f.hasInf ∧ ex = 2 ^ f.eb - 1 then if fr = 0 then .inf neg else .nan
  else if ex = 0 then .fin neg fr (f.emin - f.p)
  else .fin neg (2 ^ f.p + fr) ((ex : Int) - f.bias - f.p)

/-- Decode of an FP32 register value. -/
def decode32 (x : W32) : Val := decodeF .fp32 x.toNat

/-- The value of an E8M0 code (R85). -/
def decodeE8 (c : Nat) : Val := if c = 0xFF then .nan else .fin false 1 ((c : Int) - 127)

/-- floor(log2 m) for m above 0. -/
def ilog2 (m : Nat) : Nat := Nat.log2 m

/-- m × 2^s rounded toward zero, with the remainder's numerator and denominator: (quotient, remainder, 2^k). -/
def shiftRem (m : Nat) (s : Int) : Nat × Nat × Nat :=
  if s ≥ 0 then (m * 2 ^ s.toNat, 0, 1)
  else
    let d := 2 ^ (-s).toNat
    (m / d, m % d, d)

/-- RoundHalfEven of m × 2^s (R88). -/
def rneShift (m : Nat) (s : Int) : Nat :=
  let (k, r, d) := shiftRem m s
  if 2 * r > d ∨ (2 * r = d ∧ k % 2 = 1) then k + 1 else k

/-- SR rounding of m × 2^s with 32 random bits (R88). -/
def srShift (m : Nat) (s : Int) (rnd : W32) : Nat :=
  let (k, r, d) := shiftRem m s
  if rnd.toNat * d < r * 2 ^ 32 then k + 1 else k

/-- The encoding of ±k × 2^q on the grid of F, for a k that rounding gave at quantum 2^q; overflow above MaxFin as R88, R89. -/
def packF (f : FpF) (neg : Bool) (k : Nat) (q : Int) (sat : Bool) : Nat :=
  let sb := b2n neg * 2 ^ (f.width - 1)
  let (k, q) := if k ≥ 2 ^ (f.p + 1) then (k / 2, q + 1) else (k, q)
  if k < 2 ^ f.p then sb + k
  else
    let ex := q + f.p + f.bias
    let body := ex.toNat * 2 ^ f.p + (k - 2 ^ f.p)
    if body > f.maxFin then
      if sat then sb + f.maxFin else if f.hasInf then sb + f.inf else f.nan
    else sb + body

/-- Overflow(F, sign, sat) (R88). -/
def overflowF (f : FpF) (neg : Bool) (sat : Bool) : Nat :=
  let sb := b2n neg * 2 ^ (f.width - 1)
  if sat then sb + f.maxFin else if f.hasInf then sb + f.inf else f.nan

/-- Convert(v, F, mode, sat, rnd) (R88): RNE when `rnd` is absent, SR with `rnd` otherwise. The result is the encoding. -/
def convert (v : Val) (f : FpF) (rnd : Option W32) (sat : Bool) : Nat :=
  match v with
  | .nan => f.nan
  | .inf neg => overflowF f neg sat
  | .fin neg m e =>
    if m = 0 then b2n neg * 2 ^ (f.width - 1)
    else
      let q := max ((ilog2 m : Int) + e) f.emin - f.p
      let k := match rnd with
        | none => rneShift m (e - q)
        | some r => srShift m (e - q) r
      packF f neg k q sat

/-- Convert(v, FP32, RNE, 0, 0): every FP32 arithmetic result (R90). -/
def to32 (v : Val) : W32 := BitVec.ofNat 32 (convert v .fp32 none false)

/-- The exact negation. -/
def Val.neg : Val → Val
  | .nan => .nan
  | .inf n => .inf (!n)
  | .fin n m e => .fin (!n) m e

/-- The sign of a value; a NaN has none. -/
def Val.isNeg : Val → Bool
  | .nan => false
  | .inf n => n
  | .fin n _ _ => n

def Val.isNan : Val → Bool
  | .nan => true
  | _ => false

def Val.isInf : Val → Bool
  | .inf _ => true
  | _ => false

/-- The value is a zero of either sign. -/
def Val.isZero : Val → Bool
  | .fin _ 0 _ => true
  | _ => false

/-- The signed integer (−1)^neg × m × 2^(e − base), for base at most e. -/
def signedAt (neg : Bool) (m : Nat) (e base : Int) : Int :=
  let x : Int := (m * 2 ^ (e - base).toNat : Nat)
  if neg then -x else x

/-- The exact sum (R90): ∞ − ∞ is NaN; an exact zero sum is +0 unless both addends are −0 (R86). -/
def Val.add (a b : Val) : Val :=
  match a, b with
  | .nan, _ => .nan
  | _, .nan => .nan
  | .inf x, .inf y => if x = y then .inf x else .nan
  | .inf x, _ => .inf x
  | _, .inf y => .inf y
  | .fin x m e, .fin y n d =>
    let base := min e d
    let s := signedAt x m e base + signedAt y n d base
    if s = 0 then .fin (x && y && m == 0 && n == 0) 0 base
    else .fin (decide (s < 0)) s.natAbs base

/-- The exact product: ∞ × 0 is NaN (R100). -/
def Val.mul (a b : Val) : Val :=
  match a, b with
  | .nan, _ => .nan
  | _, .nan => .nan
  | .inf x, .inf y => .inf (x != y)
  | .inf x, .fin y n _ => if n = 0 then .nan else .inf (x != y)
  | .fin x m _, .inf y => if m = 0 then .nan else .inf (x != y)
  | .fin x m e, .fin y n d => .fin (x != y) (m * n) (e + d)

/-- v × 2^k. -/
def Val.scale (v : Val) (k : Int) : Val :=
  match v with
  | .fin n m e => .fin n m (e + k)
  | v => v

/-- a < b in the reals with infinities; NaN compares false. Zeros compare equal. -/
def Val.lt (a b : Val) : Bool :=
  match a, b with
  | .nan, _ => false
  | _, .nan => false
  | .inf x, .inf y => x && !y
  | .inf x, .fin _ _ _ => x
  | .fin _ _ _, .inf y => !y
  | .fin x m e, .fin y n d => decide (signedAt x m e (min e d) < signedAt y n d (min e d))

/-- a = b; NaN is equal to nothing, −0 equals +0. -/
def Val.eq (a b : Val) : Bool :=
  !a.isNan && !b.isNan && !a.lt b && !b.lt a

/-- AddF32(a, b) on encodings (R90). -/
def addF32 (a b : W32) : W32 := to32 ((decode32 a).add (decode32 b))
def subF32 (a b : W32) : W32 := to32 ((decode32 a).add (decode32 b).neg)
def mulF32 (a b : W32) : W32 := to32 ((decode32 a).mul (decode32 b))
/-- Fused a × b + c (R90, 09 R299). -/
def fmaF32 (a b c : W32) (negP negC : Bool) : W32 :=
  let p := (decode32 a).mul (decode32 b)
  let p := if negP then p.neg else p
  let c := decode32 c
  to32 (p.add (if negC then c.neg else c))

/-- FMIN and FMAX (07 R249): −0 < +0; a NaN operand gives the canonical NaN. -/
def minF32 (a b : W32) : W32 :=
  let x := decode32 a; let y := decode32 b
  if x.isNan || y.isNan then 0x7FC00000
  else if x.lt y then a else if y.lt x then b else if x.isNeg then a else b
def maxF32 (a b : W32) : W32 :=
  let x := decode32 a; let y := decode32 b
  if x.isNan || y.isNan then 0x7FC00000
  else if x.lt y then b else if y.lt x then a else if x.isNeg then b else a
/-- FABS and FNEG: sign cleared or inverted; NaN gives the canonical NaN. -/
def absF32 (a : W32) : W32 := if (decode32 a).isNan then 0x7FC00000 else a &&& 0x7FFFFFFF
def negF32 (a : W32) : W32 := if (decode32 a).isNan then 0x7FC00000 else a ^^^ 0x80000000
def eqF32 (a b : W32) : Bool := (decode32 a).eq (decode32 b)
def ltF32 (a b : W32) : Bool := (decode32 a).lt (decode32 b)
def leF32 (a b : W32) : Bool := ltF32 a b || eqF32 a b

/-- A signed integer as an exact value; zero is +0. -/
def intVal (i : Int) : Val := .fin (decide (i < 0)) i.natAbs 0

/-- FP32 to a signed integer of w bits: toward zero, clamped, NaN gives 0 (R91). -/
def truncInt (w : Nat) (v : Val) : Int :=
  let lo : Int := -(2 ^ (w - 1) : Nat)
  let hi : Int := (2 ^ (w - 1) : Nat) - 1
  match v with
  | .nan => 0
  | .inf n => if n then lo else hi
  | .fin n m e =>
    let k : Int := ((shiftRem m e).1 : Nat)
    max lo (min hi (if n then -k else k))

/-! ## Correctly rounded functions (09 R305)

Each function gives an exact value, or a value so close below an irrational result, with a last bit set, that rounding cannot
tell them apart (log 15). -/

/-- Newton's iteration for floor(√n); it stops when it no longer falls. -/
def isqrtIter : Nat → Nat → Nat → Nat
  | 0, _, x => x
  | f + 1, n, x =>
    let y := (x + n / x) / 2
    if y < x then isqrtIter f n y else x

/-- floor(√n). -/
def isqrt (n : Nat) : Nat := if n = 0 then 0 else isqrtIter 400 n (2 ^ (ilog2 n / 2 + 1))

/-- A positive quotient num / den × 2^e as a value with 64 bits or more and a sticky last bit. -/
def quotVal (neg : Bool) (num den : Nat) (e : Int) : Val :=
  let s := 64 + ilog2 den
  let q := num * 2 ^ s / den
  let r := num * 2 ^ s % den
  .fin neg (2 * q + b2n (decide (r ≠ 0))) (e - s - 1)

/-- √(m × 2^e) with a sticky last bit. -/
def sqrtVal (m : Nat) (e : Int) : Val :=
  let (m, e) := if e % 2 = 0 then (m, e) else (2 * m, e - 1)
  let n := m * 2 ^ 128
  let r := isqrt n
  .fin false (2 * r + b2n (decide (r * r ≠ n))) (e / 2 - 64 - 1)

def vrcp (v : Val) : Val :=
  match v with
  | .nan => .nan
  | .inf n => .fin n 0 0
  | .fin n m e => if m = 0 then .inf n else quotVal n 1 m (-e)

def vsqrt (v : Val) : Val :=
  match v with
  | .nan => .nan
  | .inf n => if n then .nan else .inf false
  | .fin n m e => if m = 0 then .fin n 0 0 else if n then .nan else sqrtVal m e

/-- 1 / √(m × 2^e) = √(2^-e / m), computed as √(2^192 / m) with a sticky bit. -/
def vrsq (v : Val) : Val :=
  match v with
  | .nan => .nan
  | .inf n => if n then .nan else .fin false 0 0
  | .fin n m e =>
    if m = 0 then .inf n else if n then .nan
    else
      let (m, e) := if e % 2 = 0 then (m, e) else (2 * m, e - 1)
      let num := 2 ^ 256
      let r := isqrt (num / m)
      .fin false (2 * r + b2n (decide (r * r * m ≠ num))) (-(e / 2) - 128 - 1)

/-- 2^(2^-i) at 192 fraction bits, for i = 1, 2, …: repeated square roots of 2. -/
def rootsOfTwo : Nat → Nat → List Nat
  | 0, _ => []
  | n + 1, x =>
    let y := isqrt (x * 2 ^ 192)
    y :: rootsOfTwo n y

/-- The product of the roots that the bits of a fraction select, most significant bit first. -/
def exp2Frac : List Nat → Nat → Nat → Nat → Nat
  | [], _, _, acc => acc
  | r :: rs, fr, i, acc =>
    exp2Frac rs fr (i - 1) (if (fr >>> i) % 2 = 1 then acc * r / 2 ^ 192 else acc)

/-- 2^x (R305): an integer x is exact; magnitudes beyond 2^20 have left FP32's range. -/
def vexp2 (v : Val) : Val :=
  match v with
  | .nan => .nan
  | .inf n => if n then .fin false 0 0 else .inf false
  | .fin n m e =>
    if m = 0 then .fin false 1 0
    else if (ilog2 m : Int) + e ≥ 20 then if n then .fin false 1 (-2000) else .fin false 1 2000
    else
      -- x at 64 fraction bits; smaller bits of x leave the rounding at 1.0
      let (k, r, _) := shiftRem m (e + 64)
      let x : Int := if n then -(k : Int) - b2n (decide (r ≠ 0)) else k
      let i := x / (2 ^ 64 : Nat)
      let fr := (x % (2 ^ 64 : Nat)).toNat
      if fr = 0 ∧ r = 0 then .fin false 1 i
      else .fin false (2 * exp2Frac (rootsOfTwo 64 (2 * 2 ^ 192)) fr 63 (2 ^ 192) + 1) (i - 193)

/-- Bits of log2 of x in [1, 2), at w fraction bits, by repeated squaring. -/
def log2Bits : Nat → Nat → Nat → Nat → Nat
  | 0, _, _, acc => acc
  | n + 1, w, x, acc =>
    let y := x * x / 2 ^ w
    if y ≥ 2 ^ (w + 1) then log2Bits n w (y / 2) (2 * acc + 1) else log2Bits n w y (2 * acc)

/-- log2 x (R305): a power of two is exact. -/
def vlog2 (v : Val) : Val :=
  match v with
  | .nan => .nan
  | .inf n => if n then .nan else .inf false
  | .fin n m e =>
    if m = 0 then .inf true else if n then .nan
    else
      let l := ilog2 m
      let ex : Int := l + e
      if m = 2 ^ l then intVal ex
      else
        let fr := log2Bits 128 320 (m * 2 ^ (320 - l)) 0
        let s : Int := 2 * (ex * (2 ^ 128 : Nat) + fr) + 1
        .fin (decide (s < 0)) s.natAbs (-129)

/-! ## The generator (R94) -/

def srRound (x c : W64) : W64 :=
  let x := x ^^^ c
  let x := x ^^^ (x >>> 32)
  x * 0x0100100010001001

/-- SrBits(key, stream, row, col) (R94). -/
def srBits (key : W64) (stream row col : Nat) : W32 :=
  let x := key ^^^ BitVec.ofNat 64 ((stream % 2 ^ 16) <<< 48) ^^^ BitVec.ofNat 64 ((row % 2 ^ 24) <<< 24) ^^^
    BitVec.ofNat 64 (col % 2 ^ 24)
  let x := srRound x 0x5A3C96E10F7B2D48
  let x := srRound x 0xC3A51E69B487D20F
  let x := srRound x 0x2D96F0C35A1E87B4
  let x := srRound x 0x96E14B2DC3F01A5A
  x.extractLsb' 32 32

/-! ## Square-block microscaling (R96-R98) -/

/-- Emax(F) (R97). -/
def FpF.emax : FpF → Int
  | .e4m3 => 8 | .e5m2 => 15 | _ => 2

/-- floor(log2 |v|) of a non-zero finite value. -/
def Val.lg : Val → Int
  | .fin _ m e => (ilog2 m : Int) + e
  | _ => 0

def Val.isNZ : Val → Bool
  | .fin _ m _ => m ≠ 0
  | _ => false

/-- The scale exponent of a block (R97): −127 when every value is zero, else the clamped difference. -/
def mxExp (f : FpF) (xs : List Val) : Int :=
  let nz := xs.filter Val.isNZ
  match nz with
  | [] => -127
  | v :: r =>
    let mx := r.foldl (fun a w => max a w.lg) v.lg
    max (-127) (min 127 (mx - f.emax))

/-- MxQuant (R97) over the values of a block, each with its random bits for SR: the scale code and the encodings. -/
def mxQuant (f : FpF) (xs : List (Val × Option W32)) : Nat × List Nat :=
  if xs.any (fun x => x.1.isNan || x.1.isInf) then (0xFF, xs.map fun _ => 0)
  else
    let se := mxExp f (xs.map Prod.fst)
    ((se + 127).toNat, xs.map fun x => convert (x.1.scale (-se)) f x.2 true)

/-! ## Band sums (R100, R101) -/

/-- BandSum of the exact products of a window (R101). -/
def bandSum (ps : List Val) : W32 :=
  let pos := ps.any fun p => p = .inf false
  let ng := ps.any fun p => p = .inf true
  if ps.any Val.isNan ∨ (pos ∧ ng) then 0x7FC00000
  else if pos then 0x7F800000
  else if ng then 0xFF800000
  else
    match ps.filter Val.isNZ with
    | [] => 0
    | v :: r =>
      let g := r.foldl (fun a w => max a w.lg) v.lg - 40
      let s := (v :: r).foldl (fun (a : Int) w =>
        match w with
        | .fin n m e =>
          let k : Int := ((shiftRem m (e - g)).1 : Nat)
          if n then a - k else a + k
        | _ => a) 0
      to32 (.fin (decide (s < 0)) s.natAbs g)

/-! ## BX24 blocks (R103-R107) -/

structure Bx where
  m : List Int
  exp : Nat
  nan : Bool
  sat : Bool
  rsv : Nat
  absorb : Nat
  eng : List Byte
  deriving DecidableEq, Repr

/-- The block that 256 bytes hold (R103). -/
def bxOf (b : List Byte) : Bx :=
  let h := nth b 193 0
  { m := (List.range 64).map fun i => toSigned 24 (ofBytes ((b.drop (3 * i)).take 3)),
    exp := (nth b 192 0).toNat, nan := h.getLsbD 0, sat := h.getLsbD 1, rsv := h.toNat / 4,
    absorb := ofBytes ((b.drop 194).take 2), eng := (b.drop 196).take 60 }

/-- The 256 bytes of a block. -/
def bxBytes (x : Bx) : List Byte :=
  (x.m.flatMap fun (k : Int) => toBytes 3 (k % ((2 ^ 24 : Nat) : Int)).toNat) ++ toBytes 1 x.exp ++
    toBytes 1 (b2n x.nan + 2 * b2n x.sat + 4 * x.rsv) ++ toBytes 2 x.absorb ++ x.eng

/-- A malformed block is treated as NaN and written back with bits [1551:1544] as 0x01 (R107). -/
def bxFix (x : Bx) : Bx := if x.rsv ≠ 0 then { x with nan := true, sat := false, rsv := 0 } else x

/-- The zero block (R104). -/
def bxZero : Bx :=
  { m := List.replicate 64 0, exp := 0, nan := false, sat := false, rsv := 0, absorb := 0, eng := List.replicate 60 0 }

/-- The exact value of mantissa k at exponent EXP. -/
def bxVal (k : Int) (exp : Nat) : Val := .fin (decide (k < 0)) k.natAbs ((exp : Int) - 149)

/-- BxRead(B, i, j) (R104). -/
def bxRead (x : Bx) (i : Nat) : W32 :=
  if x.nan then 0x7FC00000 else to32 (bxVal (nth x.m i 0) x.exp)

/-- RoundHalfEven(s / 2^(e − 149)) of an exact finite value. -/
def bxRound (v : Val) (e : Nat) : Int :=
  match v with
  | .fin n m d =>
    let k : Int := (rneShift m (d - ((e : Int) - 149)) : Nat)
    if n then -k else k
  | _ => 0

def bxFits (k : Int) : Bool := -(2 ^ 23 : Nat) ≤ k && k ≤ (2 ^ 23 : Nat) - 1

/-- The least exponent from e on at which every sum fits, at most 255 (R105). -/
def bxExp : Nat → Nat → List Val → Nat
  | 0, e, _ => e
  | f + 1, e, ss => if e < 255 ∧ ss.any (fun s => !bxFits (bxRound s e)) then bxExp f (e + 1) ss else e

/-- BxAdd(B, x) (R105). -/
def bxAdd (b : Bx) (x : List Val) : Bx :=
  let b := bxFix b
  if b.nan ∨ x.any (fun v => v.isNan || v.isInf) then { b with nan := true }
  else
    let ss := List.zipWith (fun k v => (bxVal k b.exp).add v) b.m x
    let e := bxExp 256 b.exp ss
    let ks := ss.map fun s => bxRound s e
    let cl := ks.map fun k => max (-(2 ^ 23 : Nat) : Int) (min ((2 ^ 23 : Nat) - 1) k)
    let lost := (List.zipWith (fun s k => !(bxVal k e).eq s) ss cl).countP id
    { b with m := cl, exp := e, sat := b.sat || ks.any (fun k => !bxFits k),
             absorb := Nat.min (b.absorb + lost) 0xFFFF }

end Sys2Proof.Machine
end

