-- ==== Sys2Proof/Machine/Layout.lean ====
section
/-! DEFINITION. Layout records (04 R119-R125), the box of a tile (08 R267), element bits in memory and in a tile, and the tests that a
syllable makes on a tile (04 R117, R141). -/

namespace Sys2Proof.Machine

/-! ## Layout records (R119) -/

def lFmt (l : Rec8) : Nat := fld l[0] 60 4
def lNdim (l : Rec8) : Nat := fld l[0] 58 2 + 1
def lMxl (l : Rec8) : Nat := fld l[0] 56 2
def lCanon (l : Rec8) : Nat := fld l[0] 55 1
def lBase (l : Rec8) : Nat := fld l[0] 0 52
def lSbase (l : Rec8) : Nat := fld l[1] 0 52
def lExt (l : Rec8) (i : Nat) : Nat :=
  match i with
  | 0 => fld l[2] 0 32 | 1 => fld l[2] 32 32 | 2 => fld l[3] 0 32 | _ => fld l[3] 32 32
def lStr (l : Rec8) (i : Nat) : Int :=
  match i with
  | 1 => toSigned 48 (fld l[4] 0 48) | 2 => toSigned 48 (fld l[5] 0 48) | 3 => toSigned 48 (fld l[6] 0 48) | _ => 0
def lStream (l : Rec8) : Nat := fld l[4] 48 16
def lPad (l : Rec8) : Nat := fld l[5] 48 16
def lSstr (l : Rec8) : Int := toSigned 48 (fld l[7] 0 48)
def lWidth (l : Rec8) : Nat := fmtBits (lFmt l)

/-- The extent that bounds a coordinate; an unused dimension holds only 0 (R267). -/
def lTop (l : Rec8) (i : Nat) : Nat := if i < lNdim l then lExt l i else 1

/-- A malformed record (R120); its own address is judged where it is read. -/
def lMalformed (l : Rec8) : Bool :=
  fld l[0] 52 3 ≠ 0 || fld l[1] 52 12 ≠ 0 || fld l[6] 48 16 ≠ 0 || fld l[7] 48 16 ≠ 0
  || lFmt l > 9 || lMxl l = 3
  || (lMxl l ≠ 0 && (!(lFmt l = 3 || lFmt l = 4 || lFmt l = 5) || lNdim l > 2))
  || (List.range 4).any (fun i =>
      if i < lNdim l then decide (lExt l i < 1) || decide (2 ^ 31 - 1 < lExt l i)
      else decide (lExt l i ≠ 0) || decide (lStr l i ≠ 0))
  || (if lWidth l ≥ 8 then lBase l % (lWidth l / 8) ≠ 0 else false)

/-- A logical coordinate (R121). -/
structure Coord where
  c0 : Int
  c1 : Int
  c2 : Int
  c3 : Int
  deriving DecidableEq, Repr

/-- The origin that two group members hold (R267). -/
def originOf (o01 o23 : W64) : Coord :=
  ⟨toSigned 32 (fld o01 0 32), toSigned 32 (fld o01 32 32), toSigned 32 (fld o23 0 32), toSigned 32 (fld o23 32 32)⟩

def Coord.inExtent (l : Rec8) (c : Coord) : Bool :=
  decide (0 ≤ c.c0 ∧ c.c0 < lTop l 0) && decide (0 ≤ c.c1 ∧ c.c1 < lTop l 1)
  && decide (0 ≤ c.c2 ∧ c.c2 < lTop l 2) && decide (0 ≤ c.c3 ∧ c.c3 < lTop l 3)

/-- Byte address of an element, exact (R121). -/
def elemAddr (l : Rec8) (c : Coord) : Int :=
  (lBase l : Int) + c.c0 * lWidth l / 8 + c.c1 * lStr l 1 + c.c2 * lStr l 2 + c.c3 * lStr l 3

/-- The pad value in the layout's element format (R123); the zero block for BX24. -/
def padBits (l : Rec8) : Nat :=
  if lMxl l ≠ 0 then 0
  else match lFmt l with
    | 0 => lPad l * 65536
    | 6 => (toSigned 16 (lPad l) % (2 ^ 32 : Nat)).toNat
    | 7 => (toSigned 16 (lPad l) % (2 ^ 64 : Nat)).toNat
    | 9 => 0
    | _ => lPad l % 2 ^ lWidth l

/-- Canonical row and column (R124). -/
def canonOf (l : Rec8) (c : Coord) : Int × Int :=
  let f := c.c1 + lExt l 1 * (c.c2 + lExt l 2 * c.c3)
  if lCanon l = 0 then (f, c.c0) else (c.c0, f)

/-! ## Boxes -/

/-- A run of in-extent elements of one row of a box: row, columns [j0, j1), first byte and bytes covered. -/
structure Seg where
  i : Nat
  j0 : Nat
  j1 : Nat
  va : Int
  n : Nat
  deriving DecidableEq, Repr

/-- Box element (i, j) lies at this coordinate (R267). -/
def boxCoord (o : Coord) (i j : Nat) : Coord := ⟨o.c0 + j, o.c1 + i, o.c2, o.c3⟩

/-- The in-extent runs of a box of rows × cols elements, in increasing row. -/
def boxSegs (l : Rec8) (o : Coord) (rows cols : Nat) : List Seg :=
  if !(decide (0 ≤ o.c2 ∧ o.c2 < lTop l 2) && decide (0 ≤ o.c3 ∧ o.c3 < lTop l 3)) then [] else
  let j0 := (max 0 (-o.c0)).toNat
  let j1 := (min (cols : Int) ((lTop l 0 : Int) - o.c0)).toNat
  let i0 := (max 0 (-o.c1)).toNat
  let i1 := (min (rows : Int) ((lTop l 1 : Int) - o.c1)).toNat
  if j1 ≤ j0 then [] else
  (List.range (i1 - i0)).map fun k =>
    let i := i0 + k
    let a := elemAddr l (boxCoord o i j0)
    let e := elemAddr l (boxCoord o i (j1 - 1)) + ((lWidth l + 7) / 8 : Nat)
    { i, j0, j1, va := a, n := (e - a).toNat }

/-- Address arithmetic leaves its bounds (R122). -/
def addrArithBad (l : Rec8) (segs : List Seg) : Bool :=
  (List.range 4).any (fun i => decide (1 ≤ i ∧ i < lNdim l ∧ (lStr l i * lExt l i).natAbs > 2 ^ 62))
  || segs.any fun g => decide (g.va < 0) || decide (g.va + g.n - ((lWidth l + 7) / 8 : Nat) ≥ (2 ^ 52 : Nat))

def segRanges (segs : List Seg) : List (Int × Nat) := segs.map fun g => (g.va, g.n)

/-! ## Element bits -/

/-- w bits of element j out of a run of bytes whose first byte is a byte boundary of the run (R113). -/
def bitsOf (w : Nat) (b : List Byte) (j : Nat) : Nat :=
  if w = 4 then (nth b (j / 2) 0).toNat >>> (4 * (j % 2)) % 16 else ofBytes ((b.drop (j * (w / 8))).take (w / 8))

/-- Elements packed into bytes (R113). -/
def packBits (w : Nat) (v : List Nat) : List Byte :=
  if w = 4 then (List.range ((v.length + 1) / 2)).map fun i => BitVec.ofNat 8 (nth v (2 * i) 0 % 16 + 16 * (nth v (2 * i + 1) 0 % 16))
  else v.flatMap fun x => toBytes (w / 8) x

/-- The bytes of an element in memory: first byte, count. -/
def elemBytes (l : Rec8) (c : Coord) : Nat × Nat := ((elemAddr l c).toNat, (lWidth l + 7) / 8)

/-- Bits of an in-extent element in memory. -/
def State.elemBits (s : State) (sn : Snap) (l : Rec8) (c : Coord) : Nat :=
  let (a, n) := elemBytes l c
  let v := ofBytes (s.rdV sn a n)
  if lWidth l = 4 then v >>> (if c.c0 % 2 = 0 then 0 else 4) % 16 else v

/-- Some byte of an element was not translated. -/
def Snap.lacks (sn : Snap) (a n : Nat) : Option Nat :=
  (pageStarts a n).find? fun v => !(sn.any fun e => e.1 = v / 65536)

/-- The byte cells that a write of one element makes; a nibble keeps its neighbour (R121). -/
def State.elemCells (s : State) (sn : Snap) (l : Rec8) (c : Coord) (v : Nat) : List (Nat × Byte) :=
  let (a, n) := elemBytes l c
  if lWidth l = 4 then
    let p := sn.place a
    let old := (s.mem.get p).toNat
    [(p, BitVec.ofNat 8 (if c.c0 % 2 = 0 then old / 16 * 16 + v % 16 else old % 16 + 16 * (v % 16)))]
  else (List.range n).map fun k => (sn.place (a + k), BitVec.ofNat 8 (v >>> (8 * k)))

/-! ## Tiles in the scratchpad -/

/-- The bytes of a tile's row as places: first, count (R115). -/
def tileRow (core : Nat) (w0 : W64) (i : Nat) : Nat × Nat := (spadPlace core (tBase w0 + i * tPitch w0), tRowBytes w0)

/-- Bits of tile element (i, j). -/
def State.tileBits (s : State) (core : Nat) (w0 : W64) (i j : Nat) : Nat :=
  let w := fmtBits (tFmt w0)
  let p := (tileRow core w0 i).1
  if w = 4 then (s.mem.get (p + j / 2)).toNat >>> (4 * (j % 2)) % 16 else s.rdN (p + j * (w / 8)) (w / 8)

/-- Tile element (i, j) holds an uncorrectable mark. -/
def State.tileMarked (s : State) (core : Nat) (w0 : W64) (i j : Nat) : Bool :=
  let w := fmtBits (tFmt w0)
  let p := (tileRow core w0 i).1
  if w = 4 then s.marked (p + j / 2) 1 else s.marked (p + j * (w / 8)) (w / 8)

/-- One row of a tile written whole. -/
def State.wrTileRow (s : State) (core : Nat) (w0 : W64) (i : Nat) (v : List Nat) : State :=
  s.wr (tileRow core w0 i).1 (packBits (fmtBits (tFmt w0)) v)

/-! ## Fills, releases and tests (R116-R118, R141) -/

/-- A fill of one definition of a tile: F rises; a clean fill clears the poison mark (R71, R116, R118). -/
def Core.fillTile (k : Core) (t : TileRef) (psn : Option (BitVec 8)) : Core :=
  let x := k.tile t.t.toNat
  if x.defd && x.gen = t.gen then
    k.setTile t.t.toNat { x with fill := x.fill + 1, psn := psn.isSome, idx := psn.getD 0xFF }
  else k

/-- A release of one definition of a tile: U rises (R116). -/
def Core.releaseTile (k : Core) (t : TileRef) : Core :=
  let x := k.tile t.t.toNat
  if x.defd && x.gen = t.gen then k.setTile t.t.toNat { x with use := x.use + 1 } else k

/-- The definition of a tile register, as an issued syllable keeps it. -/
def Core.tileRef (k : Core) (t : BitVec 6) : TileRef := ⟨t, (k.tile t.toNat).w0, (k.tile t.toNat).gen⟩

/-- A tile named by a syllable must be defined (R117). -/
def State.tileDefined (s : State) (t : BitVec 6) : Except State TileRef :=
  if (s.issue.pre.tile t.toNat).defd then .ok (s.issue.pre.tileRef t) else .error (s.schedFault 3)

/-- First and past-the-last byte of the in-extent elements with coordinates from lo up to, not including, hi (R139, R276). -/
def spanOf (l : Rec8) (lo hi : Coord) : Option (Int × Int) :=
  let cut := fun (i : Nat) (a b : Int) => (max a 0, min b (lTop l i : Int))
  let r0 := cut 0 lo.c0 hi.c0
  let r1 := cut 1 lo.c1 hi.c1
  let r2 := cut 2 lo.c2 hi.c2
  let r3 := cut 3 lo.c3 hi.c3
  if r0.2 ≤ r0.1 ∨ r1.2 ≤ r1.1 ∨ r2.2 ≤ r2.1 ∨ r3.2 ≤ r3.1 then none
  else
    let low := fun (st : Int) (r : Int × Int) => min (st * r.1) (st * (r.2 - 1))
    let high := fun (st : Int) (r : Int × Int) => max (st * r.1) (st * (r.2 - 1))
    some ((lBase l : Int) + r0.1 * lWidth l / 8 + low (lStr l 1) r1 + low (lStr l 2) r2 + low (lStr l 3) r3,
      (lBase l : Int) + (r0.2 - 1) * lWidth l / 8 + ((lWidth l + 7) / 8 : Nat)
        + high (lStr l 1) r1 + high (lStr l 2) r2 + high (lStr l 3) r3)

/-- Destination range [D, D + Len) of a channel command (R139, R276): scratchpad offsets of the core for a tile, else virtual
addresses. -/
def ChCmd.range (c : ChCmd) : Int × Nat :=
  match c.tile with
  | some t => (tBase t.w0, (tRows t.w0 - 1) * tPitch t.w0 + tRowBytes t.w0)
  | none =>
    match spanOf c.dst ⟨0, 0, 0, 0⟩ ⟨lTop c.dst 0, lTop c.dst 1, lTop c.dst 2, lTop c.dst 3⟩ with
    | some (lo, hi) => (lo, (hi - lo).toNat)
    | none => (lBase c.dst, 0)

/-- The part of the core's scratchpad that an active or halted channel has still to write: [from, to) (R141). -/
def Chan.unwritten (ch : Chan) : Option (Nat × Nat) :=
  if ch.state = .idle || !ch.dsp then none
  else match ch.cmd with
    | none => none
    | some c =>
      let (d, len) := c.range
      let o := (d % (2 ^ 21 : Nat)).toNat
      some (o + Nat.min (128 * ch.wmark) len, o + len)

/-- The lowest channel whose unwritten part overlaps rows [i0, i1) of a tile (R141). -/
def Core.chanOverlap (k : Core) (w0 : W64) (i0 i1 : Nat) : Option Nat :=
  (List.range 16).find? fun n =>
    match (vget k.chans n Chan.reset).unwritten with
    | none => false
    | some (lo, hi) => decide (lo < hi) && (List.range (i1 - i0)).any fun r =>
        let a := tBase w0 + (i0 + r) * tPitch w0
        decide (a < hi) && decide (lo < a + tRowBytes w0)

/-- The tests of a syllable that reads rows [i0, i1) of a tile (R117, R141). -/
def State.tileTestRows (s : State) (t : BitVec 6) (bidx i0 i1 : Nat) : Except State Tile :=
  let x := s.issue.pre.tile t.toNat
  let d := (x.fill - x.use).toNat
  if !x.defd then .error (s.schedFault 3)
  else if d = 0 then .error (s.waitOn 5 t.toNat bidx)
  else if 2 ≤ d ∧ d < 2 ^ 15 then .error (s.schedFault 1)
  else if 2 ^ 15 ≤ d then .error (s.schedFault 2)
  else match s.issue.pre.chanOverlap x.w0 i0 i1 with
    | some n => .error (s.waitOn 7 n bidx)
    | none => .ok x

/-- The tests over the whole tile. -/
def State.tileTest (s : State) (t : BitVec 6) (bidx : Nat) : Except State Tile :=
  s.tileTestRows t bidx 0 (tRows (s.issue.pre.tile t.toNat).w0)

/-- A poisoned tile traps at its first use (R73). -/
def State.tileClean (s : State) (x : Tile) : Except State Unit :=
  if x.psn then .error (s.poisonTrap x.idx.toNat) else .ok ()

/-! ## Origins -/

/-- MX origin on a block boundary (R258 cause 4). -/
def mxOriginOk (l : Rec8) (o : Coord) : Bool :=
  match lMxl l with
  | 1 => decide (o.c0 % 8 = 0) && decide (o.c1 % 8 = 0)
  | 2 => decide (o.c0 % 32 = 0)
  | _ => true

end Sys2Proof.Machine
end

