-- ==== Sys2Proof/Machine/Torus.lean ====
section
/-! DEFINITION. The torus (12 R380), the fields of a collective descriptor (12 R384), and the local ranges that a collective reads
and writes (12 R388-R392). -/

namespace Sys2Proof.Machine

/-- Extent and own coordinate of each dimension, x first (R31, R380). -/
def State.torus (s : State) : List (Nat × Nat) :=
  [(fld s.idDev 12 4 + 1, fld s.idDev 0 4), (fld s.idDev 16 4 + 1, fld s.idDev 4 4), (fld s.idDev 20 4 + 1, fld s.idDev 8 4)]

/-- The dimensions that DIMS names. -/
def State.lineDims (s : State) (dims : Nat) : List (Nat × Nat) :=
  (List.range 3).filterMap fun d => if (dims >>> d) % 2 = 1 then s.torus[d]? else none
/-- N, the number of participants. -/
def State.partCount (s : State) (dims : Nat) : Nat := (s.lineDims dims).foldl (fun n d => n * d.1) 1
/-- The index of this device among them. -/
def State.partIndex (s : State) (dims : Nat) : Nat := (s.lineDims dims).foldl (fun i d => i * d.1 + d.2) 0

/-! ## Descriptors (R384) -/

def cdFmt (d : Rec8) : Nat := fld d[0] 60 4
def cdOfmt (d : Rec8) : Nat := fld d[0] 56 4
def cdDims (d : Rec8) : Nat := fld d[0] 53 3
def cdSrc (d : Rec8) : Nat := fld d[0] 0 52
def cdDst (d : Rec8) : Nat := fld d[1] 0 52
def cdCount (d : Rec8) : Nat := fld d[2] 32 32
def cdTag (d : Rec8) : Nat := fld d[2] 0 32
def cdCsem (d : Rec8) : Nat := fld d[3] 0 52
def cdStat (d : Rec8) : Nat := fld d[4] 0 52
def cdMb (d : Rec8) : Nat := fld d[5] 48 16
def cdWin (d : Rec8) : Nat := fld d[5] 40 8
/-- Target coordinates, x first. -/
def cdTarget (d : Rec8) : List Nat := [fld d[5] 0 4, fld d[5] 4 4, fld d[5] 8 4]
def cdRoff (d : Rec8) : Nat := fld d[6] 0 48
def cdRsig (d : Rec8) : Bool := d[7].getLsbD 63
def cdRsoff (d : Rec8) : Nat := fld d[7] 0 48

/-- Bytes of the local source of sub value k. -/
def cdSrcLen (k : Nat) (d : Rec8) : Nat :=
  if k < 3 then cdiv (cdCount d * fmtBits (cdFmt d)) 8 else if k = 3 then cdCount d else 0
/-- Bytes that sub value k writes at DST on this device, for N participants. -/
def cdDstLen (k n : Nat) (d : Rec8) : Nat :=
  match k with
  | 0 => cdCount d / n * fmtBits (cdOfmt d) / 8
  | 2 => n * cdSrcLen 2 d
  | 4 => cdCount d
  | _ => 0

/-- The translation context of the I/O die (R481); it has no die of its own, so a replica vector's lowest valid word serves it. -/
def ioX (part : Nat) : XCtx := { core := none, part, unit := .io, die := 8, win := 0 }

/-- The pages of a range that translate now. -/
def State.peek (s : State) (x : XCtx) (p : Perm) (va n : Nat) : Snap :=
  (pageStarts va n).filterMap fun a => match s.pageOf x p a with
    | .ok (l, _, _) => some (a / 65536, l)
    | .error _ => none
/-- The pieces of a range whose pages are known. -/
def Snap.known (sn : Snap) (va n : Nat) : List (Nat × Nat) :=
  (pageStarts va n).filterMap fun a =>
    if sn.any fun e => e.1 = a / 65536 then some (sn.place a, Nat.min (va + n) ((a / 65536 + 1) * 65536) - a) else none

/-- The target of a CPUT or CGET is this device itself (R392). -/
def State.targetSelf (s : State) (x : Coll) : Bool :=
  (List.range 3).all fun d => decide ((nth s.torus d (1, 0)).2 = nth (cdTarget x.desc) d 0)

/-- Fabric context of a partition (R381, R439). -/
def State.fctx (s : State) (part : Nat) : Nat := fld (vget s.parts part .none0).w0 32 16

/-- The partition and base address of a window that grants [off, off + len); a bad entry is absent (R392, R442). -/
def State.window (s : State) (fctx win off len : Nat) (write : Bool) : Option (Nat × Nat) :=
  ((List.range 8).find? fun n => (vget s.parts n .none0).w0.getLsbD 63 && decide (s.fctx n = fctx)).bind fun n =>
    let w2 := (vget s.parts n .none0).w2
    let at' := fld w2 0 44 + 16 * win
    let e0 := s.rd64 at'
    let e1 := s.rd64 (at' + 8)
    if fld w2 55 9 ≤ win ∨ !e0.getLsbD 63 ∨ fld e0 52 9 ≠ 0 ∨ fld e1 48 16 ≠ 0 then none
    else if !e0.getLsbD (if write then 62 else 61) ∨ fld e1 0 48 < off + len then none
    else some (n, fld e0 0 52)

/-- The target bytes of a CPUT to this device itself: partition, first address, length. -/
def State.putDst (s : State) (c : Coll) : Option (Nat × Nat × Nat) :=
  if c.sub = 3 && s.targetSelf c then
    (s.window (s.fctx c.part) (cdWin c.desc) (cdRoff c.desc) (cdCount c.desc) true).map fun w =>
      (w.1, w.2 + cdRoff c.desc, cdCount c.desc)
  else none

/-- The local bytes that a collective reads: partition, first address, count. A CGET from this device itself reads in its own window (R392). -/
def State.collFrom (s : State) (c : Coll) : Nat × Nat × Nat :=
  if c.sub = 4 && s.targetSelf c then
    match s.window (s.fctx c.part) (cdWin c.desc) (cdRoff c.desc) (cdCount c.desc) false with
    | some w => (w.1, w.2 + cdRoff c.desc, cdCount c.desc)
    | none => (c.part, 0, 0)
  else (c.part, cdSrc c.desc, cdSrcLen c.sub.toNat c.desc)

/-- The pieces of the status word. -/
def Coll.statPieces (c : Coll) : List (Nat × Nat) := if cdStat c.desc = 0 then [] else c.snap.known (cdStat c.desc) 8

/-- The pieces of its destination that a collective under way still writes. -/
def State.collDst (s : State) (c : Coll) : List (Nat × Nat) :=
  match s.putDst c with
  | some (p, va, n) => (s.peek (ioX p) permW va n).known va n
  | none =>
  let n := cdDstLen c.sub.toNat (s.partCount (cdDims c.desc)) c.desc
  (s.peek (ioX c.part) permW (cdDst c.desc) n).known (cdDst c.desc) n

end Sys2Proof.Machine
end

