-- ==== Sys2Proof/Machine/Access.lean ====
section
/-! DEFINITION. Address arithmetic in A and S (08 R259, R260), the scalar loads, stores and PREF (R261-R266), and how an issued load
or store is performed (05 R147-R154, 04 R126): issue puts it into the order of its walker, LOAD_DATA_ARRIVAL and
STORE_PERFORMED perform the head of that order. -/

namespace Sys2Proof.Machine

/-! ## Address arithmetic (R259) -/

/-- AALU on two sources. -/
def aAlu (f : W64 → W64 → W64) (st : BitVec 2) (d a b : BitVec 6) (s : State) : Out :=
  done ((s.srcA st a).bind fun x => (s.srcA st b).map fun y => s.wrA d (f x y))
def execAadd (st : BitVec 2) (d a b : BitVec 6) (s : State) : Out := aAlu (fun x y => x + y) st d a b s
def execAsub (st : BitVec 2) (d a b : BitVec 6) (s : State) : Out := aAlu (fun x y => x - y) st d a b s
def execAand (st : BitVec 2) (d a b : BitVec 6) (s : State) : Out := aAlu (fun x y => x &&& y) st d a b s
def execAor (st : BitVec 2) (d a b : BitVec 6) (s : State) : Out := aAlu (fun x y => x ||| y) st d a b s
def execAxor (st : BitVec 2) (d a b : BitVec 6) (s : State) : Out := aAlu (fun x y => x ^^^ y) st d a b s
def execAandn (st : BitVec 2) (d a b : BitVec 6) (s : State) : Out := aAlu aluAndn st d a b s
def execAshl (st : BitVec 2) (d a b : BitVec 6) (s : State) : Out := aAlu aluShl st d a b s
def execAshr (st : BitVec 2) (d a b : BitVec 6) (s : State) : Out := aAlu aluShr st d a b s
def execAsra (st : BitVec 2) (d a b : BitVec 6) (s : State) : Out := aAlu aluSra st d a b s
def execAmin (st : BitVec 2) (d a b : BitVec 6) (s : State) : Out := aAlu aluMin st d a b s
def execAmax (st : BitVec 2) (d a b : BitVec 6) (s : State) : Out := aAlu aluMax st d a b s
def execAminu (st : BitVec 2) (d a b : BitVec 6) (s : State) : Out := aAlu aluMinu st d a b s
def execAmaxu (st : BitVec 2) (d a b : BitVec 6) (s : State) : Out := aAlu aluMaxu st d a b s
def execAaddw (st : BitVec 2) (d a b : BitVec 6) (s : State) : Out := aAlu aluAddw st d a b s
def execAsubw (st : BitVec 2) (d a b : BitVec 6) (s : State) : Out := aAlu aluSubw st d a b s
def execAclz (st : BitVec 2) (d a : BitVec 6) (s : State) : Out := done ((s.srcA st a).map fun x => s.wrA d (aluClz x))
def execAaddi (st : BitVec 2) (d a : BitVec 6) (i : BitVec 10) (s : State) : Out :=
  done ((s.srcA st a).map fun x => s.wrA d (x + immW (immVal i.toNat 10 true s.issue.exts)))
def execAli (_ : BitVec 2) (d : BitVec 6) (i : BitVec 16) (s : State) : Out :=
  .next (s.wrA d (immW (immVal i.toNat 16 true s.issue.exts)))
def execAmovk (st : BitVec 2) (d a b : BitVec 6) (h : BitVec 4) (s : State) : Out :=
  aAlu (fun x y => x + y <<< h.toNat) st d a b s
/-- AQPOP (R260). -/
def execAqpop (_ : BitVec 2) (d : BitVec 6) (w : BitVec 4) (s : State) : Out :=
  done ((s.popAQ w.toNat).map fun p => p.2.wrA d p.1)

/-- SALU on two sources, popped in field order (R255). -/
def sAlu (f : W64 → W64 → W64) (st : BitVec 2) (d a b : BitVec 6) (s : State) : Out :=
  done ((s.srcS st 0 a).bind fun x => (x.2.srcS st 0 b).map fun y => y.2.wrS d (f x.1 y.1))
def execSadd (st : BitVec 2) (d a b : BitVec 6) (s : State) : Out := sAlu (fun x y => x + y) st d a b s
def execSsub (st : BitVec 2) (d a b : BitVec 6) (s : State) : Out := sAlu (fun x y => x - y) st d a b s
def execSand (st : BitVec 2) (d a b : BitVec 6) (s : State) : Out := sAlu (fun x y => x &&& y) st d a b s
def execSor (st : BitVec 2) (d a b : BitVec 6) (s : State) : Out := sAlu (fun x y => x ||| y) st d a b s
def execSxor (st : BitVec 2) (d a b : BitVec 6) (s : State) : Out := sAlu (fun x y => x ^^^ y) st d a b s
def execSandn (st : BitVec 2) (d a b : BitVec 6) (s : State) : Out := sAlu aluAndn st d a b s
def execSshl (st : BitVec 2) (d a b : BitVec 6) (s : State) : Out := sAlu aluShl st d a b s
def execSshr (st : BitVec 2) (d a b : BitVec 6) (s : State) : Out := sAlu aluShr st d a b s
def execSsra (st : BitVec 2) (d a b : BitVec 6) (s : State) : Out := sAlu aluSra st d a b s
def execSmin (st : BitVec 2) (d a b : BitVec 6) (s : State) : Out := sAlu aluMin st d a b s
def execSmax (st : BitVec 2) (d a b : BitVec 6) (s : State) : Out := sAlu aluMax st d a b s
def execSminu (st : BitVec 2) (d a b : BitVec 6) (s : State) : Out := sAlu aluMinu st d a b s
def execSmaxu (st : BitVec 2) (d a b : BitVec 6) (s : State) : Out := sAlu aluMaxu st d a b s
def execSaddw (st : BitVec 2) (d a b : BitVec 6) (s : State) : Out := sAlu aluAddw st d a b s
def execSsubw (st : BitVec 2) (d a b : BitVec 6) (s : State) : Out := sAlu aluSubw st d a b s
def execSclz (st : BitVec 2) (d a : BitVec 6) (s : State) : Out := done ((s.srcS st 0 a).map fun x => x.2.wrS d (aluClz x.1))
def execSaddi (st : BitVec 2) (d a : BitVec 6) (i : BitVec 10) (s : State) : Out :=
  done ((s.srcS st 0 a).map fun x => x.2.wrS d (x.1 + immW (immVal i.toNat 10 true s.issue.exts)))
def execSli (_ : BitVec 2) (d : BitVec 6) (i : BitVec 16) (s : State) : Out :=
  .next (s.wrS d (immW (immVal i.toNat 16 true s.issue.exts)))
def execSmovk (st : BitVec 2) (d a b : BitVec 6) (h : BitVec 4) (s : State) : Out :=
  sAlu (fun x y => x + y <<< h.toNat) st d a b s

/-! ## Addresses (R185) -/

/-- Address of format MR: two registers, or one and a scaled immediate, exact. -/
def mrAddr (st : BitVec 2) (a b : BitVec 6) (z : BitVec 2) (c : BitVec 1) (s : State) : Except State Int :=
  (s.srcA st a).bind fun x =>
    if c = 1 then (s.srcA st b).map fun y => (x.toNat : Int) + y.toNat
    else .ok ((x.toNat : Int) + immVal b.toNat 6 true s.issue.exts * (2 ^ z.toNat : Nat))

/-! ## L1 (R126, R150) -/

def isTranslated (l : Nat) : Bool := decide (l < placeCarve)

/-- The core's own copies of the sectors of [l, l + n) are invalidated. -/
def Core.dropL1 (k : Core) (l n : Nat) : Core :=
  { k with l1 := k.l1.filter fun e => !(decide (e.1 * 32 < l + n) && decide (l < e.1 * 32 + 32)) }

/-- The core's own store updates its copies of the sectors it writes (R126, R150). -/
def Core.patchL1 (k : Core) (l : Nat) (b : List Byte) : Core :=
  { k with l1 := k.l1.map fun e =>
      (e.1, (List.range 32).map fun i =>
        let p := e.1 * 32 + i
        if l ≤ p ∧ p < l + b.length then nth b (p - l) 0 else nth e.2 i 0) }

/-- Core c holds the line of a place exclusively (R167). -/
def State.holdsExcl (s : State) (c l : Nat) : Bool := s.excl.any fun e => e.1 = lineOf l && e.2 = c

/-- A sector that core c's L1 holds while memory has changed since: it is still there, or has been replaced in the meantime (log 6). The
choice is free, and made once for the sector, so that no unit of R148 is torn. -/
def State.l1Sector (s : State) (c x : Nat) : State :=
  if s.holdsExcl c (x * 32) then s else
  match mapGet ((s.core c).l1.map fun e => (e.1, some e.2)) x none with
  | some sec =>
    if sec = s.rd (x * 32) 32 then s
    else
      let (b, s) := s.choose
      if b then s else s.setCore c ((s.core c).dropL1 (x * 32) 32)
  | none => s

/-- One byte of core c through its L1: a sector that it holds gives the byte as filled (R150). -/
def State.l1Byte (s : State) (c l : Nat) : Byte :=
  if s.holdsExcl c l then s.mem.get l else
  match mapGet ((s.core c).l1.map fun e => (e.1, some e.2)) (l / 32) none with
  | some sec => nth sec (l % 32) 0
  | none => s.mem.get l

/-- L1 holds 256 KiB in lines of 128 bytes, eight to a set (R2); which set takes a line is not given: its number modulo 256 (log 6). -/
def Core.l1Set (k : Core) (line : Nat) : List Nat :=
  ((k.l1.filter fun e => e.1 / 4 % 256 = line % 256).map fun e => e.1 / 4).eraseDups
/-- Room for a line: where its set is full a line of the set, by a free choice, is dropped (log 6). -/
def State.l1Room (s : State) (c line : Nat) : State :=
  let set := (s.core c).l1Set line
  if set.contains line || decide (set.length < 8) then s
  else
    let (b, s) := s.freeByte
    s.setCore c ((s.core c).dropL1 (nth set (b.toNat % set.length) 0 * 128) 128)

/-- The sectors of [l, l + n) that core c does not hold are filled from the home slice (R126); a marked sector is not kept, and a line
that another core holds exclusively is recalled first (R167). -/
def State.fillL1 (s : State) (c l n : Nat) : State :=
  (List.range ((l + n - 1) / 32 - l / 32 + 1)).foldl (fun s i =>
    let sec := l / 32 + i
    if s.holdsExcl c (sec * 32) || (s.core c).l1.any (fun e => e.1 = sec) || s.marked (sec * 32) 32 then s
    else
      let s := (s.recall (sec * 32) 32).l1Room c (sec / 4)
      s.setCore c { s.core c with l1 := mapPut (s.core c).l1 sec (s.rd (sec * 32) 32) }) s

/-- One piece of a load by core c: through L1 for a translated line (R126, R150), else at its point of coherence. -/
def State.loadPiece (s : State) (c : Nat) (p : Nat × Nat) : List Byte × State :=
  if !isTranslated p.1 then (s.rd p.1 p.2, s)
  else
    let s := (List.range ((p.1 + p.2 - 1) / 32 - p.1 / 32 + 1)).foldl (fun s i => s.l1Sector c (p.1 / 32 + i)) s
    ((List.range p.2).map fun i => s.l1Byte c (p.1 + i), s.fillL1 c p.1 p.2)

def State.loadPieces : List (Nat × Nat) → State → Nat → List Byte × State
  | [], s, _ => ([], s)
  | p :: r, s, c =>
    let (b, s) := s.loadPiece c p
    let (bs, s) := State.loadPieces r s c
    (b ++ bs, s)

/-- A tile load or AWAIT reads at the point of coherence and invalidates the core's own copies (R126). -/
def State.bypass (s : State) (c : Nat) (ps : List (Nat × Nat)) : State :=
  ps.foldl (fun s p => (s.setCore c ((s.core c).dropL1 p.1 p.2)).recall p.1 p.2) s

/-! ## Order (R151-R154, R158) -/

/-- Bundle w's release is complete at core k (R158): A and S have reached it, and every access issued before it is performed. -/
def Core.releaseDone (k : Core) (w : W64) : Bool :=
  !walkLt k.wA.walk w && !walkLt k.wS.walk w
  && !(k.loads.any fun l => walkLt l.walk w)
  && !(k.stores.any fun t => walkLt t.walk w && (match t.kind with | .semsig _ _ => false | _ => true))
  && !(k.chans.toList.any fun ch => ch.state != .idle && match ch.cmd with
      | some c => walkLt c.walk w
      | none => false)

/-- MARK lets the head of A's loads be performed (R154). -/
def Core.loadFree (k : Core) (l : LoadOp) : Bool := !(k.stores.any fun t => decide (t.epoch < l.epoch))
/-- MARK lets the head of S's stores be performed. -/
def Core.storeFree (k : Core) (t : StoreOp) : Bool := !(k.loads.any fun l => decide (l.epoch < t.epoch))

/-- Every walker that issues a load adds it to A's order. -/
def State.issueLoad (s : State) (kind : LoadKind) (sn : Snap) : State :=
  s.modCur fun k => { k with loads := k.loads ++ [{ kind, walk := s.walk, epoch := k.wA.marks, snap := sn, got := [], units := [] }] }
def State.issueStore (s : State) (kind : StoreKind) (sn : Snap) : State :=
  s.modCur fun k => { k with stores := k.stores ++ [{ kind, walk := s.walk, epoch := k.wS.marks, snap := sn, got := [], units := [] }] }

/-- The lines that an issuing store will write in a cantilever page are allocated, or it waits for room (R496). -/
def State.roomFor (s : State) (sn : Snap) (va n : Nat) : Except State State :=
  let unit := XlUnit.walker s.issue.core s.issue.w
  match s.cantTake (sn.pieces va n) (some unit) with
  | .ok s => .ok s
  | .error l =>
    let part := cantPart l
    let s := if s.waitedFor 22 then s else
      { s with issue := { s.issue with overs := s.issue.overs ++ [(part, s.hdie part (cantVa l) (some unit), BitVec.ofNat 52 (cantVa l))] } }
    .error (s.waitOn 22 0 0 (BitVec.ofNat 52 (cantVa l)))

/-! ## Units (R148, R155, R156) -/

/-- The 8-byte units of some pieces. -/
def unitsOf (ps : List (Nat × Nat)) : List Nat :=
  (ps.flatMap fun p => if p.2 = 0 then [] else (List.range ((p.1 + p.2 - 1) / 8 - p.1 / 8 + 1)).map fun i => p.1 / 8 + i).eraseDups

/-- The pieces cut to some units. -/
def clip (ps : List (Nat × Nat)) (us : List Nat) : List (Nat × Nat) :=
  ps.flatMap fun p => us.filterMap fun u =>
    let lo := Nat.max p.1 (8 * u)
    let hi := Nat.min (p.1 + p.2) (8 * u + 8)
    if lo < hi then some (lo, hi - lo) else none

/-- Some of a list, by a free choice for each. -/
def State.someOf (s : State) (us : List Nat) : List Nat × State :=
  ((List.range us.length).filterMap fun i => if Config.choice (s.freeCtr + i) then us[i]? else none, { s with freeCtr := s.freeCtr + us.length })

/-- Memory and marks as an access has read them: the units that it holds, and all else as it stands. -/
def State.over (s : State) (g : List Got) : State :=
  { s with mem := g.foldl (fun m (x : Got) => m.setN (8 * x.unit) x.bytes) s.mem,
           ue := g.foldl (fun u (x : Got) => if x.bad then setAdd u x.unit else u.erase x.unit) s.ue }

/-- State s with some units of the pieces, bytes and marks, as t has them. -/
def State.landUnits (s t : State) (ps : List (Nat × Nat)) (us : List Nat) : State :=
  { s with mem := (clip ps us).foldl (fun m p => m.setN p.1 (t.rd p.1 p.2)) s.mem,
           ue := us.foldl (fun u x => if t.ue.contains x then setAdd u x else u.erase x) s.ue }

/-! ## Adds and bank commands under way (R169, R173, R353) -/

/-- The head of S's order leaves; what waits for earlier stores waits for one fewer (R169, R346). -/
def Core.storePop (k : Core) : Core :=
  { k with stores := k.stores.tail, nm := k.nm.map (fun (n : NmOp) => { n with after := n.after - 1 }),
           bankQ := k.bankQ.map fun (b : BankCmd) => { b with after := b.after - 1 } }

/-- Ranges of a bank command as pieces. -/
def BankCmd.dstPieces (b : BankCmd) : List (Nat × Nat) := b.snap.pieces b.dst.toNat (1024 * b.lenk)
def BankCmd.srcPieces (b : BankCmd) : List (Nat × Nat) :=
  b.srcs.flatMap fun v => b.snap.pieces v.toNat (if b.op = 1 then 1024 else 1024 * b.lenk)

def inPieces (ps : List (Nat × Nat)) (l : Nat) : Bool := ps.any fun p => decide (p.1 ≤ l) && decide (l < p.1 + p.2)
def piecePlaces (ps : List (Nat × Nat)) : List Nat := ps.flatMap fun p => (List.range p.2).map fun i => p.1 + i

/-- Bytes at places become undefined (R18). -/
def State.undefine (s : State) (ls : List Nat) : State :=
  ls.foldl (fun s l => let (b, s) := s.freeByte; { s with mem := s.mem.set l b }) s

/-- Every bank command whose record has not been written. -/
def State.bankCmds (s : State) : List BankCmd := s.cores.toList.flatMap fun k => k.bankQ

/-- The places among some pieces that a bank command under way writes. -/
def State.bankHot (s : State) (ps : List (Nat × Nat)) : List Nat :=
  match s.bankCmds with
  | [] => []
  | bs => (piecePlaces ps).filter fun l => bs.any fun b => inPieces b.dstPieces l

/-- Who writes: an engine, or an access of a core with the walk count at which it was issued. -/
inductive Writer where
  | engine
  | store (core : Nat) (walk : W64)
  | load (core : Nat) (walk : W64)
  | chan (core ch : Nat) (walk : W64)
  deriving DecidableEq, Repr

/-- The access was issued before a collective of core k, whose release covers it (R158, R175). -/
def Writer.beforeColl (a : Writer) (k : Nat) (x : Coll) : Bool :=
  match a with
  | .engine => false
  | .store c w | .load c w | .chan c _ w => c == k && walkLt w x.walk

/-- The access was issued before a bank command of core k (R172, R173). -/
def Writer.beforeBank (a : Writer) (k : Nat) (b : BankCmd) : Bool :=
  match a with
  | .engine => false
  | .store c _ => c == k && b.after != 0
  | .load c _ => c == k && b.afterLd != 0
  | .chan c ch w => c == k && b.chans.contains (ch, w)

/-- Bytes of what collective x has read on this device that another agent has written become free in it. -/
def State.freeSource (s : State) (x : Coll) (n : Nat) (offs : List Nat) : Coll × State :=
  let own := s.partIndex (cdDims x.desc)
  let (f, s) := s.freeBytes n
  ({ x with data := x.data.map fun d =>
      if d.1 = own then (d.1, (List.range d.2.length).map fun j => if offs.contains j then nth f j 0 else nth d.2 j 0) else d }, s)

/-- The collectives under way: core and slot. -/
def State.collsAt (s : State) : List (Nat × Nat) :=
  (List.range 480).flatMap fun k => (List.range 8).filterMap fun i => if (vget (s.core k).colls i none).isSome then some (k, i) else none

/-- A write of bytes that a collective under way reads or writes: each byte involved is undefined, in memory, in what the collective has
read and in what it is to write; of one whose transfer has ended, the status word (R394). A write that its release covers is ordered before it
(R175). -/
def State.wroteColl (s : State) (a : Writer) (ps : List (Nat × Nat)) : State :=
  match s.collsAt with
  | [] => s
  | l => l.foldl (fun s e =>
    match vget (s.core e.1).colls e.2 none with
    | none => s
    | some x =>
      if a.beforeColl e.1 x then s
      else
        let (part, va, n) := s.collFrom x
        let sn := s.peek (ioX part) permR va n
        let offs := if x.code.isSome then [] else (List.range n).filter fun j =>
          (sn.any fun e => e.1 = (va + j) / 65536) && inPieces ps (sn.place (va + j))
        let dst := x.statPieces ++ if x.code.isSome then [] else s.collDst x
        let hit := (piecePlaces ps).filter fun l => inPieces dst l
        if offs = [] ∧ hit = [] then s
        else
          let (y, s) := if offs = [] then (x, s) else s.freeSource x n offs
          let s := s.modCore e.1 fun k => { k with colls := vset k.colls e.2 (some { y with raced := hit ++ y.raced }) }
          s.undefine (hit ++ offs.map fun j => sn.place (va + j))) s

/-- A write by core c of bytes that a bank command reads or writes leaves undefined values there and in the whole destination; an
access of the same core that is ordered before the command does not (R172, R173, R353). -/
def State.wroteBank (s : State) (early : Nat → BankCmd → Bool) (ps : List (Nat × Nat)) : State :=
  match s.bankCmds with
  | [] => s
  | _ => (List.range 480).foldl (fun s k =>
    let hit (b : BankCmd) : Bool := !early k b &&
      (piecePlaces ps).any fun l => inPieces b.dstPieces l || inPieces b.srcPieces l
    match (s.core k).bankQ.filter hit with
    | [] => s
    | bs =>
      let s := s.modCore k fun x => { x with bankQ := x.bankQ.map fun (b : BankCmd) => if hit b then { b with spoiled := true } else b }
      s.undefine (bs.flatMap fun b =>
        ((piecePlaces ps).filter fun l => inPieces b.srcPieces l) ++ piecePlaces b.dstPieces)) s

/-- Bytes of a transfer's buffer, and the pieces of it whose pages translate (R536). -/
def xferBuf (d : Rec8) : Nat := fld d[0] 0 52
def State.xferBytes (s : State) (x : Xfer) : Nat := fld x.desc[2] 0 21 * 2 ^ fld (vget s.stgt (fld x.desc[0] 58 4) 0) 48 8
def State.xferPieces (s : State) (part : Nat) (x : Xfer) : List (Nat × Nat) :=
  (s.peek (ioX part) permR (xferBuf x.desc) (s.xferBytes x)).known (xferBuf x.desc) (s.xferBytes x)

/-- A write by another agent to the buffer of a storage transfer under way leaves undefined bytes there (R537). -/
def State.wroteXfer (s : State) (ps : List (Nat × Nat)) : State :=
  (List.range s.xfers.length).foldl (fun s i =>
    match s.xfers[i]? with
    | none => s
    | some x =>
      let part := match s.ginsts.find? fun g => g.id = x.gi with
        | some g => g.part
        | none => 0
      let hit := (piecePlaces ps).filter fun l => inPieces (s.xferPieces part x) l
      if hit = [] then s
      else { s with xfers := listUpd s.xfers i fun x => { x with spoiled := hit ++ x.spoiled } }.undefine hit) s

/-- What a write does to the bank commands, collectives and storage transfers under way. -/
def State.wroteOver (s : State) (early : Nat → BankCmd → Bool) (a : Writer) (ps : List (Nat × Nat)) : State :=
  ((s.wroteBank early ps).wroteColl a ps).wroteXfer ps

/-- A write by an agent other than the base die of record `me`, if any, to a landing record in STATE 1 or 2 or to what it guards leaves undefined
bytes there, and the base die derives its values from them (R370, R373). The write is kept: a record is known by its first shard, and
what was written since it was armed shows then (log 85). -/
def State.wroteLand (s : State) (ps : List (Nat × Nat)) (me : Option (Nat × Nat) := none) : State :=
  let s := { s with writeLog := ps :: s.writeLog }
  match s.landOk.filter fun r => me ≠ some (r.part, r.addr) with
  | [] => s
  | rs => s.undefine ((piecePlaces ps).filter fun l => rs.any fun r => inPieces (r.guard ++ r.busy) l)

/-- What a write of a core or of another engine than a base die does besides. -/
def State.wrote (s : State) (a : Writer) (ps : List (Nat × Nat)) : State := (s.wroteOver a.beforeBank a ps).wroteLand ps

/-- NMADD i of core c is applied and leaves (R356); a marked word keeps its mark and is not changed (R511). -/
def State.applyNm (s : State) (c i : Nat) : State :=
  match (s.core c).nm[i]? with
  | none => s
  | some n =>
    let early := ((s.core c).bankQ.filter fun b => decide (i < b.afterNm)).map BankCmd.seq
    let s := if s.marked n.loc 4 then s.consumed c n.loc
      else ((s.wr n.loc (toBytes 4 (addF32 (BitVec.ofNat 32 (s.rdN n.loc 4)) n.v).toNat)).wroteOver
        (fun k b => k == c && early.contains b.seq) .engine [(n.loc, 4)]).wroteLand [(n.loc, 4)]
    s.modCore c fun k =>
      { k with nm := k.nm.eraseIdx i,
               bankQ := k.bankQ.map fun (b : BankCmd) => if i < b.afterNm then { b with afterNm := b.afterNm - 1 } else b }

/-- The accepted adds on the lines of some pieces: number of the acceptance, core, index. -/
def State.nmHits (s : State) (ps : List (Nat × Nat)) : List (Nat × Nat × Nat) :=
  (List.range 480).flatMap fun c =>
    (List.range (s.core c).nm.length).filterMap fun i =>
      match (s.core c).nm[i]? with
      | some n => match n.accepted with
        | some t => if ps.any fun p => (linesOf p).contains (lineOf n.loc) then some (t, c, i) else none
        | none => none
      | none => none

/-- The earliest of some adds by acceptance. -/
def firstHit : List (Nat × Nat × Nat) → Option (Nat × Nat)
  | [] => none
  | h :: r => some (r.foldl (fun (m : Nat × Nat × Nat) x => if x.1 < m.1 then x else m) h).2

/-- n adds on the lines of some pieces are applied, in the order of their acceptance. -/
def State.serveGo : Nat → State → List (Nat × Nat) → State
  | 0, s, _ => s
  | f + 1, s, ps =>
    match firstHit (s.nmHits ps) with
    | none => s
    | some (c, i) => State.serveGo f (s.applyNm c i) ps

/-- An access that reaches lines with accepted adds is served after them (R169). -/
def State.serve (s : State) (ps : List (Nat × Nat)) : State := State.serveGo (s.nmHits ps).length s ps

/-- A read by another access of bytes that a bank command writes returns undefined values there; memory keeps its own (R173, R353). -/
def State.reading (s : State) (ps : List (Nat × Nat)) (f : State → State) : State :=
  let s := s.serve ps
  let hot := s.bankHot ps
  if hot = [] then f s
  else
    let t := f (s.undefine hot)
    { t with mem := hot.foldl (fun m l => m.set l (s.mem.get l)) t.mem }

/-- What comes before an access to some pieces at their points of coherence: the adds that their lines have accepted (R169), and the recall of
lines that an L1 holds exclusively (R167). -/
def State.settled (s : State) (ps : List (Nat × Nat)) : State := ps.foldl (fun s p => s.recall p.1 p.2) (s.serve ps)

/-- Bytes of a range read at their points of coherence by an engine (R149); a bank command's hazard shows in them (R353). -/
def State.readBytes (s : State) (sn : Snap) (va n : Nat) : List Byte × State :=
  let ps := sn.pieces va n
  let s := s.settled ps
  let t := s.undefine (s.bankHot ps)
  (t.rdV sn va n, { s with freeCtr := t.freeCtr })

/-- Some units of the pieces, read at their points of coherence. -/
def State.readUnits (s : State) (ps : List (Nat × Nat)) (us : List Nat) : List Got × State :=
  let c := clip ps us
  let s := s.settled c
  let t := s.undefine (s.bankHot c)
  (us.map fun u => ⟨u, t.rd (8 * u) 8, s.marked (8 * u) 8⟩, { s with freeCtr := t.freeCtr })

/-! ## Wide accesses (R148, R155, R156) -/

/-- An access of several units: the pieces that it reads and writes, the units read that given units written derive from, and the units that it
has read and written so far. -/
structure Wide where
  reads : List (Nat × Nat)
  writes : List (Nat × Nat)
  needs : List Nat → List Nat
  got : List Got
  units : List Nat

/-- The parts of a wide access: `move` writes its pieces, in memory as it has read it; `note` keeps what it has read and written; `follow` is
what the bytes read and written in a step bring with them, beside the memory as read; `after` is the rest, in the last step, beside the memory as read. -/
structure Parts where
  move : State → State
  note : List Got → List Nat → State → State
  follow : State → List (Nat × Nat) → List (Nat × Nat) → State → State
  after : State → State → State

/-- A step of a wide access (R148): each unit is read once and written once. By a free choice the step reads and writes some of the units still
to come and no more, or it does the rest, and what else the access does follows. -/
def State.wide (s : State) (w : Wide) (f : Parts) : State :=
  let toRead := (unitsOf w.reads).filter fun u => !w.got.any fun g => g.unit = u
  let toWrite := (unitsOf w.writes).filter fun u => !w.units.contains u
  let (part, s) := if (unitsOf w.reads).length + (unitsOf w.writes).length ≤ 1 then (false, s) else s.choose
  let (now, s) := if part then s.someOf toWrite else (toWrite, s)
  let (early, s) := if part then s.someOf toRead else (toRead, s)
  let cap := if part then (early ++ (w.needs now).filter toRead.contains).eraseDups else early
  let out := clip w.writes now
  let (g, s) := (s.settled out).readUnits w.reads cap
  let got := w.got ++ g
  let o := s.over got
  let t := f.move o
  let s := f.follow o (clip w.reads cap) out { s.landUnits t w.writes now with freeCtr := t.freeCtr }
  if part then f.note got now s else f.after { o with freeCtr := s.freeCtr } s

/-! ## LD, LDS, PREF, ST -/

/-- Reserves the destination of a load: an LQ entry, or an a register that waits for its data (R262). -/
def reserveLoad (d : BitVec 6) (s : State) : Except State (Option (BitVec 5) × Nat × State) :=
  if d.toNat = 63 then s.reserveLQ.map fun p => (none, p.1, p.2)
  else .ok (some (d.setWidth 5), 0,
    if d = 0 then s else s.modCur fun k => { k with aPend := k.aPend ||| ((1 : W32) <<< d.toNat) })

/-- LD (R262). -/
def execLd (st : BitVec 2) (d a b : BitVec 6) (z : BitVec 2) (x c : BitVec 1) (s : State) : Out :=
  done ((mrAddr st a b z c s).bind fun va =>
    (s.access 2 permR va (2 ^ z.toNat)).bind fun r =>
      (reserveLoad d r.2).map fun q => q.2.2.issueLoad (.ld (BitVec.ofInt 52 va) z (x == 1) q.1 q.2.1 false) r.1)

/-- LDS (R263, R71): a fault becomes a record and a poisoned entry, in its place in A's order. -/
def execLds (st : BitVec 2) (a b : BitVec 6) (z : BitVec 2) (x c : BitVec 1) (s : State) : Out :=
  done ((mrAddr st a b z c s).bind fun va =>
    match s.reach (s.xctx 2) permR va (2 ^ z.toNat) with
    | .ok r => r.2.reserveLQ.map fun q => q.2.issueLoad (.ld (BitVec.ofInt 52 va) z (x == 1) none q.1 true) r.1
    | .error (.wait res v) => .error (s.accErr (.wait res v))
    | .error (.fail f) => s.reserveLQ.map fun q =>
        (q.2.consumedWalk s.issue.core f.ue).issueLoad (.deferred q.1 f.cause (BitVec.ofNat 52 f.va)) [])

/-- PREF (R265): faults only in the gang window; it allocates the four sectors of its line, or nothing visible. -/
def execPref (st : BitVec 2) (l : BitVec 1) (a b : BitVec 6) (z : BitVec 2) (c : BitVec 1) (s : State) : Out :=
  done ((mrAddr st a b z c s).bind fun va =>
    if 0 ≤ va ∧ va < (2 ^ 52 : Nat) ∧ spaceOf va.toNat = 2 then .error (s.accessFault (accFail 4 va.toNat))
    else if l = 1 then .ok s
    else match s.reach (s.xctx 0) permR (va / 128 * 128) 128 with
      | .error _ => .ok s
      | .ok r => .ok (((r.1.pieces (va / 128 * 128).toNat 128).foldl (fun s p => (s.recall p.1 p.2).fillL1 s.issue.core p.1 p.2) r.2)))

/-- ST (R264): a pops before d (R255). -/
def execSt (st : BitVec 2) (d a : BitVec 6) (w : BitVec 4) (z : BitVec 2) (o : BitVec 4) (s : State) : Out :=
  let n := 2 ^ z.toNat
  done ((s.srcS st w.toNat a).bind fun x =>
    (x.2.srcS st w.toNat d).bind fun v =>
      let va := (x.1.toNat : Int) + immVal o.toNat 4 true s.issue.exts * (n : Nat)
      (v.2.access 2 permW va n).bind fun r =>
        (r.2.roomFor r.1 va.toNat n).map fun s => s.issueStore (.st (BitVec.ofInt 52 va) n v.1) r.1)

/-! ## Performing LD and LDS (R262, R266) -/

/-- A loaded value extended under sx. -/
def extLoad (z : BitVec 2) (sx : Bool) (v : Nat) : W64 :=
  if sx then BitVec.ofInt 64 (toSigned (8 * 2 ^ z.toNat) v) else BitVec.ofNat 64 v

/-- Register r of core k waits for no further load. -/
def Core.unpend (k : Core) (r : Nat) : Core :=
  if k.loads.any fun l => match l.kind with
      | .ld _ _ _ (some d) _ _ => d.toNat = r
      | _ => false
  then k else { k with aPend := k.aPend &&& ~~~((1 : W32) <<< r) }

/-- Register r is loaded; or its load met uncorrectable data at an address (R256, R266). -/
def Core.loadA (k : Core) (r : Nat) (v : W64) : Core :=
  let k : Core := { k with a := vset k.a r v, aBad := k.aBad.filter fun e => e.1 ≠ r }
  k.unpend r
def Core.loadBad (k : Core) (r bad : Nat) : Core :=
  let k : Core := { k with aBad := (k.aBad.filter fun e => e.1 ≠ r) ++ [(r, BitVec.ofNat 52 bad)] }
  k.unpend r

/-- One unit of core c's load, through its L1 (R126, R150); a bank command's hazard shows in it (R353). -/
def State.ldUnit (s : State) (c : Nat) (ps : List (Nat × Nat)) (u : Nat) : Got × State :=
  let q := clip ps [u]
  let s := s.serve q
  if q.any fun p => s.marked p.1 p.2 then (⟨u, s.rd (8 * u) 8, true⟩, s)
  else
    let hot := s.bankHot q
    let (b, t) := State.loadPieces q (s.undefine hot) c
    let at' := piecePlaces q
    (⟨u, (List.range 8).map fun i => match findIdxN (fun l => decide (l = 8 * u + i)) at' 0 with
        | some k => nth b k 0
        | none => s.mem.get (8 * u + i), false⟩,
      { t with mem := hot.foldl (fun m l => m.set l (s.mem.get l)) t.mem })
def State.ldUnits (c : Nat) (ps : List (Nat × Nat)) : List Nat → State → List Got × State
  | [], s => ([], s)
  | u :: r, s =>
    let (g, s) := s.ldUnit c ps u
    let (gs, s) := State.ldUnits c ps r s
    (g :: gs, s)

/-- The data of an LD or LDS arrive at core c, o being memory as it has read it; the operation has left A's order. -/
def performLd (c : Nat) (op : LoadOp) (va : VA) (z : BitVec 2) (sx : Bool) (dst : Option (BitVec 5)) (tag : Nat) (o s : State) : State :=
  let n := 2 ^ z.toNat
  match o.markedV op.snap va.toNat n with
  | some l =>
    let bad := match (List.range n).find? fun i => o.marked (op.snap.place (va.toNat + i)) 1 with
      | some i => va.toNat + i
      | none => va.toNat
    let s := s.consumed c l
    s.modCore c fun k =>
      match dst with
      | none =>
        let (i, k) := k.defer 0x40 bad op.walk
        k.fillLQ tag (BitVec.ofNat 64 i) true false
      | some r => if r = 0 then k else k.loadBad r.toNat bad
  | none =>
    let v := extLoad z sx (ofBytes (o.rdV op.snap va.toNat n))
    s.modCore c fun k =>
      match dst with
      | none => k.fillLQ tag v false false
      | some r => if r = 0 then k else k.loadA r.toNat v

/-- Core c's own copies take the bytes that its store has just written (R126). -/
def State.patchOwn (s : State) (c : Nat) (ps : List (Nat × Nat)) : State :=
  s.modCore c fun k => ps.foldl (fun k p => k.patchL1 p.1 (s.rd p.1 p.2)) k

/-! ## Reading a layout record -/

/-- The layout record in a range that has been reached, read when a command issues (R119, R120, R258 cause 1). R511 does not name its readers: a
damaged record is read as its bytes stand, with no fault and no event (log 87). -/
def State.layoutAt (s : State) (sn : Snap) (va : Nat) : Except State (Rec8 × State) :=
  let (b, s) := s.readBytes sn va 64
  let l : Rec8 := vecOf 8 fun i => BitVec.ofNat 64 (ofBytes ((b.drop (8 * i)).take 8))
  if lMalformed l then .error (s.layoutFault 1) else .ok (l, s)

/-- The layout record of a tile transfer or a channel command. R112 and R129 name the ranges of these commands that the windows accept,
and not their records; a record in either window is accepted here (log 75). -/
def State.readLayout (s : State) (va : W64) : Except State (Rec8 × State) :=
  if va.toNat % 64 ≠ 0 then .error (s.layoutFault 1)
  else (s.access 2 permR va.toNat 64).bind fun (sn, s) => s.layoutAt sn va.toNat

end Sys2Proof.Machine
end

