-- ==== Sys2Proof/Machine/Tiles.lean ====
section
/-! DEFINITION. Tile transfers (08 R267-R273) and stash pushes (08 R290, 11 R377): what issue checks and reserves, and what the
performing of each command moves. -/

namespace Sys2Proof.Machine

/-! ## Common checks -/

/-- The checks of a tile load on its layout, tile and origin (R267, R258, R122). -/
def boxChecks (ref : TileRef) (l : Rec8) (o : Coord) (s : State) : Except State Unit :=
  if lMxl l = 2 ∨ tFmt ref.w0 ≠ lFmt l then .error (s.layoutFault 2)
  else if !mxOriginOk l o then .error (s.layoutFault 4)
  else if addrArithBad l (boxSegs l o (tRows ref.w0) (tCols ref.w0)) then .error s.addrFault
  else .ok ()

/-- Group of n members, tile and layout of a tile load, with the checks of R267 and R258. -/
def tileLoad (n : Nat) (st : BitVec 2) (t g : BitVec 6) (s : State) :
    Except State (List W64 × TileRef × Rec8 × Coord × State) :=
  (s.grpA st n g).bind fun m =>
    (s.tileDefined t).bind fun ref =>
      (s.readLayout (nth m 0 0)).bind fun r =>
        let o := originOf (nth m 1 0) (nth m 2 0)
        (boxChecks ref r.1 o r.2).map fun _ => (m, ref, r.1, o, r.2)

/-- The in-extent runs of a box over a tile. -/
def tileSegs (l : Rec8) (o : Coord) (w0 : W64) : List Seg := boxSegs l o (tRows w0) (tCols w0)

def Box.of (l : Rec8) (m : List W64) : Box := ⟨l, nth m 1 0, nth m 2 0⟩
def Box.origin (b : Box) : Coord := originOf b.o01 b.o23

/-! ## TLD, TLDP, TLDS, TLDSC at issue -/

/-- TLD (R269). -/
def execTld (st : BitVec 2) (t g : BitVec 6) (s : State) : Out :=
  done ((tileLoad 3 st t g s).bind fun (m, ref, l, o, s) =>
    (s.accessAll 2 permR (segRanges (tileSegs l o ref.w0))).map fun r =>
      r.2.issueLoad (.tld (Box.of l m) ref false []) r.1)

/-- The destination rows of TLDP lie in the gang window (R269, R111). -/
def peerRows (dst : W64) (w0 : W64) (s : State) : Except State (Snap × State) :=
  if dst.toNat % 64 ≠ 0 then .error (s.layoutFault 5)
  else if dst.toNat / 2 ^ 48 ≠ 0xF then .error (s.accessFault (accFail 4 (dst.toNat % 2 ^ 52)))
  else s.accessAll 2 permW ((List.range (tRows w0)).map fun i => (((dst.toNat + i * tPitch w0 : Nat) : Int), tRowBytes w0))

/-- TLDP (R269). R112 names TLDP for its destination alone; a source box in the gang window is reached as that of a TLD is (log 88). -/
def execTldp (st : BitVec 2) (t g : BitVec 6) (s : State) : Out :=
  done ((tileLoad 4 st t g s).bind fun (m, ref, l, o, s) =>
    (peerRows (nth m 3 0) ref.w0 s).bind fun p =>
      (p.2.accessAll 2 permR (segRanges (tileSegs l o ref.w0))).map fun r =>
        r.2.issueLoad (.tldp (Box.of l m) ref (BitVec.ofNat 52 (nth m 3 0).toNat)) (p.1 ++ r.1))

/-- The runs of a box cut at pages: first byte, count. -/
def segPages (segs : List Seg) : List (Nat × Nat) :=
  segs.flatMap fun g => (pageStarts g.va.toNat g.n).map fun a =>
    (a, Nat.min (g.va.toNat + g.n) ((a / 65536 + 1) * 65536) - a)

/-- The pages of a speculative tile load: those reached, and those that fail with their cause (R270). -/
def State.specPages : List (Nat × Nat) → State → XCtx → Snap → List (Nat × Nat) → Except AccErr (Snap × List (Nat × Nat) × State)
  | [], s, _, sn, bad => .ok (sn, bad, s)
  | (a, n) :: r, s, x, sn, bad =>
    if sn.any (fun e => e.1 = a / 65536) || bad.any (fun e => e.1 = a / 65536) then State.specPages r s x sn bad
    else match s.reach x permR a n with
      | .ok (p, s) => State.specPages r s x (sn ++ p) bad
      | .error (.fail f) => State.specPages r (s.consumedWalk s.issue.core f.ue) x sn (bad ++ [(a / 65536, f.cause)])
      | .error (.wait res v) => .error (.wait res v)

/-- The layout record of a TLDS: a record that may not be read or is damaged is no fault of the command, but its cause and address
for every element (R270, log 27). -/
def specLayout (va : W64) (s : State) : Except State (Except (Nat × Nat) Rec8 × State) :=
  if va.toNat % 64 ≠ 0 then .error (s.layoutFault 1)
  else match s.reach (s.xctx 2) permR va.toNat 64 with
    | .error (.wait res v) => .error (s.accErr (.wait res v))
    | .error (.fail f) => .ok (.error (f.cause, f.va), s.consumedWalk s.issue.core f.ue)
    | .ok (sn, s) =>
      match (List.range 64).find? fun i => s.marked (sn.place (va.toNat + i)) 1 with
      | some i => .ok (.error (0x40, va.toNat + i), s.consumed s.issue.core (sn.place (va.toNat + i)))
      | none => (s.layoutAt sn va.toNat).map fun r => (.ok r.1, r.2)

/-- TLDS (R270): an element that may not be reached is left to the fill; a box that does not lie in one range of R108 fails whole. -/
def execTlds (st : BitVec 2) (t g : BitVec 6) (s : State) : Out :=
  done ((s.grpA st 3 g).bind fun m =>
    (s.tileDefined t).bind fun ref =>
      (specLayout (nth m 0 0) s).bind fun r =>
        match r.1 with
        | .error e => .ok (r.2.issueLoad (.tlost ref e.1 (BitVec.ofNat 52 e.2)) [])
        | .ok l =>
          let o := originOf (nth m 1 0) (nth m 2 0)
          (boxChecks ref l o r.2).bind fun _ =>
            let segs := tileSegs l o ref.w0
            if (spansRanges (segRanges segs)).isSome then
              .ok (r.2.issueLoad (.tld (Box.of l m) ref true ((segPages segs).map fun a => (a.1 / 65536, 4))) [])
            else match State.specPages (segPages segs) r.2 (r.2.xctx 2) [] [] with
              | .error e => .error (r.2.accErr e)
              | .ok (sn, bad, s) => .ok (s.issueLoad (.tld (Box.of l m) ref true bad) sn))

/-- Blocks of a TLDSC's box in canonical rows and columns (R124, R271). -/
def scaleShape (l : Rec8) (w0 : W64) : Nat × Nat :=
  if lCanon l = 0 then (cdiv (tRows w0) 8, cdiv (tCols w0) 8) else (cdiv (tCols w0) 8, cdiv (tRows w0) 8)

/-- The blocks of row bi of a TLDSC's box that meet the extent: columns [lo, hi), and the address of the first code. -/
def scaleRun (l : Rec8) (o : Coord) (nbc bi : Nat) : Nat × Nat × Int :=
  let (rb, cb) := if lCanon l = 0 then (o.c1 / 8, o.c0 / 8) else (o.c0 / 8, o.c1 / 8)
  let (rows, cols) := if lCanon l = 0 then (lTop l 1, lTop l 0) else (lTop l 0, lTop l 1)
  let lo := (max 0 (-cb)).toNat
  let hi := (min (nbc : Int) ((cdiv cols 8 : Nat) - cb)).toNat
  let b := rb + bi
  if o.c2 = 0 ∧ o.c3 = 0 ∧ 0 ≤ b ∧ 8 * b < rows ∧ lo < hi then (lo, hi, (lSbase l : Int) + b * lSstr l + cb + lo) else (0, 0, 0)

/-- TLDSC (R271, R325). -/
def execTldsc (st : BitVec 2) (t g : BitVec 6) (s : State) : Out :=
  done ((s.grpA st 3 g).bind fun m =>
    (s.tileDefined t).bind fun ref =>
      (s.readLayout (nth m 0 0)).bind fun (l, s) =>
        let o := originOf (nth m 1 0) (nth m 2 0)
        let (nbr, nbc) := scaleShape l ref.w0
        let pending := s.cur.loads.countP fun x => match x.kind with
          | .tldsc _ _ => true
          | _ => false
        let rs := (List.range nbr).map fun bi => scaleRun l o nbc bi
        let far (x : Nat × Nat × Int) : Bool :=
          decide (x.1 < x.2.1) && (decide (x.2.2 < 0) || decide (x.2.2 + (x.2.1 - x.1 : Nat) > (2 ^ 52 : Nat)))
        if lMxl l ≠ 1 then .error (s.layoutFault 2)
        else (boxChecks ref l o s).bind fun _ =>
        if rs.any far then .error s.addrFault
        else if nbr * nbc > 4096 then .error (s.layoutFault 5)
        else if s.cur.mat.scaleQ.length + pending ≥ 4 then .error (s.waitOn 16 0 0)
        else
          (s.accessAll 2 permR (rs.map fun x => (x.2.2, x.2.1 - x.1))).map fun r =>
            r.2.issueLoad (.tldsc (Box.of l m) ref) r.1)

/-! ## Performing tile loads -/

/-- One element of a tile load: its bits, and why it failed with its first failing byte (R266, R270). -/
def State.tldElem (s : State) (sn : Snap) (l : Rec8) (o : Coord) (fails : List (Nat × Nat)) (i j : Nat) :
    Nat × Option (Nat × Nat) :=
  let c := boxCoord o i j
  if !c.inExtent l then (padBits l, none)
  else
    let (a, n) := elemBytes l c
    match (pageStarts a n).findSome? fun v => (fails.find? fun e => e.1 = v / 65536).map fun e => (e.2, v) with
      | some e => (0, some e)
      | none =>
        match (List.range n).find? fun k => s.marked (sn.place (a + k)) 1 with
        | some k => (0, some (0x40, a + k))
        | none => (s.elemBits sn l c, none)

/-- The elements of a box over a tile, row by row. -/
def State.tldRows (s : State) (sn : Snap) (b : Box) (w0 : W64) (fails : List (Nat × Nat)) : List (List (Nat × Option (Nat × Nat))) :=
  (List.range (tRows w0)).map fun i => (List.range (tCols w0)).map fun j => s.tldElem sn b.lay b.origin fails i j

/-- The pieces of a box that were reached. -/
def boxPieces (sn : Snap) (b : Box) (w0 : W64) : List (Nat × Nat) :=
  (segPages (tileSegs b.lay b.origin w0)).filterMap fun p =>
    if sn.any fun e => e.1 = p.1 / 65536 then some (sn.place p.1, p.2) else none

/-- Core c reports the uncorrectable data that a tile load met (R511). -/
def State.tldConsumed (s : State) (c : Nat) (sn : Snap) (rows : List (List (Nat × Option (Nat × Nat)))) : State :=
  match rows.flatten.findSome? fun e => e.2.bind fun f => if f.1 = 0x40 then some f.2 else none with
  | some va => s.consumed c (sn.place va)
  | none => s

/-- Where the bytes of the elements of a tile box lie: in the tile, row i beginning at the place `row i 0`, and in memory, element (i, j) at the
box coordinate `f i j`. -/
def tilePairs (row : Nat → Nat → Nat) (sn : Snap) (l : Rec8) (w0 : W64) (f : Nat → Nat → Coord) : List (Nat × Nat) :=
  (List.range (tRows w0)).flatMap fun i => (List.range (tCols w0)).flatMap fun j =>
    if !(f i j).inExtent l then [] else
    let (a, n) := elemBytes l (f i j)
    (List.range n).map fun k => (row i (j * fmtBits (tFmt w0) / 8 + k), sn.place (a + k))
/-- The place of a byte of a tile row of core c. -/
def rowByte (c : Nat) (w0 : W64) (i o : Nat) : Nat := (tileRow c w0 i).1 + o

/-- The units of memory that the given units of the tile derive from, and the other way about. -/
def needsMem (ps : List (Nat × Nat)) (us : List Nat) : List Nat := ((ps.filter fun p => us.contains (p.1 / 8)).map fun p => p.2 / 8).eraseDups
def needsTile (ps : List (Nat × Nat)) (us : List Nat) : List Nat := ((ps.filter fun p => us.contains (p.2 / 8)).map fun p => p.1 / 8).eraseDups

/-- The rows that a tile load writes into its tile (R269, R270). -/
def moveTld (c : Nat) (op : LoadOp) (b : Box) (t : TileRef) (fails : List (Nat × Nat)) (s : State) : State :=
  let rows := s.tldRows op.snap b t.w0 fails
  (List.range (tRows t.w0)).foldl (fun s i => s.wrTileRow c t.w0 i ((nth rows i []).map Prod.fst)) s

/-- A TLD or TLDS has written its rows from memory o: the tile is filled, poisoned if an element failed, with one record (R266, R269, R270). -/
def endTld (c : Nat) (op : LoadOp) (b : Box) (t : TileRef) (fails : List (Nat × Nat)) (o s : State) : State :=
  let rows := o.tldRows op.snap b t.w0 fails
  (s.tldConsumed c op.snap rows).modCore c fun k =>
    match rows.flatten.findSome? Prod.snd with
    | some (code, va) =>
      let (i, k) := k.defer code va op.walk
      k.fillTile t (some (BitVec.ofNat 8 i))
    | none => k.fillTile t none

/-- A TLDS whose layout record could not be read: every element is zero, and the tile is poisoned (R270). -/
def moveTlost (c : Nat) (t : TileRef) (s : State) : State :=
  (List.range (tRows t.w0)).foldl (fun s i => s.wrTileRow c t.w0 i (List.replicate (tCols t.w0) 0)) s
def endTlost (c : Nat) (op : LoadOp) (t : TileRef) (cause : Nat) (va : VA) (s : State) : State :=
  s.modCore c fun k =>
    let (i, k) := k.defer cause va.toNat op.walk
    k.fillTile t (some (BitVec.ofNat 8 i))

/-- The rows that a TLDP writes into the peer's scratchpad; no tile is filled (R269). -/
def moveTldp (op : LoadOp) (b : Box) (t : TileRef) (dst : VA) (s : State) : State :=
  let rows := s.tldRows op.snap b t.w0 []
  (List.range (tRows t.w0)).foldl (fun s i =>
    State.wrV s (op.snap.pieces (dst.toNat + i * tPitch t.w0) (tRowBytes t.w0))
      (packBits (fmtBits (tFmt t.w0)) ((nth rows i []).map Prod.fst))) s

/-- Codes of one block row of a TLDSC's box, each with its place when it is read from memory. -/
def State.scaleRow (s : State) (sn : Snap) (l : Rec8) (o : Coord) (nbc bi : Nat) : List (Byte × Option Nat) :=
  let (lo, hi, a) := scaleRun l o nbc bi
  (List.range nbc).map fun j =>
    if lo ≤ j ∧ j < hi then
      let p := sn.place (a.toNat + (j - lo))
      (s.mem.get p, some p)
    else (127, none)

/-- The pieces of codes that a TLDSC reads. -/
def scalePieces (sn : Snap) (b : Box) (w0 : W64) : List (Nat × Nat) :=
  let (nbr, nbc) := scaleShape b.lay w0
  (List.range nbr).flatMap fun bi =>
    let (lo, hi, a) := scaleRun b.lay b.origin nbc bi
    sn.pieces a.toNat (hi - lo)

/-- A TLDSC has read its codes, o being memory as it has read it: its entry becomes visible to X (R271, R325). -/
def endTldsc (c : Nat) (op : LoadOp) (b : Box) (t : TileRef) (o s : State) : State :=
  let (nbr, nbc) := scaleShape b.lay t.w0
  let e := (List.range nbr).flatMap fun bi => o.scaleRow op.snap b.lay b.origin nbc bi
  let bad := (List.range e.length).filter fun i =>
    match (nth e i (127, none)).2 with
    | some p => o.marked p 1
    | none => false
  let s := match bad.head?.bind fun i => (nth e i (127, none)).2 with
    | some p => s.consumed c p
    | none => s
  s.modCore c fun k => { k with mat := { k.mat with scaleQ := k.mat.scaleQ ++ [⟨nbr, nbc, e.map Prod.fst, bad⟩] } }

/-! ## TST and TSCAT at issue -/

/-- Group, tile and layout of a tile store, with the checks of R267, R272 and R73. -/
def tileStore (n : Nat) (st : BitVec 2) (t g : BitVec 6) (w : BitVec 4) (s : State) :
    Except State (List W64 × TileRef × Rec8 × State) :=
  (s.grpS st n g).bind fun m =>
    (s.tileTest t w.toNat).bind fun x =>
      (s.tileClean x).bind fun _ =>
        (s.readLayout (nth m 0 0)).bind fun r =>
          if lMxl r.1 ≠ 0 ∨ tFmt x.w0 ≠ lFmt r.1 then .error (r.2.layoutFault 2)
          else .ok (m, s.issue.pre.tileRef t, r.1, r.2)

/-- The runs that a store writes are reachable, and their cantilever lines have room (R496). -/
def storeSegs (l : Rec8) (segs : List Seg) (s : State) : Except State (Snap × State) :=
  if addrArithBad l segs then .error s.addrFault
  else (s.accessAll 2 permW (segRanges segs)).bind fun r =>
    segs.foldlM (fun (q : Snap × State) g => (q.2.roomFor r.1 g.va.toNat g.n).map fun s => (r.1, s)) r

/-- TST (R272). -/
def execTst (st : BitVec 2) (t g : BitVec 6) (w : BitVec 4) (rel : BitVec 1) (s : State) : Out :=
  done ((tileStore 3 st t g w s).bind fun (m, ref, l, s) =>
    (storeSegs l (tileSegs l (originOf (nth m 1 0) (nth m 2 0)) ref.w0) s).map fun r =>
      r.2.issueStore (.tst (Box.of l m) ref (rel == 1)) r.1)

/-- The runs of a TSCAT: tile row i goes to tensor row x(i) (R273). A one-dimensional layout has EXT1 = 0 (R120), and [0, EXT1) would hold no row:
row 0 is in extent here, as an unused dimension is in R267 (log 89). -/
def scatSegs (l : Rec8) (o : Coord) (w0 : W64) (ix : List W32) : List Seg :=
  (List.range (tRows w0)).flatMap fun i =>
    (boxSegs l { o with c1 := (nth ix i 0).toInt } 1 (tCols w0)).map fun g => { g with i := i }

/-- TSCAT (R273): the index list is read at issue, as its bytes stand, marked or not, since R511 does not name it (log 87). -/
def execTscat (st : BitVec 2) (t g : BitVec 6) (w : BitVec 4) (rel : BitVec 1) (s : State) : Out :=
  done ((tileStore 4 st t g w s).bind fun (m, ref, l, s) =>
    let x := (nth m 3 0).toNat
    if x % 4 ≠ 0 ∨ x + 4 * tRows ref.w0 > spadSize then .error (s.layoutFault 5)
    else
      let ix : List W32 := (List.range (tRows ref.w0)).map fun i =>
        BitVec.ofNat 32 (s.rdN (spadPlace s.issue.core (x + 4 * i)) 4)
      (storeSegs l (scatSegs l (originOf (nth m 1 0) (nth m 2 0)) ref.w0 ix) s).map fun r =>
        r.2.issueStore (.tscat (Box.of l m) ref (rel == 1) ix) r.1)

/-! ## Performing tile stores -/

/-- The core's own copies of the lines of a piece go, whole (R126). -/
def Core.dropLines (k : Core) (l n : Nat) : Core := k.dropL1 (l / 128 * 128) (cdiv (l % 128 + n) 128 * 128)

/-- One run of tile row i written to memory: elements [j0, j1) of the box row at origin o. A nibble keeps its neighbour, and a
unit written only in part keeps its mark; the marks of the tile's units travel with their elements (R121, R511). -/
def State.storeRun (s : State) (c : Nat) (sn : Snap) (l : Rec8) (w0 : W64) (o : Coord) (i : Nat) (g : Seg) : State :=
  let js := (List.range (g.j1 - g.j0)).map fun k => g.j0 + k
  let built := js.foldl (fun (b : State) j =>
    { b with mem := (b.elemCells sn l (boxCoord o 0 j) (s.tileBits c w0 i j)).foldl (fun m e => m.set e.1 e.2) b.mem }) s
  let halves := if lWidth l ≠ 4 then [] else
    (if (o.c0 + g.j0) % 2 = 1 then [sn.place g.va.toNat] else [])
    ++ (if (o.c0 + g.j1) % 2 = 1 then [sn.place (g.va.toNat + g.n - 1)] else [])
  let keep := (halves.filter fun p => s.marked p 1)
    ++ js.flatMap fun j => if s.tileMarked c w0 i j then
        let (a, n) := elemBytes l (boxCoord o 0 j)
        (List.range n).map fun k => sn.place (a + k)
      else []
  let s := (sn.pieces g.va.toNat g.n).foldl (fun s p => s.wr p.1 (built.rd p.1 p.2)) s
  keep.foldl (fun s p => s.mark p) s

/-- The rows of a tile as a store writes them: row i at the box row of origin rowAt i; halo elements are left out. -/
def State.storeRows (s : State) (c : Nat) (sn : Snap) (l : Rec8) (w0 : W64) (rowAt : Nat → Coord) : State :=
  (List.range (tRows w0)).foldl (fun s i =>
    (boxSegs l (rowAt i) 1 (tCols w0)).foldl (fun s g => s.storeRun c sn l w0 (rowAt i) i g) s) s

/-- What TST and TSCAT write: every in-extent element of the tile, row i at the box row of origin `rowAt i`; of equal indices of a TSCAT the
highest row prevails (R272, R273). -/
def tstRow (b : Box) (i : Nat) : Coord := { b.origin with c1 := b.origin.c1 + i }
def tscatRow (b : Box) (ix : List W32) (i : Nat) : Coord := { b.origin with c1 := (nth ix i 0).toInt }

/-! ## Stash rings (R290, R377) -/

/-- A stash-ring header as eight words, checked (R377), with its translation; it must be writable. A damaged header is read as its bytes stand
(log 87). -/
def stashHeader (h : W64) (s : State) : Except State (Rec8 × Snap × State) :=
  let va := h.toNat
  if va < 2 ^ 52 ∧ spaceOf va ≠ 0 then .error (s.accessFault (accFail 4 va))
  else if va % 64 ≠ 0 then .error (s.accessFault (accFail 5 (va % 2 ^ 52)))
  else (s.access 0 permRW va 64).bind fun r =>
    let (b, s) := r.2.readBytes r.1 va 64
    let d : Rec8 := vecOf 8 fun i => BitVec.ofNat 64 (ofBytes ((b.drop (8 * i)).take 8))
    if fld d[0] 52 12 ≠ 0 ∨ fld d[0] 0 6 ≠ 0 ∨ fld d[1] 0 32 = 0 ∨ fld d[1] 32 32 = 0 ∨ fld d[1] 32 6 ≠ 0
        ∨ d[4] ≠ 0 ∨ d[5] ≠ 0 ∨ d[6] ≠ 0 ∨ d[7] ≠ 0 then .error (s.layoutFault 5)
    else .ok (d, r.1, s)

/-- A word of a stash ring's header written at issue, at its home slice: bank commands, collectives and transfers under way are told (R353, R394,
R537), and a landing record that it lies in (R370). -/
def State.stashWord (s : State) (l : Nat) (v : W64) : State := (s.wr64 l v).wrote .engine [(l, 8)]

/-- The slots of a stash ring reach out of translated space (R377). -/
def stashOut (d : Rec8) : Bool := decide (0xE * 2 ^ 48 < fld d[0] 0 52 + fld d[1] 0 32 * fld d[1] 32 32)

/-- STASH (R290): the slot is reserved at issue, at the header's home slice; the data write is a store of S. -/
def execStash (st : BitVec 2) (t h : BitVec 6) (w : BitVec 4) (rel : BitVec 1) (s : State) : Out :=
  done ((s.srcS st w.toNat h).bind fun a =>
    (a.2.tileTest t w.toNat).bind fun x =>
      (a.2.tileClean x).bind fun _ =>
        (stashHeader a.1 a.2).bind fun (d, sn, s) =>
          let base := fld d[0] 0 52
          let nslot := fld d[1] 0 32
          let slotb := fld d[1] 32 32
          let n := tRows x.w0 * tRowBytes x.w0
          let va := base + d[3].toNat % nslot * slotb
          if slotb < n then .error (s.layoutFault 5)
          else if stashOut d then .error (s.accessFault (accFail 4 base))
          else (s.access 0 permW va n).bind fun r =>
            if (d[3] - d[2]).toNat ≥ nslot then .error (r.2.waitOn 11 0 w.toNat)
            else (r.2.roomFor r.1 va n).map fun s =>
              (s.stashWord (sn.place (a.1.toNat + 24)) (d[3] + 1)).issueStore
                (.stash (BitVec.ofNat 52 va) (s.issue.pre.tileRef t) (rel == 1)) r.1)

/-- STASHDROP (R290). -/
def execStashdrop (st : BitVec 2) (h : BitVec 6) (s : State) : Out :=
  done ((s.srcS st 0 h).bind fun a =>
    (stashHeader a.1 a.2).bind fun (d, sn, s) =>
      if stashOut d then .error (s.accessFault (accFail 4 (fld d[0] 0 52)))
      else .ok (if d[2] = d[3] then s else s.stashWord (sn.place (a.1.toNat + 16)) (d[2] + 1)))

/-- The data write of a STASH: the tile's rows, packed (R290); marks travel (R511). -/
def moveStash (c : Nat) (op : StoreOp) (va : VA) (t : TileRef) (s : State) : State :=
  let n := tRowBytes t.w0
  (List.range (tRows t.w0)).foldl (fun s i =>
    let (p, _) := tileRow c t.w0 i
    let mk := (List.range n).filter fun k => s.marked (p + k) 1
    let s := State.wrV s (op.snap.pieces (va.toNat + i * n) n) (s.rd p n)
    mk.foldl (fun s k => s.mark (op.snap.place (va.toNat + i * n + k))) s) s

end Sys2Proof.Machine
end

