-- ==== Sys2Proof/Machine/Channels.lean ====
section
/-! DEFINITION. Copy channels (04 R139-R143, 08 R274-R279): TCOPY, TGATH and TXP at issue, and the steps of a channel: a granule
written, a command complete, a halt. Each granule reads its source, converts it and writes its part of the destination box. -/

namespace Sys2Proof.Machine

/-! ## Formats (R277) -/

/-- The floating-point format of a format code (R113). -/
def fmtF (f : Nat) : Option FpF :=
  match f with
  | 0 => some .fp32 | 1 => some .bf16 | 2 => some .fp16 | 3 => some .e4m3 | 4 => some .e5m2 | 5 => some .e2m1 | _ => none

/-- The value of element bits in a format. -/
def fmtVal (f bits : Nat) : Val :=
  match fmtF f with
  | some F => decodeF F bits
  | none => .nan

/-- A value in a destination format: saturating into E4M3, E5M2 and E2M1 (R277). A scaled MX value that a wider format cannot hold exactly is
rounded into it in the same way: no row of R277 gives it (log 90). -/
def toFmt (f : Nat) (v : Val) : Nat :=
  match fmtF f with
  | some F => convert v F none (F = .e4m3 || F = .e5m2 || F = .e2m1)
  | none => 0

/-- A wider format takes the value exactly, its infinities kept (R91, R277). -/
def widen (f : Nat) (v : Val) : Nat :=
  match fmtF f with
  | some F => convert v F none false
  | none => 0

/-- A transfer exists between the formats (R277, R258 cause 2). -/
def transferOk (sf sm df dm : Nat) : Bool := (sf = df && sm = dm) || (decide (sf ≤ 5) && decide (df ≤ 5))

/-! ## The destination -/

def ChCmd.origin (c : ChCmd) : Coord := originOf c.o01 c.o23
def ChCmd.dFmt (c : ChCmd) : Nat :=
  match c.tile with
  | some t => tFmt t.w0
  | none => lFmt c.dst
def ChCmd.dMxl (c : ChCmd) : Nat := if c.tile.isSome then 0 else lMxl c.dst
def ChCmd.dTop (c : ChCmd) (i : Nat) : Nat :=
  match c.tile with
  | some t => (match i with | 0 => tCols t.w0 | 1 => tRows t.w0 | _ => 1)
  | none => lTop c.dst i
def ChCmd.dWidth (c : ChCmd) : Nat := fmtBits c.dFmt

/-- A tile takes the element encodings of an MXL = 1 source of its own format unchanged (R277). -/
def ChCmd.keeps (c : ChCmd) : Bool := c.tile.isSome && lMxl c.src = 1 && c.dFmt = lFmt c.src

/-- First gang-window byte of the scratchpad of a rank (R111). -/
def ownWindow (rank : Nat) : Nat := 0xF * 2 ^ 48 + rank * 2 ^ 21

/-- Address of destination element d (R276); a tile is named by its own rank's window. -/
def ChCmd.dAddr (c : ChCmd) (rank : Nat) (d : Coord) : Int :=
  match c.tile with
  | some t => (ownWindow rank + tBase t.w0 : Nat) + d.c1 * (tPitch t.w0 : Int) + d.c0 * (c.dWidth : Int) / 8
  | none => elemAddr c.dst d

/-- First byte of the destination range as a virtual address, and its length (R139). -/
def ChCmd.dRange (c : ChCmd) (rank : Nat) : Int × Nat :=
  let (d, n) := c.range
  if c.tile.isSome then (d + (ownWindow rank : Nat), n) else (d, n)

/-- Granules of the destination range (R139). -/
def ChCmd.granules (c : ChCmd) : Nat := cdiv c.range.2 128

/-- The rows of the destination box: elements (·, d1, d2, d3). -/
def ChCmd.dRows (c : ChCmd) : List Coord :=
  (List.range (c.dTop 3)).flatMap fun k => (List.range (c.dTop 2)).flatMap fun j => (List.range (c.dTop 1)).map fun i => ⟨0, i, j, k⟩

/-- The bytes that the write of granule g brings: a granule is cut where an aligned 8-byte unit ends, so that the unit is written as one
(R139, R148). The unit that a granule ends in is written with it. -/
def ChCmd.granSpan (c : ChCmd) (rank g : Nat) : Int × Int :=
  let (d, len) := c.dRange rank
  let cut := fun (i : Nat) => if i = 0 then d else min ((d + 128 * (i : Int) + 7) / 8 * 8) (d + len)
  (cut g, cut (g + 1))

/-- The elements of the destination box that have a byte in granule g. -/
def ChCmd.granElems (c : ChCmd) (rank g : Nat) : List Coord :=
  let (lo, hi) := c.granSpan rank g
  let n := (c.dWidth + 7) / 8
  c.dRows.flatMap fun r =>
    let a := c.dAddr rank r
    if a < hi ∧ lo < c.dAddr rank { r with c0 := (c.dTop 0 : Int) - 1 } + n then
      (List.range (c.dTop 0)).filterMap fun (j : Nat) =>
        let x := c.dAddr rank { r with c0 := j }
        if x < hi ∧ lo < x + n then some { r with c0 := j } else none
    else []

/-! ## The source -/

/-- The source element of a destination element (R276, R278); none is an element that the command does not move. -/
def ChCmd.srcOf (c : ChCmd) (picked : List Nat) (d : Coord) : Option Coord :=
  let o := c.origin
  match c.kind with
  | .tcopy => some ⟨o.c0 + d.c0, o.c1 + d.c1, o.c2 + d.c2, o.c3 + d.c3⟩
  | .txp => some ⟨o.c0 + d.c1, o.c1 + d.c0, o.c2 + d.c2, o.c3 + d.c3⟩
  | .tgath =>
    if d.c2 ≠ 0 ∨ d.c3 ≠ 0 then none
    else (picked[d.c1.toNat]?).map fun i => ⟨o.c0 + d.c0, o.c1 + i, o.c2, o.c3⟩

/-- The destination elements, and the granule that the first byte of one lies in. -/
def ChCmd.dElems (c : ChCmd) : List Coord :=
  c.dRows.flatMap fun r => (List.range (c.dTop 0)).map fun (j : Nat) => { r with c0 := j }
def ChCmd.granOf (c : ChCmd) (rank : Nat) (d : Coord) : Nat :=
  ((List.range c.granules).find? fun g => decide (c.dAddr rank d < (c.granSpan rank g).2)).getD 0

/-- The source elements that the whole command may touch: coordinates from and up to (R276, R278). -/
def ChCmd.srcBox (c : ChCmd) : Coord × Coord :=
  let o := c.origin
  let (w, h) := if c.kind = .txp then (c.dTop 1, c.dTop 0) else (c.dTop 0, c.dTop 1)
  let e1 : Int := if c.kind = .tgath then max o.c1 (lTop c.src 1) else o.c1 + h
  let (n2, n3) := if c.kind = .tgath then (1, 1) else (c.dTop 2, c.dTop 3)
  (o, ⟨o.c0 + w, e1, o.c2 + n2, o.c3 + n3⟩)

/-- Candidate rows of a gather (R278); of a one-dimensional layout row 0 is one, as of TSCAT (log 89). -/
def ChCmd.candidates (c : ChCmd) : Nat := ((lTop c.src 1 : Int) - c.origin.c1).toNat

/-- Address of the scale code of an element (R124). -/
def scaleAddr (l : Rec8) (c : Coord) : Int :=
  if lMxl l = 2 then (lSbase l : Int) + (c.c1 + lExt l 1 * (c.c2 + lExt l 2 * c.c3)) * lSstr l + c.c0 / 32
  else
    let (r, k) := canonOf l c
    (lSbase l : Int) + r / 8 * lSstr l + k / 8

/-- The bytes that reading a source element needs. -/
def srcNeeds (l : Rec8) (mx : Bool) (c : Coord) : List (Int × Nat) :=
  if !c.inExtent l then []
  else (elemAddr l c, (lWidth l + 7) / 8) :: (if mx then [(scaleAddr l c, 1)] else [])

/-- Bits of a source element; a halo element gives the pad value (R121). -/
def State.srcBits (s : State) (sn : Snap) (l : Rec8) (c : Coord) : Nat := if c.inExtent l then s.elemBits sn l c else padBits l

/-- Exact value of a source element, scaled when its layout has scales (R96, R277). -/
def State.srcVal (s : State) (sn : Snap) (l : Rec8) (c : Coord) : Val :=
  let v := fmtVal (lFmt l) (s.srcBits sn l c)
  if lMxl l = 0 ∨ !c.inExtent l then v
  else
    let code := (s.mem.get (sn.place (scaleAddr l c).toNat)).toNat
    if code = 0xFF then .nan else v.scale ((code : Int) - 127)

/-! ## One destination element -/

/-- Elements and scales of one format and MX layout on both sides move unchanged (R277). -/
def ChCmd.mxCopies (c : ChCmd) : Bool := c.dMxl ≠ 0 && lFmt c.src = c.dFmt && lMxl c.src = c.dMxl

/-- The destination elements of the MX block that holds d, in block order (R96, R98). -/
def ChCmd.block (c : ChCmd) (d : Coord) : List Coord :=
  if c.dMxl = 1 then
    (List.range 64).map fun i => { d with c0 := d.c0 / 8 * 8 + ((i % 8 : Nat) : Int), c1 := d.c1 / 8 * 8 + ((i / 8 : Nat) : Int) }
  else (List.range 32).map fun i => { d with c0 := d.c0 / 32 * 32 + i }

/-- The value that a block member brings: zero outside the destination's extent and where nothing is moved. -/
def State.blockVal (s : State) (sn : Snap) (c : ChCmd) (picked : List Nat) (d : Coord) : Val :=
  if !d.inExtent c.dst then .fin false 0 0
  else match c.srcOf picked d with
    | some e => s.srcVal sn c.src e
    | none => .fin false 0 0

/-- The scale code of a destination block whose elements move unchanged: the code that their source blocks have in common. Where a gather or
a transposition brings elements of source blocks with different codes together, the spec states no code (log 18). -/
def State.keptCode (s : State) (sn : Snap) (c : ChCmd) (picked : List Nat) (d : Coord) : Option Nat :=
  let live := (c.block d).filterMap fun x => (c.srcOf picked x).bind fun y => if y.inExtent c.src then some y else none
  match live.map fun y => (s.mem.get (sn.place (scaleAddr c.src y).toNat)).toNat with
  | [] => some 127
  | k :: r => if r.all fun x => x = k then some k else none

/-- Bits of a moved destination element, and the scale code of its block when the destination has scales; none inside is a code that the
spec does not state. -/
def State.chElem (s : State) (sn : Snap) (c : ChCmd) (picked : List Nat) (d e : Coord) : Nat × Option (Option Nat) :=
  if c.keeps then (s.srcBits sn c.src e, none)
  else if c.dMxl = 0 then
    if lMxl c.src = 0 && lFmt c.src = c.dFmt then (s.srcBits sn c.src e, none)
    else
      let v := s.srcVal sn c.src e
      (if fmtBits (lFmt c.src) < c.dWidth ∧ lMxl c.src = 0 then widen c.dFmt v else toFmt c.dFmt v, none)
  else if c.mxCopies then (s.srcBits sn c.src e, some (s.keptCode sn c picked d))
  else match fmtF c.dFmt with
    | none => (0, none)
    | some F =>
      let b := c.block d
      let (code, enc) := mxQuant F (b.map fun x => (s.blockVal sn c picked x, none))
      (nth enc ((findIdxN (fun x => decide (x = d)) b 0).getD 0) 0, some (some code))

/-- What the source side of an element needs (R279). -/
def ChCmd.needs (c : ChCmd) (picked : List Nat) (d : Coord) : List (Int × Nat) :=
  let mx := lMxl c.src ≠ 0 && !c.keeps
  let ds := if c.dMxl = 0 then [d] else d :: (c.block d).filter fun x => x.inExtent c.dst
  ds.flatMap fun x => match c.srcOf picked x with
    | some e => srcNeeds c.src mx e
    | none => []

/-! ## Destinations of active channels (R143) -/

/-- A byte of core c's address space as one number, by which windows and translated space are told apart. -/
def State.byteKey (s : State) (c va : Nat) : Nat :=
  match spaceOf va with
  | 0 => 2 ^ 64 + (s.core c).part * 2 ^ 52 + va
  | 1 => match s.gangAt c with
    | some g => carvePlace g.uid (va - 0xE * 2 ^ 48)
    | none => 0
  | _ => (s.gangPlace c va 1).getD 0

/-- Destination ranges of the active channels: core, channel, first key, length. -/
def State.activeRanges (s : State) : List (Nat × Nat × Nat × Nat) :=
  (List.range 480).flatMap fun c =>
    let k := s.core c
    (List.range 16).filterMap fun n =>
      let ch := vget k.chans n .reset
      if ch.state = .active then ch.cmd.map fun cmd =>
        let (d, len) := cmd.range
        (c, n, if cmd.tile.isSome then spadPlace c d.toNat else s.byteKey c d.toNat, len)
      else none

/-- Bytes of the destination of channel ch of core c are undefined from now on, whoever writes them last (R143). -/
def State.race (s : State) (c ch : Nat) (rs : List (Nat × Nat)) : State :=
  s.modCore c fun k =>
    let x := vget k.chans ch .reset
    { k with chans := vset k.chans ch { x with raced := rs ++ x.raced } }

/-- A write of bytes, named by keys and places, into an active channel's destination range leaves undefined bytes there, and what the
channel still brings there is undefined (R143). -/
def State.clobber (s : State) (cells : List (Nat × Nat)) : State :=
  match s.activeRanges with
  | [] => s
  | rs => rs.foldl (fun s (r : Nat × Nat × Nat × Nat) =>
      let hit := cells.filter fun e => decide (r.2.2.1 ≤ e.1) && decide (e.1 < r.2.2.1 + r.2.2.2)
      if hit = [] then s else (s.race r.1 r.2.1 (hit.map fun e => (e.1, 1))).undefine (hit.map fun e => e.2)) s

/-- Channel ch of core c has become active: where its destination overlaps that of another active channel, both are undefined (R143). -/
def State.chanMeets (s : State) (c ch : Nat) : State :=
  match s.activeRanges.find? fun r => r.1 = c && r.2.1 = ch with
  | none => s
  | some me => s.activeRanges.foldl (fun s (r : Nat × Nat × Nat × Nat) =>
      let lo := max me.2.2.1 r.2.2.1
      let hi := min (me.2.2.1 + me.2.2.2) (r.2.2.1 + r.2.2.2)
      if (r.1 = c ∧ r.2.1 = ch) ∨ hi ≤ lo then s
      else (s.race c ch [(lo, hi - lo)]).race r.1 r.2.1 [(lo, hi - lo)]) s

/-- The bytes of a virtual range of core c, for `clobber`. -/
def State.keyed (s : State) (c : Nat) (sn : Snap) (va n : Nat) : List (Nat × Nat) :=
  (List.range n).map fun i => (s.byteKey c (va + i), sn.place (va + i))
/-- The bytes of a tile's rows, for `clobber`. -/
def tileKeyed (c : Nat) (w0 : W64) : List (Nat × Nat) :=
  (List.range (tRows w0)).flatMap fun i =>
    let (p, n) := tileRow c w0 i
    (List.range n).map fun k => (p + k, p + k)

/-! ## Issue (R275) -/

/-- Ranges that touch a window or leave the address space are judged at issue, and must lie in one range of R108; what a walk finds is left
to the transfer (R111, R129, R279). -/
def windowCheck (p : Perm) (rs : List (Int × Nat)) (s : State) : Except State Unit :=
  match spansRanges rs with
  | some va => .error (s.accessFault (accFail 4 va))
  | none =>
  rs.foldlM (fun _ (r : Int × Nat) =>
    if r.2 = 0 ∨ (0 ≤ r.1 ∧ r.1 + r.2 ≤ (0xE * 2 ^ 48 : Nat)) then .ok ()
    else match s.reach (s.xctx 2) p r.1 r.2 with
      | .error (.fail f) => if f.cause = 3 ∨ f.cause = 4 then .error (s.accessFault f) else .ok ()
      | _ => .ok ()) ()

/-- Address arithmetic of one side of a channel command: its range, or none when nothing is in extent (R122). -/
def sideRange (l : Rec8) (box : Coord × Coord) (s : State) : Except State (Option (Int × Int)) :=
  if (List.range 4).any fun i => decide (1 ≤ i ∧ i < lNdim l ∧ (lStr l i * lExt l i).natAbs > 2 ^ 62) then .error s.addrFault
  else match spanOf l box.1 box.2 with
    | none => .ok none
    | some (lo, hi) =>
      if lo < 0 ∨ hi - ((lWidth l + 7) / 8 : Nat) ≥ (2 ^ 52 : Nat) then .error s.addrFault else .ok (some (lo, hi))

/-- The runs of the in-extent elements with coordinates in a box. -/
def boxRuns (l : Rec8) (b : Coord × Coord) : List (Int × Nat) :=
  let n := fun (lo hi : Int) => (hi - lo).toNat
  (List.range (n b.1.c3 b.2.c3)).flatMap fun k => (List.range (n b.1.c2 b.2.c2)).flatMap fun j =>
    segRanges (boxSegs l { b.1 with c2 := b.1.c2 + j, c3 := b.1.c3 + k } (n b.1.c1 b.2.c1) (n b.1.c0 b.2.c0))

/-- The bytes of scale codes that the in-extent elements of a box use. -/
def scaleRuns (l : Rec8) (b : Coord × Coord) : List (Int × Nat) :=
  if lMxl l = 0 then [] else
  (List.range (b.2.c1 - b.1.c1).toNat).flatMap fun i => (List.range (b.2.c0 - b.1.c0).toNat).filterMap fun j =>
    let c : Coord := { b.1 with c0 := b.1.c0 + j, c1 := b.1.c1 + i }
    if c.inExtent l then some (scaleAddr l c, 1) else none

/-- Windows on either side of a command (R111, R112, R129): only ranges that can touch a window are walked through. -/
def sideWindows (p : Perm) (l : Rec8) (box : Coord × Coord) (r : Option (Int × Int)) (s : State) : Except State Unit :=
  (match r with
    | some (_, hi) => if hi > (0xE * 2 ^ 48 : Nat) then windowCheck p (boxRuns l box) s else .ok ()
    | none => .ok ()).bind fun _ => windowCheck p (scaleRuns l box) s

/-- Whether a command's destination lies in the issuer's own scratchpad (R275). -/
def ChCmd.dsp (c : ChCmd) (rank : Nat) : Bool := c.tile.isSome || lBase c.dst / 2 ^ 21 * 2 ^ 21 = ownWindow rank

/-- The whole box of a destination layout. -/
def wholeBox (l : Rec8) : Coord × Coord := (⟨0, 0, 0, 0⟩, ⟨lTop l 0, lTop l 1, lTop l 2, lTop l 3⟩)

/-- The checks of a channel command over the whole command (R275, R277). -/
def chanChecks (c : ChCmd) (s : State) : Except State Unit :=
  let o := c.origin
  let sf := lFmt c.src
  if !(c.keeps || transferOk sf (lMxl c.src) c.dFmt c.dMxl) then .error (s.layoutFault 2)
  else if c.kind = .txp ∧ (sf = 9 ∨ c.dFmt = 9) then .error (s.layoutFault 3)
  else if !mxOriginOk c.src o then .error (s.layoutFault 4)
  else
    (sideRange c.src c.srcBox s).bind fun sr =>
      (if c.tile.isSome then .ok none else sideRange c.dst (wholeBox c.dst) s).bind fun dr =>
        (sideWindows permR c.src c.srcBox sr s).bind fun _ =>
          (if c.tile.isSome then .ok () else sideWindows permW c.dst (wholeBox c.dst) dr s).bind fun _ =>
            if c.kind = .tgath then windowCheck permR [((c.mask.toNat : Int), cdiv c.candidates 8)] s else .ok ()

/-- A channel command (R274, R275). -/
def chanIssue (kind : ChKind) (n : Nat) (st : BitVec 2) (t : Option (BitVec 6)) (g : BitVec 6) (w ch : BitVec 4) (s : State) : Out :=
  done ((s.grpA st n g).bind fun m =>
    let g3 := nth m 3 0
    let g4 := nth m 4 0
    if (vget s.cur.chans ch.toNat .reset).state ≠ .idle then .error (s.waitOn 7 ch.toNat w.toNat)
    else if fld g3 52 6 ≠ 0 ∨ (kind = .tgath ∧ fld g4 52 12 ≠ 0) then .error (s.layoutFault 5)
    else
      (s.readLayout (nth m 0 0)).bind fun (l, s) =>
        (match t with
          | some t => (s.tileDefined t).map fun ref => (some ref, l, s)
          | none => (s.readLayout (BitVec.ofNat 64 (fld g3 0 52))).map fun (d, s) => (none, d, s)).bind fun (ref, d, s) =>
            let c : ChCmd :=
              { kind := kind, src := l, o01 := nth m 1 0, o23 := nth m 2 0, dst := d, tile := ref,
                mask := BitVec.ofNat 52 g4.toNat, picked := none, sig := g3.getLsbD 63, sem := BitVec.ofNat 5 (fld g3 58 5),
                walk := s.walk }
            (chanChecks c s).map fun _ => (s.modCur fun k =>
              let x : Chan := { Chan.reset with state := .active, dsp := c.dsp k.rank, cmd := some c }
              { k with chans := vset k.chans ch.toNat x }).chanMeets s.issue.core ch.toNat)

def execTcopy (st : BitVec 2) (g : BitVec 6) (w c : BitVec 4) (s : State) : Out := chanIssue .tcopy 4 st none g w c s
def execTgath (st : BitVec 2) (g : BitVec 6) (w c : BitVec 4) (s : State) : Out := chanIssue .tgath 5 st none g w c s
def execTgathTile (st : BitVec 2) (t g : BitVec 6) (w c : BitVec 4) (s : State) : Out := chanIssue .tgath 5 st (some t) g w c s
def execTxp (st : BitVec 2) (g : BitVec 6) (w c : BitVec 4) (s : State) : Out := chanIssue .txp 4 st none g w c s
def execTxpTile (st : BitVec 2) (t g : BitVec 6) (w c : BitVec 4) (s : State) : Out := chanIssue .txp 4 st (some t) g w c s

/-! ## A granule -/

/-- Why a granule is not written: it is held, or its access fails with a cause and an address (R279). -/
inductive ChErr where
  | hold
  | fail (cause va : Nat) (ue : Option Nat)
  | room (part die va : Nat)
  deriving DecidableEq, Repr

/-- Translations of a channel's accesses. -/
def chReach (s : State) (c ch : Nat) (p : Perm) (rs : List (Int × Nat)) (sn : Snap) : Except ChErr (Snap × State) :=
  match State.reachAll rs s { core := some c, part := (s.core c).part, unit := .chan c ch, die := c / 60, win := 2 } p sn with
  | .ok r => .ok r
  | .error (.wait _ _) => .error .hold
  | .error (.fail f) => .error (.fail f.cause f.va f.ue)

/-- The bytes of a gather's mask. -/
def ChCmd.maskRange (cmd : ChCmd) : Int × Nat := ((cmd.mask.toNat : Int), cdiv cmd.candidates 8)

/-- The rows that a mask picks, as many as the destination holds (R278). -/
def State.pickRows (s : State) (sn : Snap) (cmd : ChCmd) : List Nat :=
  ((List.range cmd.candidates).filter fun i =>
    (s.mem.get (sn.place (cmd.mask.toNat + i / 8))).getLsbD (i % 8)).take (cmd.dTop 1)

/-- The first marked byte of some ranges. -/
def State.rangesBad (s : State) (sn : Snap) (rs : List (Int × Nat)) : Option Nat :=
  rs.findSome? fun r => ((List.range r.2).find? fun i => s.marked (sn.place (r.1.toNat + i)) 1).map fun i => r.1.toNat + i

/-- A byte of the destination at an address and a key that is undefined: a source element or scale of the same command holds it, or another
write has reached it (R143). -/
def chanOverlaps (raced : List (Nat × Nat)) (runs : List (Int × Nat)) (va key : Nat) : Bool :=
  runs.any (fun r => decide (r.1 ≤ va) && decide ((va : Int) < r.1 + r.2))
  || raced.any fun r => decide (r.1 ≤ key) && decide (key < r.1 + r.2)

/-- What a granule moves: its destination elements with their source elements, the elements whose scale codes it writes, and the translations of
both sides; where the destination is a tile, its own scratchpad's place. -/
structure Granule where
  moved : List (Coord × Coord)
  coded : List (Coord × Coord)
  sn : Snap
  dsn : Snap
  spad : Option Nat
  deriving DecidableEq, Repr

/-- Place of a destination byte. -/
def Granule.at' (p : Granule) (va : Nat) : Nat :=
  match p.spad with
  | some c => spadPlace c (va % 2 ^ 21)
  | none => p.dsn.place va

/-- Bytes of a destination element. -/
def ChCmd.dBytes (c : ChCmd) : Nat := (c.dWidth + 7) / 8

/-- The bytes that a granule writes, by address; and those of its scale codes. -/
def Granule.bytes (p : Granule) (cmd : ChCmd) (rank g : Nat) : List Nat :=
  let (lo, hi) := cmd.granSpan rank g
  ((p.moved.flatMap fun x => (List.range cmd.dBytes).map fun i => (cmd.dAddr rank x.1).toNat + i).filter fun (va : Nat) =>
    decide (lo ≤ (va : Int)) && decide ((va : Int) < hi)).eraseDups
def Granule.codes (p : Granule) (cmd : ChCmd) : List Nat := (p.coded.map fun x => (scaleAddr cmd.dst x.1).toNat).eraseDups
/-- Every place that it writes. -/
def Granule.places (p : Granule) (cmd : ChCmd) (rank g : Nat) : List Nat := (p.bytes cmd rank g ++ p.codes cmd).map p.at'

/-- The pieces that it reads. -/
def Granule.reads (p : Granule) (cmd : ChCmd) (picked : List Nat) : List (Nat × Nat) :=
  ((p.moved ++ p.coded).flatMap fun x => (cmd.needs picked x.1).flatMap fun r => p.sn.pieces r.1.toNat r.2).eraseDups
/-- The units read that some units written derive from. -/
def Granule.needs (p : Granule) (cmd : ChCmd) (picked : List Nat) (rank : Nat) (us : List Nat) : List Nat :=
  let src (x : Coord × Coord) : List Nat := unitsOf ((cmd.needs picked x.1).flatMap fun r => p.sn.pieces r.1.toNat r.2)
  (p.moved.flatMap fun x => if (List.range cmd.dBytes).any fun i => us.contains (p.at' ((cmd.dAddr rank x.1).toNat + i) / 8) then src x else [])
  ++ p.coded.flatMap fun x => if us.contains (p.at' (scaleAddr cmd.dst x.1).toNat / 8) then src x else []

/-- The elements whose scale codes are written with granule g: an aligned unit of codes is written as one (R148), with the first granule that has
an element of its blocks (log 76). -/
def ChCmd.granCodes (c : ChCmd) (rank g : Nat) (moved : List (Coord × Coord)) (picked : List Nat) : List (Coord × Coord) :=
  if c.dMxl = 0 then [] else
  let unit (d : Coord) : Int := scaleAddr c.dst d / 8
  let all := c.dElems.filterMap fun d => (c.srcOf picked d).map fun e => (d, e)
  ((moved.map fun x => unit x.1).eraseDups).flatMap fun u =>
    let es := all.filter fun x => unit x.1 = u
    if es.any fun x => decide (c.granOf rank x.1 < g) then [] else es

/-- Granule g of channel ch of core c, translated. -/
def State.granPlan (s : State) (c ch g : Nat) (cmd : ChCmd) : Except ChErr (Granule × State) :=
  let picked := cmd.picked.getD []
  let rank := (s.core c).rank
  let moved := (cmd.granElems rank g).filterMap fun d => (cmd.srcOf picked d).map fun e => (d, e)
  let coded := cmd.granCodes rank g moved picked
  (chReach s c ch permR ((moved ++ coded).flatMap fun x => cmd.needs picked x.1) []).bind fun (sn, s) =>
    let outs := moved.map fun x => (cmd.dAddr rank x.1, cmd.dBytes)
    (if cmd.tile.isSome then .ok ([], s)
      else chReach s c ch permW (outs ++ coded.map fun x => (scaleAddr cmd.dst x.1, 1)) []).map fun (dsn, s) =>
      (⟨moved, coded, sn, dsn, if cmd.tile.isSome then some c else none⟩, s)

/-- The bytes of a granule, from memory as it stands: its elements in order, so that two nibbles of one byte meet, then its codes. -/
def State.granCells (s : State) (cmd : ChCmd) (rank g : Nat) (p : Granule) : List (Nat × Byte) :=
  let picked := cmd.picked.getD []
  let built := p.moved.foldl (fun (m : Memory) (x : Coord × Coord) =>
    let (bits, _) := s.chElem p.sn cmd picked x.1 x.2
    let a := (cmd.dAddr rank x.1).toNat
    if cmd.dWidth = 4 then
      let old := (m.get (p.at' a)).toNat
      m.set (p.at' a) (BitVec.ofNat 8 (if x.1.c0 % 2 = 0 then old / 16 * 16 + bits % 16 else old % 16 + 16 * (bits % 16)))
    else (List.range cmd.dBytes).foldl (fun m i => m.set (p.at' (a + i)) (BitVec.ofNat 8 (bits >>> (8 * i)))) m) s.mem
  ((p.bytes cmd rank g).map fun va => (p.at' va, built.get (p.at' va)))
  ++ p.coded.filterMap fun x => (s.chElem p.sn cmd picked x.1 x.2).2.map fun k =>
      (p.at' (scaleAddr cmd.dst x.1).toNat, (BitVec.ofNat 8 (k.getD 0) : Byte))

/-- The places of a granule whose bytes are undefined: overlapped (R143), or a code that the spec does not state (log 18). -/
def State.granFree (s : State) (c ch g : Nat) (cmd : ChCmd) (p : Granule) : List Nat :=
  let picked := cmd.picked.getD []
  let rank := (s.core c).rank
  let raced := (vget (s.core c).chans ch .reset).raced
  let runs := boxRuns cmd.src cmd.srcBox ++ (if cmd.keeps then [] else scaleRuns cmd.src cmd.srcBox)
  let codes := p.coded.filterMap fun x => (s.chElem p.sn cmd picked x.1 x.2).2.map fun k => ((scaleAddr cmd.dst x.1).toNat, k)
  (((p.bytes cmd rank g).filter fun va => chanOverlaps raced runs va (if cmd.tile.isSome then p.at' va else s.byteKey c va)).map p.at'
    ++ (codes.filter fun e => e.2.isNone || chanOverlaps [] runs e.1 0).map fun e => p.at' e.1).eraseDups

/-- The watermark over the granules written (R139). -/
def advanceMark : Nat → Nat → List Nat → Nat
  | 0, w, _ => w
  | f + 1, w, l => if l.contains w then advanceMark f (w + 1) l else w

/-- Rows of a gather whose bytes all lie below the watermark (R140, R278). -/
def ChCmd.packedBelow (c : ChCmd) (rank w : Nat) (picked : List Nat) : Nat :=
  if c.kind ≠ .tgath then 0 else
  let (d, len) := c.dRange rank
  let edge := min (d + 128 * (w : Int)) (d + len)
  (List.range picked.length).countP fun k =>
    decide (c.dAddr rank ⟨(c.dTop 0 : Int) - 1, k, 0, 0⟩ + ((c.dWidth + 7) / 8 : Nat) ≤ edge)

def State.modChan (s : State) (c ch : Nat) (f : Chan → Chan) : State :=
  s.modCore c fun k => { k with chans := vset k.chans ch (f (vget k.chans ch .reset)) }

/-- What granule gran of a channel has read and written so far. -/
def Chan.part (x : Chan) (gran : Nat) : GranSt := (x.underway.find? fun g => g.gran = gran).getD ⟨gran, [], []⟩
def Chan.setPart (x : Chan) (g : GranSt) : Chan := { x with underway := (x.underway.filter fun h => h.gran ≠ g.gran) ++ [g] }

/-- Granule gran of channel ch of core c is written whole: the watermark and the packed rows follow. -/
def Chan.granuleDone (x : Chan) (rank gran : Nat) (cmd : ChCmd) : Chan :=
  let written := x.written ++ [gran]
  let w := advanceMark written.length x.wmark written
  { x with written := written.filter (fun g => decide (w ≤ g)), wmark := w, underway := x.underway.filter fun g => g.gran ≠ gran,
           pcount := BitVec.ofNat 32 (cmd.packedBelow rank w (cmd.picked.getD [])) }

/-- The step of a granule whose translations stand; it is cut into units (R148). R147 lets a command read its source at any time; here a granule
reads it between its first unit read and its last unit written (log 76). -/
def State.granStep (s : State) (c ch g : Nat) (cmd : ChCmd) (p : Granule) : State :=
  let rank := (s.core c).rank
  let st := (vget (s.core c).chans ch .reset).part g
  s.wide
    { reads := p.reads cmd (cmd.picked.getD []), writes := (p.places cmd rank g).map fun l => (l, 1),
      needs := p.needs cmd (cmd.picked.getD []) rank, got := st.got, units := st.units }
    { move := fun o => o.wrCells (o.granCells cmd rank g p),
      note := fun got now s => s.modChan c ch fun x => x.setPart ⟨g, got, now ++ st.units⟩,
      follow := fun o _ out s =>
        let s := (s.wrote (.chan c ch cmd.walk) out).undefine ((o.granFree c ch g cmd p).filter fun l => inPieces out l)
        s.modCore c fun k => out.foldl (fun k q => k.dropLines q.1 q.2) k,
      after := fun _ s => s.modChan c ch fun x => x.granuleDone rank g cmd }

/-- A gather reads its mask once (R278), unit by unit, before its first granule; the units are kept under the number past the last granule. -/
def State.maskStep (s : State) (c ch : Nat) (cmd : ChCmd) (sn : Snap) : State :=
  let st := (vget (s.core c).chans ch .reset).part cmd.granules
  s.wide { reads := sn.pieces cmd.mask.toNat cmd.maskRange.2, writes := [], needs := fun _ => [], got := st.got, units := [] }
    { move := fun o => o, note := fun got _ s => s.modChan c ch fun x => x.setPart ⟨cmd.granules, got, []⟩, follow := fun _ _ _ s => s,
      after := fun o s => s.modChan c ch fun x =>
        { x with underway := x.underway.filter fun g => g.gran ≠ cmd.granules, cmd := some { cmd with picked := some (o.pickRows sn cmd) } } }

/-- What a channel does for granule gran next: read the mask, or move the granule; or why it does not. Data that are damaged fail it, as it has read
them or as they stand. -/
def State.granTry (s : State) (c ch g : Nat) (cmd : ChCmd) : Except ChErr State :=
  let x := vget (s.core c).chans ch .reset
  if cmd.kind = .tgath ∧ cmd.picked = none then
    (chReach s c ch permR [cmd.maskRange] []).bind fun (sn, s) =>
      match (s.over (x.part cmd.granules).got).rangesBad sn [cmd.maskRange] with
      | some va => .error (.fail 0x40 va (some (sn.place va)))
      | none => .ok (s.maskStep c ch cmd sn)
  else
    (s.granPlan c ch g cmd).bind fun (p, s) =>
      match (s.over (x.part g).got).rangesBad p.sn ((p.moved ++ p.coded).flatMap fun y => cmd.needs (cmd.picked.getD []) y.1) with
      | some va => .error (.fail 0x40 va (some (p.sn.place va)))
      | none =>
        match s.cantTake ((p.places cmd (s.core c).rank g).map fun l => (l, 1)) (some (.chan c ch)) with
        | .error l => .error (.room (cantPart l) (s.hdie (cantPart l) (cantVa l) (some (.chan c ch))) (cantVa l))
        | .ok s => .ok (s.granStep c ch g cmd p)

/-- A write that finds no cantilever line waits, and is reported when it begins to (R496, log 34). -/
def State.lacksRoom (s : State) (core part die va : Nat) : State :=
  let ln := lineOf (cantPlace part va)
  if s.overs.contains ln then s
  else { s with overs := s.overs ++ [ln] }.postEvent part 8 (some core) [BitVec.ofNat 64 (die <<< 56), BitVec.ofNat 64 va]

/-- A granule of channel ch of core c is written, unit by unit (R148); granules reach at most 63 beyond the watermark (R142). -/
def execChannelGranuleWrite (core ch gran : Nat) (s : State) : Out :=
  if !coreOk core ∨ 16 ≤ ch then .fault .noSuchUnit else
  let x := vget (s.core core).chans ch .reset
  match x.cmd with
  | none => .next s
  | some cmd =>
    if x.state ≠ .active ∨ x.written.contains gran ∨ gran < x.wmark ∨ x.wmark + 64 ≤ gran ∨ cmd.granules ≤ gran then .next s
    else match s.granTry core ch gran cmd with
      | .error (.room part die va) => .next (s.lacksRoom core part die va)
      | .error _ => .next s
      | .ok s => .next s

/-- The places of a command's destination as its pages stand: the lines whose L1 copies go at its completion (R279). -/
def State.destPieces (s : State) (c : Nat) (cmd : ChCmd) : List (Nat × Nat) :=
  if cmd.tile.isSome then [] else
  let runs := (boxRuns cmd.dst (wholeBox cmd.dst) ++ scaleRuns cmd.dst (wholeBox cmd.dst)).filter fun r => decide (0 ≤ r.1) && r.2 != 0
  let x : XCtx := { core := some c, part := (s.core c).part, unit := .walker c .A, die := c / 60, win := 2 }
  runs.flatMap fun r => (pageStarts r.1.toNat r.2).filterMap fun (a : Nat) =>
    match s.reach x ⟨false, false, false⟩ a 1 with
    | .ok (sn, _) => some (sn.place a, Nat.min (r.1.toNat + r.2) ((a / 65536 + 1) * 65536) - a)
    | .error _ => none

/-- A channel command completes when its last granule is written (R279). -/
def execChannelComplete (core ch : Nat) (s : State) : Out :=
  if !coreOk core ∨ 16 ≤ ch then .fault .noSuchUnit else
  let x := vget (s.core core).chans ch .reset
  match x.cmd with
  | none => .next s
  | some cmd =>
    if x.state ≠ .active ∨ x.wmark < cmd.granules then .next s
    else
      let ps := s.destPieces core cmd
      .next (s.modCore core fun k =>
      let k := match cmd.tile with
        | some t => k.fillTile t none
        | none => k
      let k := ps.foldl (fun k p => k.dropLines p.1 p.2) k
      { k with chans := vset k.chans ch { x with state := .idle, underway := [], raced := [], cmd := none },
               sems := if cmd.sig then vset k.sems cmd.sem.toNat ((vget k.sems cmd.sem.toNat .reset).add 1) else k.sems })

/-- A channel halts when an access of a granule that it may write next fails (R142, R279, R509). -/
def execChannelHalt (core ch : Nat) (s : State) : Out :=
  if !coreOk core ∨ 16 ≤ ch then .fault .noSuchUnit else
  let x := vget (s.core core).chans ch .reset
  match x.cmd with
  | none => .next s
  | some cmd =>
    if x.state ≠ .active then .next s else
    let open' := (List.range 64).filter fun i => decide (x.wmark + i < cmd.granules) && !x.written.contains (x.wmark + i)
    match open'.findSome? fun i => match s.granTry core ch (x.wmark + i) cmd with
        | .error (.fail cause va ue) => some (cause, va, ue)
        | _ => none with
    | none => .next s
    | some (cause, va, ue) =>
      let s := match ue with
        | some l => s.consumed core l
        | none => s
      .next ((s.modCore core fun k => { k with chans := vset k.chans ch { x with state := .halted } }).postEvent
        (s.core core).part 2 (some core)
        [BitVec.ofNat 64 (ch <<< 60 ||| cause <<< 52 ||| va % 2 ^ 52), BitVec.ofNat 64 x.wmark])

end Sys2Proof.Machine
end

