-- ==== Sys2Proof/Machine/Sync.lean ====
section
/-! DEFINITION. Atomics and address waits (08 R284-R289, 05 R160-R168), cache maintenance (R291), rings (04 R144, R145, 08 R280-R282)
and semaphores (04 R146, 08 R283). -/

namespace Sys2Proof.Machine

/-! ## Atomic operations (R285) -/

/-- The new value of an n-bit location, or none when nothing is written. -/
def atomNew (op n old v w : Nat) : Option Nat :=
  let sv := toSigned n
  match op with
  | 0 => some v
  | 1 => if old = v then some w else none
  | 2 => some ((old + v) % 2 ^ n)
  | 3 => some (old &&& v)
  | 4 => some (old ||| v)
  | 5 => some (old ^^^ v)
  | 6 => some (if sv v < sv old then v else old)
  | 7 => some (if sv old < sv v then v else old)
  | 8 => some (Nat.min old v)
  | 9 => some (Nat.max old v)
  | 10 => some (if v ≤ old then 0 else old + 1)
  | 11 => some (if old = 0 ∨ v < old then v else old - 1)
  | 12 => if old + v ≤ w then some (old + v) else none
  | 13 => some ((old + v) % 2 ^ n)
  | 14 => some (addF32 (BitVec.ofNat 32 old) (BitVec.ofNat 32 v)).toNat
  | _ => some (maxF32 (BitVec.ofNat 32 old) (BitVec.ofNat 32 v)).toNat

/-- Walkers registered on a word that overlaps n bytes at a place read it again (R289). -/
def WalkerSt.reread (s : State) (l n : Nat) (x : WalkerSt) : WalkerSt :=
  match x.await with
  | some r =>
    if r.loc < l + n ∧ l < r.loc + r.size then
      { x with await := some { r with seen := BitVec.ofNat 64 (s.rdN r.loc r.size), bad := s.marked r.loc r.size } }
    else x
  | none => x

/-- Collective-completion nodes registered on the word read it again (R289, R458). -/
def GraphInst.reread (s : State) (l n : Nat) (g : GraphInst) : GraphInst :=
  { g with regs := g.regs.map fun r =>
      if r.2.1 < l + n ∧ l < r.2.1 + 8 then (r.1, r.2.1, s.rd64 r.2.1, s.marked r.2.1 8) else r }

/-- The wake of a FADDT performed on n bytes at a place (R289). -/
def State.wake (s : State) (l n : Nat) : State :=
  { s with
    cores := s.cores.map fun k =>
      { k with wA := k.wA.reread s l n, wX := k.wX.reread s l n, wS := k.wS.reread s l n },
    ginsts := s.ginsts.map fun g => g.reread s l n }

/-- FADDT of v on an n-byte word, by an engine or an atomic (R285, R289). -/
def State.faddt (s : State) (l n v : Nat) : State :=
  (s.wr l (toBytes n ((s.rdN l n + v) % 2 ^ (8 * n)))).wake l n

/-- An atomic of core c on an n-byte word at a place: the value found, whether FADDB hit its bound, and the state. The line is
then held exclusively by the core (R167). -/
def State.atomic (s : State) (c op l n : Nat) (v w : W64) : Nat × Bool × State :=
  let bits := 8 * n
  let old := s.rdN l n
  let vv := v.toNat % 2 ^ bits
  let ww := w.toNat % 2 ^ bits
  let s := s.recall l n
  let (hit, s) := match atomNew op bits old vv ww with
    | some x => (false, s.wr l (toBytes n x))
    | none => (decide (op = 12), s)
  let s := if op = 13 then s.wake l n else s
  let s := { s with excl := mapPut s.excl (lineOf l) c }
  (old, hit, s.modCore c fun k => k.dropLines l n)

/-! ## ATOM and ATOMNR at issue (R284, R286) -/

/-- The address of an atomic, checked and translated. -/
def atomAddr (va : W64) (n : Nat) (s : State) : Except State (Snap × State) :=
  if va.toNat % n ≠ 0 then .error (s.accessFault (accFail 5 (va.toNat % 2 ^ 52)))
  else (s.access 0 permRW va.toNat n).bind fun r => (r.2.roomFor r.1 va.toNat n).map fun s => (r.1, s)

/-- ATOM with operation op on 2^(2+z) bytes. An acquire order holds A and S at later bundles until it is performed (R158, R160). -/
def atomIssue (op : Nat) (st o : BitVec 2) (a b : BitVec 6) (z : BitVec 1) (s : State) : Out :=
  done ((s.srcA st a).bind fun va =>
    (if op = 1 ∨ op = 12 then s.grpA st 2 b else (s.srcA st b).map fun v => [v]).bind fun m =>
      (atomAddr va (4 * 2 ^ z.toNat) s).bind fun r =>
        r.2.reserveLQ.map fun q =>
          let kind := LoadKind.atom (BitVec.ofNat 4 op) (BitVec.ofNat 2 (2 + z.toNat)) o (BitVec.ofNat 52 va.toNat)
            (nth m 0 0) (nth m 1 0) q.1
          let s := q.2.issueLoad kind r.1
          if o.getLsbD 0 then s.modCur fun k => { k with acqHold := k.acqHold ++ [(s.walk, !walkLt s.walk k.wS.walk)] } else s)

def execAtomSwap (st o : BitVec 2) (a b : BitVec 6) (z : BitVec 1) (s : State) : Out := atomIssue 0 st o a b z s
def execAtomCas (st o : BitVec 2) (a b : BitVec 6) (z : BitVec 1) (s : State) : Out := atomIssue 1 st o a b z s
def execAtomAdd (st o : BitVec 2) (a b : BitVec 6) (z : BitVec 1) (s : State) : Out := atomIssue 2 st o a b z s
def execAtomAnd (st o : BitVec 2) (a b : BitVec 6) (z : BitVec 1) (s : State) : Out := atomIssue 3 st o a b z s
def execAtomOr (st o : BitVec 2) (a b : BitVec 6) (z : BitVec 1) (s : State) : Out := atomIssue 4 st o a b z s
def execAtomXor (st o : BitVec 2) (a b : BitVec 6) (z : BitVec 1) (s : State) : Out := atomIssue 5 st o a b z s
def execAtomMin (st o : BitVec 2) (a b : BitVec 6) (z : BitVec 1) (s : State) : Out := atomIssue 6 st o a b z s
def execAtomMax (st o : BitVec 2) (a b : BitVec 6) (z : BitVec 1) (s : State) : Out := atomIssue 7 st o a b z s
def execAtomMinu (st o : BitVec 2) (a b : BitVec 6) (z : BitVec 1) (s : State) : Out := atomIssue 8 st o a b z s
def execAtomMaxu (st o : BitVec 2) (a b : BitVec 6) (z : BitVec 1) (s : State) : Out := atomIssue 9 st o a b z s
def execAtomIncw (st o : BitVec 2) (a b : BitVec 6) (z : BitVec 1) (s : State) : Out := atomIssue 10 st o a b z s
def execAtomDecw (st o : BitVec 2) (a b : BitVec 6) (z : BitVec 1) (s : State) : Out := atomIssue 11 st o a b z s
def execAtomFaddb (st o : BitVec 2) (a b : BitVec 6) (z : BitVec 1) (s : State) : Out := atomIssue 12 st o a b z s
def execAtomFaddt (st o : BitVec 2) (a b : BitVec 6) (z : BitVec 1) (s : State) : Out := atomIssue 13 st o a b z s
def execAtomFaddF32 (st o : BitVec 2) (a b : BitVec 6) (s : State) : Out := atomIssue 14 st o a b 0 s
def execAtomFmaxF32 (st o : BitVec 2) (a b : BitVec 6) (s : State) : Out := atomIssue 15 st o a b 0 s

/-- ATOMNR with operation op; o is ORD bit 1, since only relaxed and release orders are legal (R160). -/
def atomnrIssue (op : Nat) (st : BitVec 2) (o : BitVec 1) (a b : BitVec 6) (z : BitVec 1) (s : State) : Out :=
  done ((s.srcS st 0 a).bind fun va =>
    (if op = 1 ∨ op = 12 then (va.2.grpS st 2 b).map fun m => (m, va.2)
      else (va.2.srcS st 0 b).map fun v => ([v.1], v.2)).bind fun (m, s) =>
      (atomAddr va.1 (4 * 2 ^ z.toNat) s).map fun r =>
        r.2.issueStore (.atomnr (BitVec.ofNat 4 op) (BitVec.ofNat 2 (2 + z.toNat)) (BitVec.ofNat 2 (2 * o.toNat))
          (BitVec.ofNat 52 va.1.toNat) (nth m 0 0) (nth m 1 0)) r.1)

def execAtomnrSwap (st : BitVec 2) (o : BitVec 1) (a b : BitVec 6) (z : BitVec 1) (s : State) : Out := atomnrIssue 0 st o a b z s
def execAtomnrCas (st : BitVec 2) (o : BitVec 1) (a b : BitVec 6) (z : BitVec 1) (s : State) : Out := atomnrIssue 1 st o a b z s
def execAtomnrAdd (st : BitVec 2) (o : BitVec 1) (a b : BitVec 6) (z : BitVec 1) (s : State) : Out := atomnrIssue 2 st o a b z s
def execAtomnrAnd (st : BitVec 2) (o : BitVec 1) (a b : BitVec 6) (z : BitVec 1) (s : State) : Out := atomnrIssue 3 st o a b z s
def execAtomnrOr (st : BitVec 2) (o : BitVec 1) (a b : BitVec 6) (z : BitVec 1) (s : State) : Out := atomnrIssue 4 st o a b z s
def execAtomnrXor (st : BitVec 2) (o : BitVec 1) (a b : BitVec 6) (z : BitVec 1) (s : State) : Out := atomnrIssue 5 st o a b z s
def execAtomnrMin (st : BitVec 2) (o : BitVec 1) (a b : BitVec 6) (z : BitVec 1) (s : State) : Out := atomnrIssue 6 st o a b z s
def execAtomnrMax (st : BitVec 2) (o : BitVec 1) (a b : BitVec 6) (z : BitVec 1) (s : State) : Out := atomnrIssue 7 st o a b z s
def execAtomnrMinu (st : BitVec 2) (o : BitVec 1) (a b : BitVec 6) (z : BitVec 1) (s : State) : Out := atomnrIssue 8 st o a b z s
def execAtomnrMaxu (st : BitVec 2) (o : BitVec 1) (a b : BitVec 6) (z : BitVec 1) (s : State) : Out := atomnrIssue 9 st o a b z s
def execAtomnrIncw (st : BitVec 2) (o : BitVec 1) (a b : BitVec 6) (z : BitVec 1) (s : State) : Out := atomnrIssue 10 st o a b z s
def execAtomnrDecw (st : BitVec 2) (o : BitVec 1) (a b : BitVec 6) (z : BitVec 1) (s : State) : Out := atomnrIssue 11 st o a b z s
def execAtomnrFaddb (st : BitVec 2) (o : BitVec 1) (a b : BitVec 6) (z : BitVec 1) (s : State) : Out := atomnrIssue 12 st o a b z s
def execAtomnrFaddt (st : BitVec 2) (o : BitVec 1) (a b : BitVec 6) (z : BitVec 1) (s : State) : Out := atomnrIssue 13 st o a b z s
def execAtomnrFaddF32 (st : BitVec 2) (o : BitVec 1) (a b : BitVec 6) (s : State) : Out := atomnrIssue 14 st o a b 0 s
def execAtomnrFmaxF32 (st : BitVec 2) (o : BitVec 1) (a b : BitVec 6) (s : State) : Out := atomnrIssue 15 st o a b 0 s

/-! ## Performing atomics -/

/-- ATOM is performed: its entry receives the old value, or poison when the word is marked and nothing is written (R286, R511);
an acquire order then invalidates L1 and lets A and S go on (R160). -/
def performAtom (c : Nat) (op : LoadOp) (code : BitVec 4) (z o : BitVec 2) (va : VA) (v w : W64) (tag : Nat) (s : State) : State :=
  let n := 2 ^ z.toNat
  let l := op.snap.place va.toNat
  let s := if s.marked l n then
      (s.consumed c l).modCore c fun k =>
        let bad := (List.range n).find? fun i => s.marked (l + i) 1
        let (i, k) := k.defer 0x40 (va.toNat + bad.getD 0) op.walk
        k.fillLQ tag (BitVec.ofNat 64 i) true false
    else
      let (old, hit, s) := s.atomic c code.toNat l n v w
      s.modCore c fun k => k.fillLQ tag (BitVec.ofNat 64 old) false hit
  if o.getLsbD 0 then s.modCore c fun k => { k.acquire with acqHold := k.acqHold.eraseP fun a => a.1 == op.walk } else s

/-- ATOMNR is performed; a marked word is left as it is (R511). -/
def performAtomnr (c : Nat) (op : StoreOp) (code : BitVec 4) (z : BitVec 2) (va : VA) (v w : W64) (s : State) : State :=
  let n := 2 ^ z.toNat
  let l := op.snap.place va.toNat
  if s.marked l n then s.consumed c l else (s.atomic c code.toNat l n v w).2.2

/-! ## Address waits (R287-R289) -/

/-- A walker of the core holds a registration, or a syllable of the part at hand is about to. -/
def State.registered (s : State) : Bool :=
  s.cur.wA.await.isSome || s.cur.wX.await.isSome || s.cur.wS.await.isSome || s.issue.reg.isSome

/-- The address and threshold of a wait on an n-byte word: returns an acquired state, registers, or stops. `bidx` is the budget. At most
one registration per core exists (R289): a syllable that finds another one standing reads its word at each attempt until it can
register (log 23). -/
def awaitWord (va thr : W64) (n bidx : Nat) (s : State) : Except State State :=
  if va.toNat % n ≠ 0 then .error (s.accessFault (accFail 5 (va.toNat % 2 ^ 52)))
  else
    let a : VA := BitVec.ofNat 52 va.toNat
    match s.preW.await.filter fun r => r.slot == s.issue.slot with
    | some r =>
      if r.bad then .error ((s.noteUe (some r.loc)).dataError 3 va.toNat)
      else if thr.toNat ≤ r.seen.toNat then .ok (s.modW fun x => { x with await := none })
      else .error (s.waitOn 10 0 bidx a)
    | none =>
      (s.access 0 permR va.toNat n).bind fun (sn, s) =>
        let l := sn.place va.toNat
        let s := (s.serve [(l, n)]).bypass s.issue.core [(l, n)]
        let v : W64 := BitVec.ofNat 64 (s.rdN l n)
        if s.marked l n then .error ((s.noteUe (some l)).dataError 3 va.toNat)
        else if thr.toNat ≤ v.toNat then .ok s
        else
          let s := s.waitOn 10 0 bidx a
          if s.registered then .error s
          else .error { s with issue := { s.issue with
            reg := some { slot := s.issue.slot, va := a, loc := l, size := n, thr, seen := v, bad := false } } }

/-- AWAIT (R287-R289); its return is an acquire (R161). -/
def execAwait (st : BitVec 2) (a t : BitVec 6) (w : BitVec 4) (z : BitVec 1) (s : State) : Out :=
  done ((s.srcA st a).bind fun va => (s.srcA st t).bind fun thr =>
    (awaitWord va thr (if z = 0 then 8 else 4) w.toNat s).map fun s => s.modCur Core.acquire)

/-! ## Cache maintenance (R291) -/

/-- The range of a maintenance syllable, translated whole; none is an empty range. -/
def maintRange (p : Perm) (a n : W64) (s : State) : Except State (Option (Snap × State)) :=
  if a.toNat % 128 ≠ 0 ∨ n.toNat % 128 ≠ 0 then .error (s.accessFault (accFail 5 (a.toNat % 2 ^ 52)))
  else if n.toNat > 2 ^ 30 then .error (s.accessFault (accFail 8 (a.toNat % 2 ^ 52)))
  else if n = 0 then .ok none
  else (s.access 0 p a.toNat n.toNat).map some

/-- INVL1: exclusive lines stay (R291); their data are at the point of coherence here. -/
def execInvl1 (_ : BitVec 2) (s : State) : Out := .next (s.modCur fun k => { k with l1 := [] })
def execInvl1r (st : BitVec 2) (a b : BitVec 6) (s : State) : Out :=
  done ((s.srcA st a).bind fun va => (s.srcA st b).bind fun n =>
    (maintRange ⟨false, false, false⟩ va n s).map fun r =>
      match r with
      | none => s
      | some (sn, s) => s.modCur fun k => (sn.pieces va.toNat n.toNat).foldl (fun k p => k.dropL1 p.1 p.2) k)

/-- DISCARD (R136, R176, R291): a store-class access. -/
def execDiscard (st : BitVec 2) (a b : BitVec 6) (s : State) : Out :=
  done ((s.srcS st 0 a).bind fun va => (va.2.srcS st 0 b).bind fun n =>
    (maintRange permW va.1 n.1 n.2).map fun r =>
      match r with
      | none => n.2
      | some (sn, s) => s.issueStore (.discard (BitVec.ofNat 52 va.1.toNat) n.1.toNat) sn)

/-- CLEAN (R291): it changes no value and has no place in the order. -/
def execClean (st : BitVec 2) (a b : BitVec 6) (s : State) : Out :=
  done ((s.srcS st 0 a).bind fun va => (va.2.srcS st 0 b).bind fun n =>
    (maintRange permR va.1 n.1 n.2).map fun r =>
      match r with
      | none => n.2
      | some (_, s) => s)

/-- DISCARD is performed: cantilever lines are dropped and read as zero; other lines keep their data; own L1 copies go (R176). -/
def performDiscard (c : Nat) (op : StoreOp) (va : VA) (len : Nat) (s : State) : State :=
  (op.snap.pieces va.toNat len).foldl (fun s p =>
    let s := (s.recall p.1 p.2).modCore c fun k => k.dropL1 p.1 p.2
    if isCant p.1 then
      { s with mem := s.mem.zero p.1 p.2, ue := s.ue.filter (fun u => !covers p.1 p.2 u),
               cant := s.cant.filter fun e => !(linesOf p).contains e.1 }
    else s) s

/-! ## Rings (R280-R282) -/

/-- The ring that a ring name gives: owner's core, its rank, the ring number (R282). -/
def ringOwner (name : W64) (s : State) : Except State (Nat × Nat × Nat) :=
  let rank := fld name 0 4
  let n := fld name 4 3
  if rank ≥ fld s.cur.id.gsize 0 4 then .error (s.schedFault 7)
  else match s.peerCore s.issue.core rank with
    | none => .error (s.schedFault 7)
    | some o =>
      if (s.core o).done || !(vget (s.core o).rings n .reset).en then .error (s.schedFault 7) else .ok (o, rank, n)

def State.setRing (s : State) (c n : Nat) (r : Ring) : State := s.modCore c fun k => { k with rings := vset k.rings n r }

/-- RINIT of a configuration value (R281). -/
def ringInit (n : BitVec 3) (cfg : W64) (s : State) : Except State State :=
  let r := vget s.cur.rings n.toNat .reset
  let en := cfg.getLsbD 13
  let ns := fld cfg 6 7
  let s0 := fld cfg 0 6
  if en ∧ (ns < 1 ∨ 64 < ns ∨ 64 < s0 + ns) then .error (s.schedFault 7)
  else if r.tail ≠ r.head then .error (s.schedFault 8)
  else .ok (s.setRing s.issue.core n.toNat
    { head := 0, tail := 0, claimed := 0, nslot := BitVec.ofNat 7 ns, en, slot0 := BitVec.ofNat 6 s0, bits := 0 })

/-- RCLAIM at a ring name: the slot handle (R281). -/
def ringClaim (name : W64) (w : BitVec 4) (s : State) : Except State (W64 × State) :=
  (ringOwner name s).bind fun (o, rank, n) =>
    let r := vget (s.core o).rings n .reset
    if (r.tail - r.head).toNat ≥ r.nslot.toNat then .error (s.waitOn 6 n w.toNat)
    else
      let k := r.tail.toNat % r.nslot.toNat
      let base := tBase ((s.core o).tile (r.slot0.toNat + k)).w0
      .ok (BitVec.ofNat 64 (k <<< 56 ||| ownWindow rank ||| base),
        s.setRing o n { r with tail := r.tail + 1, claimed := r.claimed + 1, bits := r.bits ||| ((1 : W64) <<< k) })

/-- RPUB of a handle at a ring name (R162, R281): the claim ends at issue, the fill waits for the release (log 19). -/
def ringPub (h name : W64) (s : State) : Except State State :=
  (ringOwner name s).bind fun (o, _, n) =>
    let r := vget (s.core o).rings n .reset
    let k := fld h 56 6
    let t := r.slot0.toNat + k
    if !r.bits.getLsbD k then .error (s.schedFault 8)
    else if !((s.core o).tile t).defd then .error (s.schedFault 3)
    else
      let p : Pub := { owner := o, ring := BitVec.ofNat 3 n, tile := (s.core o).tileRef (BitVec.ofNat 6 t), walk := s.walk }
      .ok ((s.setRing o n { r with bits := r.bits &&& ~~~((1 : W64) <<< k) }).modCur fun c => { c with pubs := c.pubs ++ [p] })

/-- The issuer's own ring, which must be enabled (R282), and the tile of its head slot. -/
def ringHead (n : BitVec 3) (s : State) : Except State (Ring × TileRef × Tile) :=
  let r := vget s.cur.rings n.toNat .reset
  if !r.en then .error (s.schedFault 7)
  else
    let t := r.slot0.toNat + r.head.toNat % r.nslot.toNat
    .ok (r, s.cur.tileRef (BitVec.ofNat 6 t), s.cur.tile t)

/-- RWAITF (R281): an acquire at gang scope that leaves L1 as it is (R162). -/
def ringWait (n : BitVec 3) (w : BitVec 4) (s : State) : Except State State :=
  (ringHead n s).bind fun (_, _, x) =>
    let d := (x.fill - x.use).toNat
    if !x.defd then .error (s.schedFault 3)
    else if d = 0 then .error (s.waitOn 6 n.toNat w.toNat)
    else if d = 1 then .ok s
    else .error (s.schedFault (if d < 2 ^ 15 then 1 else 2))

/-- RREL (R281). A head slot whose tile has DEF = 0 takes cause 8 as one that holds nothing to release: R281 names cause 3 for RPUB and
RWAITF alone (log 100). -/
def ringRel (n : BitVec 3) (s : State) : Except State State :=
  (ringHead n s).bind fun (r, ref, x) =>
    if !x.defd ∨ x.fill - x.use ≠ 1 then .error (s.schedFault 8)
    else .ok ((s.modCur fun k => k.releaseTile ref).setRing s.issue.core n.toNat { r with head := r.head + 1 })

/-- A source that A (x = 0) or S (x = 1) names (R280). -/
def asVal (x : BitVec 1) (st : BitVec 2) (bidx : Nat) (c : BitVec 6) (s : State) : Except State (W64 × State) :=
  if x = 0 then (s.srcA st c).map fun v => (v, s) else s.srcS st bidx c
/-- A destination of A or S. -/
def asPut (x : BitVec 1) (d : BitVec 6) (v : W64) (s : State) : State := if x = 0 then s.wrA d v else s.wrS d v

def execRinit (x : BitVec 1) (st : BitVec 2) (c : BitVec 6) (n : BitVec 3) (s : State) : Out :=
  done ((asVal x st 0 c s).bind fun v => ringInit n v.1 v.2)
def execRclaim (x : BitVec 1) (st : BitVec 2) (d n : BitVec 6) (w : BitVec 4) (s : State) : Out :=
  done ((asVal x st w.toNat n s).bind fun v => (ringClaim v.1 w v.2).map fun r => asPut x d r.1 r.2)
/-- RPUB (R281). In S with sq in both fields the handle of [21:16] is popped first: the fields of format T stand in no order of R255 (log 99). -/
def execRpub (x : BitVec 1) (st : BitVec 2) (h n : BitVec 6) (s : State) : Out :=
  done ((asVal x st 0 h s).bind fun v => (asVal x st 0 n v.2).bind fun m => ringPub v.1 m.1 m.2)
def execRwaitf (_ : BitVec 1) (_ : BitVec 2) (n : BitVec 3) (w : BitVec 4) (s : State) : Out := done (ringWait n w s)
def execRrel (_ : BitVec 1) (_ : BitVec 2) (n : BitVec 3) (s : State) : Out := done (ringRel n s)

/-- The X forms read g registers; a poisoned operand traps (R280). -/
def execRinitX (_ : BitVec 2) (c : BitVec 6) (n : BitVec 3) (s : State) : Out :=
  done ((s.cleanG c).bind fun v => ringInit n v s)
def execRclaimX (_ : BitVec 2) (d n : BitVec 6) (w : BitVec 4) (s : State) : Out :=
  done ((s.cleanG n).bind fun v => (ringClaim v w s).map fun r => r.2.wrG d (clean r.1))
def execRpubX (_ : BitVec 2) (h n : BitVec 6) (s : State) : Out :=
  done ((s.cleanG h).bind fun v => (s.cleanG n).bind fun m => ringPub v m s)
def execRwaitfX (_ : BitVec 2) (n : BitVec 3) (w : BitVec 4) (s : State) : Out := done (ringWait n w s)
def execRrelX (_ : BitVec 2) (n : BitVec 3) (s : State) : Out := done (ringRel n s)

/-! ## Semaphores (R146, R283) -/

/-- Semaphore m takes n increments. -/
def Core.semAdd (k : Core) (m n : Nat) : Core := { k with sems := vset k.sems m ((vget k.sems m .reset).add n) }

/-- SEMSIG: n is added once the stores before it are performed. -/
def execSemsig (_ : BitVec 2) (m n : BitVec 6) (s : State) : Out :=
  if s.cur.stores = [] then .next (s.modCur fun k => k.semAdd m.toNat (n.toNat + 1))
  else .next (s.issueStore (.semsig (m.setWidth 5) (n.toNat + 1)) [])
/-- SEMADD. -/
def execSemadd (_ : BitVec 2) (m n : BitVec 6) (s : State) : Out := .next (s.modCur fun k => k.semAdd m.toNat (n.toNat + 1))
/-- SEMCLR. -/
def execSemclr (_ : BitVec 2) (m : BitVec 6) (s : State) : Out :=
  .next (s.modCur fun k => { k with sems := vset k.sems m.toNat ⟨0, false⟩ })

/-! ## What follows when accesses are performed -/

/-- SEMSIGs at the head of S's order take effect (R283). -/
def Core.semsigs : Nat → Core → Core
  | 0, k => k
  | f + 1, k =>
    match k.stores with
    | t :: _ => (match t.kind with
      | .semsig m n => Core.semsigs f (k.storePop.semAdd m.toNat n)
      | _ => k)
    | [] => k

/-- The publications of core c whose release is complete take effect, oldest first (R162). -/
def State.publish : List Pub → State → Nat → State
  | [], s, _ => s
  | p :: r, s, c =>
    if (s.core c).releaseDone p.walk then
      let s := s.modCore p.owner fun k =>
        let x := vget k.rings p.ring.toNat .reset
        let y : Ring := { x with claimed := x.claimed - 1 }
        { k.fillTile p.tile none with rings := vset k.rings p.ring.toNat y }
      State.publish r s c
    else State.publish r (s.modCore c fun k => { k with pubs := k.pubs ++ [p] }) c

/-- Core c after a step: semaphore signals and publications that wait for nothing more take effect. -/
def State.settle (s : State) (c : Nat) : State :=
  let s := if (s.core c).stores = [] then s else s.modCore c fun k => Core.semsigs k.stores.length k
  let ps := (s.core c).pubs
  if ps = [] then s else State.publish ps (s.modCore c fun k => { k with pubs := [] }) c

end Sys2Proof.Machine
end

