-- ==== Sys2Proof/Machine/Scalar.lean ====
section
/-! DEFINITION. The scalar part of the X stream (07 R242-R252): integer and FP32 operations on g registers, queue operations, CHK, and
the system registers with the two software traps. -/

namespace Sys2Proof.Machine

/-! ## Integer operations -/

/-- An operation on two g registers; poison spreads in operand order (R72). -/
def xAlu (f : W64 → W64 → W64) (d a b : BitVec 6) (s : State) : Out :=
  let x := s.rdG a
  let y := s.rdG b
  .next (s.wrG d (poisoned [x, y] (f x.value y.value)))
/-- An operation on one g register. -/
def xUn (f : W64 → W64) (d a : BitVec 6) (s : State) : Out :=
  let x := s.rdG a
  .next (s.wrG d (poisoned [x] (f x.value)))
def execAdd (_ : BitVec 2) (d a b : BitVec 6) (s : State) : Out := xAlu (fun x y => x + y) d a b s
def execSub (_ : BitVec 2) (d a b : BitVec 6) (s : State) : Out := xAlu (fun x y => x - y) d a b s
def execAnd (_ : BitVec 2) (d a b : BitVec 6) (s : State) : Out := xAlu (fun x y => x &&& y) d a b s
def execOr (_ : BitVec 2) (d a b : BitVec 6) (s : State) : Out := xAlu (fun x y => x ||| y) d a b s
def execXor (_ : BitVec 2) (d a b : BitVec 6) (s : State) : Out := xAlu (fun x y => x ^^^ y) d a b s
def execAndn (_ : BitVec 2) (d a b : BitVec 6) (s : State) : Out := xAlu aluAndn d a b s
def execShl (_ : BitVec 2) (d a b : BitVec 6) (s : State) : Out := xAlu aluShl d a b s
def execShr (_ : BitVec 2) (d a b : BitVec 6) (s : State) : Out := xAlu aluShr d a b s
def execSra (_ : BitVec 2) (d a b : BitVec 6) (s : State) : Out := xAlu aluSra d a b s
def execMin (_ : BitVec 2) (d a b : BitVec 6) (s : State) : Out := xAlu aluMin d a b s
def execMax (_ : BitVec 2) (d a b : BitVec 6) (s : State) : Out := xAlu aluMax d a b s
def execMinu (_ : BitVec 2) (d a b : BitVec 6) (s : State) : Out := xAlu aluMinu d a b s
def execMaxu (_ : BitVec 2) (d a b : BitVec 6) (s : State) : Out := xAlu aluMaxu d a b s
def execAddw (_ : BitVec 2) (d a b : BitVec 6) (s : State) : Out := xAlu aluAddw d a b s
def execSubw (_ : BitVec 2) (d a b : BitVec 6) (s : State) : Out := xAlu aluSubw d a b s
def execClz (_ : BitVec 2) (d a : BitVec 6) (s : State) : Out := xUn aluClz d a s
/-- Products and quotients (R244). -/
def execMul (_ : BitVec 2) (d a b : BitVec 6) (s : State) : Out := xAlu (fun x y => x * y) d a b s
def execMulh (_ : BitVec 2) (d a b : BitVec 6) (s : State) : Out := xAlu mulhS d a b s
def execMulhu (_ : BitVec 2) (d a b : BitVec 6) (s : State) : Out := xAlu mulhU d a b s
def execMulhsu (_ : BitVec 2) (d a b : BitVec 6) (s : State) : Out := xAlu mulhSU d a b s
def execDiv (_ : BitVec 2) (d a b : BitVec 6) (s : State) : Out := xAlu divS d a b s
def execDivu (_ : BitVec 2) (d a b : BitVec 6) (s : State) : Out := xAlu divU d a b s
def execRem (_ : BitVec 2) (d a b : BitVec 6) (s : State) : Out := xAlu remS d a b s
def execRemu (_ : BitVec 2) (d a b : BitVec 6) (s : State) : Out := xAlu remU d a b s
def execMulw (_ : BitVec 2) (d a b : BitVec 6) (s : State) : Out := xAlu (wordOp fun x y => x * y) d a b s
def execDivw (_ : BitVec 2) (d a b : BitVec 6) (s : State) : Out := xAlu (wordOp divS) d a b s
def execDivuw (_ : BitVec 2) (d a b : BitVec 6) (s : State) : Out := xAlu (wordOp divU) d a b s
def execRemw (_ : BitVec 2) (d a b : BitVec 6) (s : State) : Out := xAlu (wordOp remS) d a b s
def execRemuw (_ : BitVec 2) (d a b : BitVec 6) (s : State) : Out := xAlu (wordOp remU) d a b s
def execAddi (_ : BitVec 2) (d a : BitVec 6) (i : BitVec 10) (s : State) : Out :=
  xUn (fun x => x + immW (immVal i.toNat 10 true s.issue.exts)) d a s
/-- LI (R242). -/
def execLi (_ : BitVec 2) (d : BitVec 6) (i : BitVec 16) (s : State) : Out :=
  .next (s.wrG d (clean (immW (immVal i.toNat 16 true s.issue.exts))))

/-- LOGI: gd is source and destination (R243). -/
def xLogi (f : W64 → W64 → W64) (d : BitVec 6) (i : BitVec 10) (s : State) : Out :=
  xUn (fun x => f x (immW (immVal i.toNat 10 true s.issue.exts))) d d s
def execAndi (_ : BitVec 2) (d : BitVec 6) (i : BitVec 10) (s : State) : Out := xLogi (fun x y => x &&& y) d i s
def execOri (_ : BitVec 2) (d : BitVec 6) (i : BitVec 10) (s : State) : Out := xLogi (fun x y => x ||| y) d i s
def execXori (_ : BitVec 2) (d : BitVec 6) (i : BitVec 10) (s : State) : Out := xLogi (fun x y => x ^^^ y) d i s
def execAndni (_ : BitVec 2) (d : BitVec 6) (i : BitVec 10) (s : State) : Out := xLogi aluAndn d i s
/-- SHIFTI by n from 0 to 63; a larger n is an illegal syllable (R243). -/
def xShifti (f : W64 → Nat → W64) (d : BitVec 6) (i : BitVec 10) (s : State) : Out :=
  xUn (fun x => f x (immVal i.toNat 10 false s.issue.exts).toNat) d d s
def execShli (_ : BitVec 2) (d : BitVec 6) (i : BitVec 10) (s : State) : Out := xShifti (fun x n => x <<< n) d i s
def execShri (_ : BitVec 2) (d : BitVec 6) (i : BitVec 10) (s : State) : Out := xShifti (fun x n => x >>> n) d i s
def execSrai (_ : BitVec 2) (d : BitVec 6) (i : BitVec 10) (s : State) : Out := xShifti (fun x n => x.sshiftRight n) d i s
def execRori (_ : BitVec 2) (d : BitVec 6) (i : BitVec 10) (s : State) : Out := xShifti (fun x n => x.rotateRight n) d i s

/-! ## Compares and SEL (R245) -/

def execSeq (_ : BitVec 2) (d a b : BitVec 6) (s : State) : Out := xAlu (fun x y => boolW (x == y)) d a b s
def execSne (_ : BitVec 2) (d a b : BitVec 6) (s : State) : Out := xAlu (fun x y => boolW (x != y)) d a b s
def execSlt (_ : BitVec 2) (d a b : BitVec 6) (s : State) : Out := xAlu cmpSlt d a b s
def execSltu (_ : BitVec 2) (d a b : BitVec 6) (s : State) : Out := xAlu cmpSltu d a b s
def execSle (_ : BitVec 2) (d a b : BitVec 6) (s : State) : Out := xAlu cmpSle d a b s
def execSleu (_ : BitVec 2) (d a b : BitVec 6) (s : State) : Out := xAlu cmpSleu d a b s
def execSel (_ : BitVec 2) (d a b : BitVec 6) (s : State) : Out :=
  .next (s.wrG d (selPoison (s.rdG d) (s.rdG a) (s.rdG b)))

/-! ## Queues and checks (R246-R248) -/

def execPushs (_ : BitVec 2) (g : BitVec 6) (s : State) : Out := done (s.pushSQ (s.rdG g))
def execPusha (_ : BitVec 2) (g : BitVec 6) (s : State) : Out := done (s.pushAQ (s.rdG g))
/-- PUSHB and PUSHK: a poisoned operand traps (R61). -/
def execPushb (_ : BitVec 2) (g : BitVec 6) (s : State) : Out := done ((s.cleanG g).bind fun v => s.pushBQ (v != 0))
def execPushk (_ : BitVec 2) (g : BitVec 6) (s : State) : Out := done ((s.cleanG g).bind fun v => s.pushKQ v)
def execPopl (_ : BitVec 2) (d : BitVec 6) (w : BitVec 4) (s : State) : Out :=
  done ((s.popLQ w.toNat).map fun p => p.2.wrG d ⟨p.1.value, p.1.psn⟩)
/-- QPOPF: value and flag; a poisoned entry poisons both with its value (R246). Where both name one register the flag remains, which
no rule says (log 74). -/
def execQpopf (_ : BitVec 2) (d b : BitVec 6) (w : BitVec 4) (s : State) : Out :=
  done ((s.popLQ w.toNat).map fun p =>
    let s := p.2.wrG d ⟨p.1.value, p.1.psn⟩
    s.wrG b (if p.1.psn then ⟨p.1.value, true⟩ else clean (boolW p.1.flg)))
def execChk (_ : BitVec 2) (g : BitVec 6) (s : State) : Out := done ((s.cleanG g).map fun _ => s)
def execChkt (_ : BitVec 2) (t : BitVec 6) (s : State) : Out :=
  let x := s.issue.pre.tile t.toNat
  if !x.defd then .next (s.schedFault 3) else done ((s.tileClean x).map fun _ => s)

/-! ## Scalar FP32 (R249) -/

/-- The low half of a g register, and a result in it. -/
def lo32 (x : W64) : W32 := x.setWidth 32
def hi0 (x : W32) : W64 := x.setWidth 64
def execFadd (_ : BitVec 2) (d a b : BitVec 6) (s : State) : Out := xAlu (fun x y => hi0 (addF32 (lo32 x) (lo32 y))) d a b s
def execFsub (_ : BitVec 2) (d a b : BitVec 6) (s : State) : Out := xAlu (fun x y => hi0 (subF32 (lo32 x) (lo32 y))) d a b s
def execFmul (_ : BitVec 2) (d a b : BitVec 6) (s : State) : Out := xAlu (fun x y => hi0 (mulF32 (lo32 x) (lo32 y))) d a b s
def execFmin (_ : BitVec 2) (d a b : BitVec 6) (s : State) : Out := xAlu (fun x y => hi0 (minF32 (lo32 x) (lo32 y))) d a b s
def execFmax (_ : BitVec 2) (d a b : BitVec 6) (s : State) : Out := xAlu (fun x y => hi0 (maxF32 (lo32 x) (lo32 y))) d a b s
def execFeq (_ : BitVec 2) (d a b : BitVec 6) (s : State) : Out := xAlu (fun x y => boolW (eqF32 (lo32 x) (lo32 y))) d a b s
def execFlt (_ : BitVec 2) (d a b : BitVec 6) (s : State) : Out := xAlu (fun x y => boolW (ltF32 (lo32 x) (lo32 y))) d a b s
def execFle (_ : BitVec 2) (d a b : BitVec 6) (s : State) : Out := xAlu (fun x y => boolW (leF32 (lo32 x) (lo32 y))) d a b s
/-- FMAC: gd is read before it is written, and counts last for poison (R249). -/
def execFmac (_ : BitVec 2) (d a b : BitVec 6) (s : State) : Out :=
  let x := s.rdG a
  let y := s.rdG b
  let z := s.rdG d
  .next (s.wrG d (poisoned [x, y, z] (hi0 (fmaF32 (lo32 x.value) (lo32 y.value) (lo32 z.value) false false))))
def execFcvtif (_ : BitVec 2) (d a : BitVec 6) (s : State) : Out := xUn (fun x => hi0 (to32 (intVal x.toInt))) d a s
def execFcvtfi (_ : BitVec 2) (d a : BitVec 6) (s : State) : Out :=
  xUn (fun x => BitVec.ofInt 64 (truncInt 64 (decode32 (lo32 x)))) d a s
def execFabs (_ : BitVec 2) (d a : BitVec 6) (s : State) : Out := xUn (fun x => hi0 (absF32 (lo32 x))) d a s
def execFneg (_ : BitVec 2) (d a : BitVec 6) (s : State) : Out := xUn (fun x => hi0 (negF32 (lo32 x))) d a s

/-! ## System registers (R250-R252) -/

/-- BARSTAT (R235). -/
def State.barstat (s : State) : W64 :=
  let k := s.issue.pre
  let next := match s.gangAt s.issue.core with
    | some g => nth g.arr k.rank 0
    | none => 0
  BitVec.ofNat 64 (b2n k.late <<< 48 ||| (next % 0x10000) <<< 32 ||| s.lastPhase s.issue.core)

/-- TD.n.W1 (R114). -/
def Tile.w1 (t : Tile) : W64 :=
  BitVec.ofNat 64 (b2n t.defd <<< 33 ||| b2n t.psn <<< 32 ||| t.fill.toNat <<< 16 ||| t.use.toNat)
/-- CHSTAT.n and CHPACK.n (R140). -/
def Chan.stat (c : Chan) : W64 :=
  let st := match c.state with | .idle => 0 | .active => 1 | .halted => 2
  BitVec.ofNat 64 (st <<< 62 ||| b2n c.dsp <<< 61 ||| c.wmark % 2 ^ 40)
/-- RGSTAT.n (R144). -/
def Ring.stat (r : Ring) : W64 :=
  BitVec.ofNat 64 (r.head.toNat <<< 48 ||| r.tail.toNat <<< 32 ||| r.claimed.toNat <<< 25 ||| r.nslot.toNat <<< 18
    ||| b2n r.en <<< 17 ||| r.slot0.toNat)
/-- SMSTAT.n (R146). -/
def Sem.stat (m : Sem) : W64 := BitVec.ofNat 64 (b2n m.ovf <<< 32 ||| m.count.toNat)

/-- CYCLE of core c (R252): 0.85 cycles for each nanosecond of TIME from a phase of its own, but for what droop has stretched (log 92). -/
def State.cycleCount (s : State) (c : Nat) (k : Core) : W64 :=
  BitVec.ofNat 64 ((17 * s.time.toNat + Config.clockPhase c - k.lost) / 20)

/-- A system register by its number, as the issuing part reads it (R251); X's own copies of the per-walker state. -/
def State.sysReg (s : State) (st : BitVec 2) (n : Nat) : W64 :=
  let k := s.issue.pre
  if n = 0 then k.id.core else if n = 1 then k.id.gang else if n = 2 then k.id.ngang else if n = 3 then k.id.gsize
  else if n = 4 then k.id.cluster else if n = 5 then k.id.die else if n = 6 then k.id.dev else if n = 7 then k.id.inst
  else if n = 8 then s.time
  else if n = 9 then s.cycleCount s.issue.core k
  else if n = 0xA then k.srkey
  else if n = 0xB then BitVec.ofNat 64 k.slip.toNat
  else if n = 0xC then s.barstat
  else if n = 0xD then (match s.gangAt s.issue.core with
    | some g => BitVec.ofNat 64 g.carve
    | none => 0)
  else if n = 0xE then hi0 k.dscale
  else if n < 0x20 then BitVec.ofNat 64 (s.preW.budget (n - 0x10))
  else if n < 0x30 then s.rdK (n - 0x20)
  else if n < 0x40 then s.rdLc st (n - 0x30)
  else if n < 0xC0 then
    let t := k.tile ((n - 0x40) / 2)
    if n % 2 = 0 then t.w0 else t.w1
  else if n < 0xD0 then (vget k.chans (n - 0xC0) .reset).stat
  else if n < 0xE0 then hi0 (vget k.chans (n - 0xD0) .reset).pcount
  else if n < 0x100 then (vget k.rings (n - 0xE0) .reset).stat
  else (vget k.sems (n - 0x100) .reset).stat

/-- RDSYS; a read of BARSTAT clears LATE (R10, R235). -/
def execRdsys (st : BitVec 2) (d : BitVec 6) (n : BitVec 14) (s : State) : Out :=
  let v := s.sysReg st n.toNat
  let s := if n = 0xC then s.modCur fun k => { k with late := false } else s
  .next (s.wrG d (clean v))

/-- WRSYS: DSCALE alone has a writable field (R251, R252). -/
def execWrsys (_ : BitVec 2) (a : BitVec 6) (n : BitVec 14) (s : State) : Out :=
  done ((s.cleanG a).map fun v => if n = 0xE then s.modCur fun k => { k with dscale := lo32 v } else s)

/-- TRAP and EBREAK stop X at its bundle (R250). -/
def execTrap (_ : BitVec 2) (c : BitVec 14) (s : State) : Out := .next (s.programTrap c.toNat)
def execEbreak (_ : BitVec 2) (c : BitVec 14) (s : State) : Out := .next (s.breakpoint c.toNat)

end Sys2Proof.Machine
end

