-- ==== Sys2Proof/Machine/Vector.lean ====
section
/-! DEFINITION. The vector unit (09 R293-R315) and its form on an abutment engine (R317, 11 R363): every syllable acts on 256 lanes of
the issuing core, or on 64 lanes of the abutment run at hand. Lanes are read as the part found them (R47). -/

namespace Sys2Proof.Machine

/-! ## Lanes (R293, R317) -/

/-- Lanes of the unit that issues. -/
def State.lanes (s : State) : Nat := if s.issue.abut then 64 else 256

/-- Lane i of v register r. -/
def State.rdV32 (s : State) (r : BitVec 5) (i : Nat) : W32 :=
  if s.issue.abut then
    match s.issue.preAbut with
    | some a => vget (vget a.v r.toNat (.replicate 64 0)) i 0
    | none => 0
  else vget (vget s.issue.pre.v r.toNat (.replicate 256 0)) i 0

/-- Bit i of mask r; m0 is all ones. -/
def State.rdM (s : State) (r : BitVec 3) (i : Nat) : Bool :=
  r = 0 || if s.issue.abut then
    match s.issue.preAbut with
    | some a => (vget a.m r.toNat 0).getLsbD i
    | none => false
  else (vget s.issue.pre.m r.toNat 0).getLsbD i

/-- A write of every lane of v register r. -/
def State.wrV32 (s : State) (r : BitVec 5) (f : Nat → W32) : State :=
  if s.issue.abut then
    { s with abut := s.abut.map fun a => { a with v := vset a.v r.toNat (vecOf 64 f) } }
  else s.modCur fun k => { k with v := vset k.v r.toNat (vecOf 256 f) }

/-- The number whose bit i is f i, for i below n. -/
def bitsFrom (n : Nat) (f : Nat → Bool) : Nat := (List.range n).foldl (fun a i => if f i then a + 2 ^ i else a) 0

/-- A write of mask r; a write to m0 is discarded (R293). -/
def State.wrM (s : State) (r : BitVec 3) (f : Nat → Bool) : State :=
  if r = 0 then s
  else if s.issue.abut then
    { s with abut := s.abut.map fun a => { a with m := vset a.m r.toNat (BitVec.ofNat 64 (bitsFrom 64 f)) } }
  else s.modCur fun k => { k with m := vset k.m r.toNat (BitVec.ofNat 256 (bitsFrom 256 f)) }

/-- A masked result: an inactive lane keeps its old value (R294). -/
def vMasked (f : State → Nat → W32) (d : BitVec 5) (m : BitVec 3) (s : State) : Out :=
  .next (s.wrV32 d fun i => if s.rdM m i then f s i else s.rdV32 d i)
/-- A masked operation on two sources. -/
def vBin (f : W32 → W32 → W32) (d a b : BitVec 5) (m : BitVec 3) (s : State) : Out :=
  vMasked (fun s i => f (s.rdV32 a i) (s.rdV32 b i)) d m s
/-- A masked operation on one source. -/
def vUn (f : W32 → W32) (d a : BitVec 5) (m : BitVec 3) (s : State) : Out := vMasked (fun s i => f (s.rdV32 a i)) d m s

/-! ## FP32 lanes (R298, R299) -/

def execVfadd (_ : BitVec 2) (d a b : BitVec 5) (m : BitVec 3) (s : State) : Out := vBin addF32 d a b m s
def execVfsub (_ : BitVec 2) (d a b : BitVec 5) (m : BitVec 3) (s : State) : Out := vBin subF32 d a b m s
def execVfmul (_ : BitVec 2) (d a b : BitVec 5) (m : BitVec 3) (s : State) : Out := vBin mulF32 d a b m s
def execVfmin (_ : BitVec 2) (d a b : BitVec 5) (m : BitVec 3) (s : State) : Out := vBin minF32 d a b m s
def execVfmax (_ : BitVec 2) (d a b : BitVec 5) (m : BitVec 3) (s : State) : Out := vBin maxF32 d a b m s
def execVfabs (_ : BitVec 2) (d a : BitVec 5) (m : BitVec 3) (s : State) : Out := vUn absF32 d a m s
def execVfneg (_ : BitVec 2) (d a : BitVec 5) (m : BitVec 3) (s : State) : Out := vUn negF32 d a m s
/-- VFMA writes every lane, rounded once (R299). -/
def vFma (negP negC : Bool) (d a b c : BitVec 5) (s : State) : Out :=
  .next (s.wrV32 d fun i => fmaF32 (s.rdV32 a i) (s.rdV32 b i) (s.rdV32 c i) negP negC)
def execVfma (_ : BitVec 2) (d a b c : BitVec 5) (s : State) : Out := vFma false false d a b c s
def execVfms (_ : BitVec 2) (d a b c : BitVec 5) (s : State) : Out := vFma false true d a b c s
def execVfnma (_ : BitVec 2) (d a b c : BitVec 5) (s : State) : Out := vFma true false d a b c s
def execVfnms (_ : BitVec 2) (d a b c : BitVec 5) (s : State) : Out := vFma true true d a b c s

/-! ## Integer lanes (R300, R301) -/

/-- A signed result clamped to 32 bits. -/
def satI32 (i : Int) : W32 := BitVec.ofInt 32 (max (-(2 ^ 31 : Nat)) (min ((2 ^ 31 : Nat) - 1) i))
/-- Number of 1 bits. -/
def popcount (n x : Nat) : Nat := (List.range n).countP fun i => x.testBit i
def execVadd (_ : BitVec 2) (d a b : BitVec 5) (m : BitVec 3) (s : State) : Out := vBin (fun x y => x + y) d a b m s
def execVsub (_ : BitVec 2) (d a b : BitVec 5) (m : BitVec 3) (s : State) : Out := vBin (fun x y => x - y) d a b m s
def execVmul (_ : BitVec 2) (d a b : BitVec 5) (m : BitVec 3) (s : State) : Out := vBin (fun x y => x * y) d a b m s
def execVmulh (_ : BitVec 2) (d a b : BitVec 5) (m : BitVec 3) (s : State) : Out := vBin (fun x y => BitVec.ofInt 32 (x.toInt * y.toInt / (2 ^ 32 : Nat))) d a b m s
def execVmin (_ : BitVec 2) (d a b : BitVec 5) (m : BitVec 3) (s : State) : Out := vBin (fun x y => if x.toInt ≤ y.toInt then x else y) d a b m s
def execVmax (_ : BitVec 2) (d a b : BitVec 5) (m : BitVec 3) (s : State) : Out := vBin (fun x y => if x.toInt ≤ y.toInt then y else x) d a b m s
def execVminu (_ : BitVec 2) (d a b : BitVec 5) (m : BitVec 3) (s : State) : Out := vBin (fun x y => if x.toNat ≤ y.toNat then x else y) d a b m s
def execVmaxu (_ : BitVec 2) (d a b : BitVec 5) (m : BitVec 3) (s : State) : Out := vBin (fun x y => if x.toNat ≤ y.toNat then y else x) d a b m s
def execVand (_ : BitVec 2) (d a b : BitVec 5) (m : BitVec 3) (s : State) : Out := vBin (fun x y => x &&& y) d a b m s
def execVor (_ : BitVec 2) (d a b : BitVec 5) (m : BitVec 3) (s : State) : Out := vBin (fun x y => x ||| y) d a b m s
def execVxor (_ : BitVec 2) (d a b : BitVec 5) (m : BitVec 3) (s : State) : Out := vBin (fun x y => x ^^^ y) d a b m s
def execVandn (_ : BitVec 2) (d a b : BitVec 5) (m : BitVec 3) (s : State) : Out := vBin (fun x y => x &&& ~~~y) d a b m s
def execVadds (_ : BitVec 2) (d a b : BitVec 5) (m : BitVec 3) (s : State) : Out := vBin (fun x y => satI32 (x.toInt + y.toInt)) d a b m s
def execVsubs (_ : BitVec 2) (d a b : BitVec 5) (m : BitVec 3) (s : State) : Out := vBin (fun x y => satI32 (x.toInt - y.toInt)) d a b m s
def execVabs (_ : BitVec 2) (d a : BitVec 5) (m : BitVec 3) (s : State) : Out := vUn (fun x => satI32 x.toInt.natAbs) d a m s
def execVpopc (_ : BitVec 2) (d a : BitVec 5) (m : BitVec 3) (s : State) : Out := vUn (fun x => BitVec.ofNat 32 (popcount 32 x.toNat)) d a m s
def execVshl (_ : BitVec 2) (d a b : BitVec 5) (m : BitVec 3) (s : State) : Out := vBin (fun x y => x <<< (y.toNat % 32)) d a b m s
def execVshr (_ : BitVec 2) (d a b : BitVec 5) (m : BitVec 3) (s : State) : Out := vBin (fun x y => x >>> (y.toNat % 32)) d a b m s
def execVsra (_ : BitVec 2) (d a b : BitVec 5) (m : BitVec 3) (s : State) : Out := vBin (fun x y => x.sshiftRight (y.toNat % 32)) d a b m s
def execVrot (_ : BitVec 2) (d a b : BitVec 5) (m : BitVec 3) (s : State) : Out := vBin (fun x y => x.rotateRight (y.toNat % 32)) d a b m s
def execVshli (_ : BitVec 2) (d a n : BitVec 5) (m : BitVec 3) (s : State) : Out := vUn (fun x => x <<< n.toNat) d a m s
def execVshri (_ : BitVec 2) (d a n : BitVec 5) (m : BitVec 3) (s : State) : Out := vUn (fun x => x >>> n.toNat) d a m s
def execVsrai (_ : BitVec 2) (d a n : BitVec 5) (m : BitVec 3) (s : State) : Out := vUn (fun x => x.sshiftRight n.toNat) d a m s

/-! ## Compares, selection, mask logic (R302-R304) -/

/-- VCMP: an inactive lane gives 0 (R302). -/
def vCmp (t : W32 → W32 → Bool) (d : BitVec 3) (a b : BitVec 5) (m : BitVec 3) (s : State) : Out :=
  .next (s.wrM d fun i => s.rdM m i && t (s.rdV32 a i) (s.rdV32 b i))
def execVfeq (_ : BitVec 2) (d : BitVec 3) (a b : BitVec 5) (m : BitVec 3) (s : State) : Out := vCmp eqF32 d a b m s
def execVflt (_ : BitVec 2) (d : BitVec 3) (a b : BitVec 5) (m : BitVec 3) (s : State) : Out := vCmp ltF32 d a b m s
def execVfle (_ : BitVec 2) (d : BitVec 3) (a b : BitVec 5) (m : BitVec 3) (s : State) : Out := vCmp leF32 d a b m s
def execVfunord (_ : BitVec 2) (d : BitVec 3) (a b : BitVec 5) (m : BitVec 3) (s : State) : Out := vCmp (fun x y => (decode32 x).isNan || (decode32 y).isNan) d a b m s
def execVeq (_ : BitVec 2) (d : BitVec 3) (a b : BitVec 5) (m : BitVec 3) (s : State) : Out := vCmp (fun x y => x == y) d a b m s
def execVne (_ : BitVec 2) (d : BitVec 3) (a b : BitVec 5) (m : BitVec 3) (s : State) : Out := vCmp (fun x y => x != y) d a b m s
def execVlt (_ : BitVec 2) (d : BitVec 3) (a b : BitVec 5) (m : BitVec 3) (s : State) : Out := vCmp (fun x y => decide (x.toInt < y.toInt)) d a b m s
def execVltu (_ : BitVec 2) (d : BitVec 3) (a b : BitVec 5) (m : BitVec 3) (s : State) : Out := vCmp (fun x y => decide (x.toNat < y.toNat)) d a b m s
def execVle (_ : BitVec 2) (d : BitVec 3) (a b : BitVec 5) (m : BitVec 3) (s : State) : Out := vCmp (fun x y => decide (x.toInt ≤ y.toInt)) d a b m s
def execVleu (_ : BitVec 2) (d : BitVec 3) (a b : BitVec 5) (m : BitVec 3) (s : State) : Out := vCmp (fun x y => decide (x.toNat ≤ y.toNat)) d a b m s
/-- VSEL writes every lane (R303). -/
def execVsel (_ : BitVec 2) (d a b : BitVec 5) (m : BitVec 3) (s : State) : Out :=
  .next (s.wrV32 d fun i => if s.rdM m i then s.rdV32 a i else s.rdV32 b i)
/-- VMASK on two masks (R304). -/
def vMask2 (f : Bool → Bool → Bool) (d a b : BitVec 3) (s : State) : Out := .next (s.wrM d fun i => f (s.rdM a i) (s.rdM b i))
def execMand (_ : BitVec 2) (d a b : BitVec 3) (s : State) : Out := vMask2 (fun x y => x && y) d a b s
def execMor (_ : BitVec 2) (d a b : BitVec 3) (s : State) : Out := vMask2 (fun x y => x || y) d a b s
def execMxor (_ : BitVec 2) (d a b : BitVec 3) (s : State) : Out := vMask2 (fun x y => x != y) d a b s
def execMandn (_ : BitVec 2) (d a b : BitVec 3) (s : State) : Out := vMask2 (fun x y => x && !y) d a b s
def execMnot (_ : BitVec 2) (d a : BitVec 3) (s : State) : Out := .next (s.wrM d fun i => !s.rdM a i)
/-- Only the lowest set bit (R304). -/
def execMfirst (_ : BitVec 2) (d a : BitVec 3) (s : State) : Out :=
  let low := (List.range s.lanes).find? fun i => s.rdM a i
  .next (s.wrM d fun i => low == some i)
def execMfromv (_ : BitVec 2) (d : BitVec 3) (a : BitVec 5) (s : State) : Out := .next (s.wrM d fun i => s.rdV32 a i != 0)
def execMtov (_ : BitVec 2) (d : BitVec 5) (a : BitVec 3) (s : State) : Out :=
  .next (s.wrV32 d fun i => if s.rdM a i then 0xFFFFFFFF else 0)

/-! ## Transcendentals and conversions (R305-R309) -/

/-- VTRANS: the function's exact value, rounded once (R305). -/
def vTrans (f : Val → Val) (d a : BitVec 5) (m : BitVec 3) (s : State) : Out := vUn (fun x => to32 (f (decode32 x))) d a m s
def execVexp2 (_ : BitVec 2) (d a : BitVec 5) (m : BitVec 3) (s : State) : Out := vTrans vexp2 d a m s
def execVlog2 (_ : BitVec 2) (d a : BitVec 5) (m : BitVec 3) (s : State) : Out := vTrans vlog2 d a m s
def execVrcp (_ : BitVec 2) (d a : BitVec 5) (m : BitVec 3) (s : State) : Out := vTrans vrcp d a m s
def execVrsq (_ : BitVec 2) (d a : BitVec 5) (m : BitVec 3) (s : State) : Out := vTrans vrsq d a m s
def execVsqrt (_ : BitVec 2) (d a : BitVec 5) (m : BitVec 3) (s : State) : Out := vTrans vsqrt d a m s
/-- VCVT from and to a narrow format in the low bits of a lane (R306, R307). -/
def fromNarrow (f : FpF) (x : W32) : W32 := to32 (decodeF f (x.toNat % 2 ^ f.width))
def toNarrow (f : FpF) (sat : Bool) (x : W32) : W32 := BitVec.ofNat 32 (convert (decode32 x) f none sat)
/-- The E8M0 code of a value (R307). -/
def toE8 (x : W32) : W32 :=
  let v := decode32 x
  if v.isNan || v.isInf then 0xFF
  else if v.isZero then 0
  else BitVec.ofInt 32 (max (-127) (min 127 v.lg) + 127)
def execVcvtF32Bf16 (_ : BitVec 2) (d a : BitVec 5) (m : BitVec 3) (s : State) : Out := vUn (fromNarrow .bf16) d a m s
def execVcvtF32F16 (_ : BitVec 2) (d a : BitVec 5) (m : BitVec 3) (s : State) : Out := vUn (fromNarrow .fp16) d a m s
def execVcvtF32E4m3 (_ : BitVec 2) (d a : BitVec 5) (m : BitVec 3) (s : State) : Out := vUn (fromNarrow .e4m3) d a m s
def execVcvtF32E5m2 (_ : BitVec 2) (d a : BitVec 5) (m : BitVec 3) (s : State) : Out := vUn (fromNarrow .e5m2) d a m s
def execVcvtF32E2m1 (_ : BitVec 2) (d a : BitVec 5) (m : BitVec 3) (s : State) : Out := vUn (fromNarrow .e2m1) d a m s
def execVcvtBf16F32 (_ : BitVec 2) (d a : BitVec 5) (m : BitVec 3) (s : State) : Out := vUn (toNarrow .bf16 false) d a m s
def execVcvtF16F32 (_ : BitVec 2) (d a : BitVec 5) (m : BitVec 3) (s : State) : Out := vUn (toNarrow .fp16 false) d a m s
def execVcvtE4m3F32Sat (_ : BitVec 2) (d a : BitVec 5) (m : BitVec 3) (s : State) : Out := vUn (toNarrow .e4m3 true) d a m s
def execVcvtE4m3F32 (_ : BitVec 2) (d a : BitVec 5) (m : BitVec 3) (s : State) : Out := vUn (toNarrow .e4m3 false) d a m s
def execVcvtE5m2F32Sat (_ : BitVec 2) (d a : BitVec 5) (m : BitVec 3) (s : State) : Out := vUn (toNarrow .e5m2 true) d a m s
def execVcvtE5m2F32 (_ : BitVec 2) (d a : BitVec 5) (m : BitVec 3) (s : State) : Out := vUn (toNarrow .e5m2 false) d a m s
def execVcvtE2m1F32 (_ : BitVec 2) (d a : BitVec 5) (m : BitVec 3) (s : State) : Out := vUn (toNarrow .e2m1 true) d a m s
def execVcvtF32I32 (_ : BitVec 2) (d a : BitVec 5) (m : BitVec 3) (s : State) : Out := vUn (fun x => to32 (intVal x.toInt)) d a m s
def execVcvtI32F32 (_ : BitVec 2) (d a : BitVec 5) (m : BitVec 3) (s : State) : Out := vUn (fun x => BitVec.ofInt 32 (truncInt 32 (decode32 x))) d a m s
def execVcvtF32E8m0 (_ : BitVec 2) (d a : BitVec 5) (m : BitVec 3) (s : State) : Out := vUn (fun x => to32 (decodeE8 (x.toNat % 256))) d a m s
def execVcvtE8m0F32 (_ : BitVec 2) (d a : BitVec 5) (m : BitVec 3) (s : State) : Out := vUn toE8 d a m s
/-- VCVTSR: lane b is the random value (R309). -/
def toNarrowSr (f : FpF) (sat : Bool) (x r : W32) : W32 := BitVec.ofNat 32 (convert (decode32 x) f (some r) sat)
def execVcvtsrBf16 (_ : BitVec 2) (d a b : BitVec 5) (m : BitVec 3) (s : State) : Out := vBin (toNarrowSr .bf16 false) d a b m s
def execVcvtsrF16 (_ : BitVec 2) (d a b : BitVec 5) (m : BitVec 3) (s : State) : Out := vBin (toNarrowSr .fp16 false) d a b m s
def execVcvtsrE4m3Sat (_ : BitVec 2) (d a b : BitVec 5) (m : BitVec 3) (s : State) : Out := vBin (toNarrowSr .e4m3 true) d a b m s
def execVcvtsrE4m3 (_ : BitVec 2) (d a b : BitVec 5) (m : BitVec 3) (s : State) : Out := vBin (toNarrowSr .e4m3 false) d a b m s
def execVcvtsrE5m2Sat (_ : BitVec 2) (d a b : BitVec 5) (m : BitVec 3) (s : State) : Out := vBin (toNarrowSr .e5m2 true) d a b m s
def execVcvtsrE5m2 (_ : BitVec 2) (d a b : BitVec 5) (m : BitVec 3) (s : State) : Out := vBin (toNarrowSr .e5m2 false) d a b m s
def execVcvtsrE2m1 (_ : BitVec 2) (d a b : BitVec 5) (m : BitVec 3) (s : State) : Out := vBin (toNarrowSr .e2m1 true) d a b m s
/-- The key of VSRBITS: SRKEY at X's issue, or the run's KEY (R308, R362). -/
def State.vKey (s : State) : W64 :=
  if s.issue.abut then (match s.issue.preAbut with | some a => a.key | none => 0) else s.issue.pre.srkey
def execVsrbits (_ : BitVec 2) (d a b : BitVec 5) (m : BitVec 3) (s : State) : Out :=
  vBin (fun x y => srBits s.vKey (fld x 24 8 * 256 + fld y 24 8) (fld x 0 24) (fld y 0 24)) d a b m s
def execVlane (_ : BitVec 2) (d : BitVec 5) (m : BitVec 3) (s : State) : Out := vMasked (fun _ i => BitVec.ofNat 32 i) d m s

/-! ## Reductions (R310) -/

/-- The pairwise tree: halves are combined until one value is left. -/
def redTree (op : W32 → W32 → W32) : Nat → List W32 → W32
  | 0, l => nth l 0 0
  | f + 1, l => if l.length ≤ 1 then nth l 0 0 else redTree op f (List.zipWith op (l.take (l.length / 2)) (l.drop (l.length / 2)))

/-- VRED: an inactive lane brings the identity; every lane of vd receives the result. -/
def vRed (op : W32 → W32 → W32) (id : W32) (d a : BitVec 5) (m : BitVec 3) (s : State) : Out :=
  let x := redTree op 9 ((List.range s.lanes).map fun i => if s.rdM m i then s.rdV32 a i else id)
  .next (s.wrV32 d fun _ => x)
def execVredfadd (_ : BitVec 2) (d a : BitVec 5) (m : BitVec 3) (s : State) : Out := vRed addF32 0x80000000 d a m s
def execVredfmax (_ : BitVec 2) (d a : BitVec 5) (m : BitVec 3) (s : State) : Out := vRed maxF32 0xFF800000 d a m s
def execVredfmin (_ : BitVec 2) (d a : BitVec 5) (m : BitVec 3) (s : State) : Out := vRed minF32 0x7F800000 d a m s
def execVredadd (_ : BitVec 2) (d a : BitVec 5) (m : BitVec 3) (s : State) : Out := vRed (fun x y => x + y) 0 d a m s
def execVredmax (_ : BitVec 2) (d a : BitVec 5) (m : BitVec 3) (s : State) : Out := vRed (fun x y => if x.toInt ≤ y.toInt then y else x) 0x80000000 d a m s
def execVredmin (_ : BitVec 2) (d a : BitVec 5) (m : BitVec 3) (s : State) : Out := vRed (fun x y => if x.toInt ≤ y.toInt then x else y) 0x7FFFFFFF d a m s
def execVredmaxu (_ : BitVec 2) (d a : BitVec 5) (m : BitVec 3) (s : State) : Out := vRed (fun x y => if x.toNat ≤ y.toNat then y else x) 0 d a m s
def execVredminu (_ : BitVec 2) (d a : BitVec 5) (m : BitVec 3) (s : State) : Out := vRed (fun x y => if x.toNat ≤ y.toNat then x else y) 0xFFFFFFFF d a m s
def execVredand (_ : BitVec 2) (d a : BitVec 5) (m : BitVec 3) (s : State) : Out := vRed (fun x y => x &&& y) 0xFFFFFFFF d a m s
def execVredor (_ : BitVec 2) (d a : BitVec 5) (m : BitVec 3) (s : State) : Out := vRed (fun x y => x ||| y) 0 d a m s
def execVredxor (_ : BitVec 2) (d a : BitVec 5) (m : BitVec 3) (s : State) : Out := vRed (fun x y => x ^^^ y) 0 d a m s

/-! ## Permutes and scalar moves (R311, R312) -/

def execVperm (_ : BitVec 2) (d a b c : BitVec 5) (s : State) : Out :=
  let n := s.lanes
  .next (s.wrV32 d fun i =>
    let k := (s.rdV32 c i).toNat % (2 * n)
    if k < n then s.rdV32 a k else s.rdV32 b (k - n))
def execVxpose8 (_ : BitVec 2) (d a : BitVec 5) (s : State) : Out :=
  .next (s.wrV32 d fun i => s.rdV32 a (i / 64 * 64 + 8 * (i % 8) + i / 8 % 8))
def execVbcast (_ : BitVec 2) (d : BitVec 5) (a : BitVec 6) (s : State) : Out :=
  done ((s.cleanG a).map fun x => s.wrV32 d fun _ => lo32 x)
def execVext (_ : BitVec 2) (d : BitVec 6) (a : BitVec 5) (b : BitVec 6) (s : State) : Out :=
  done ((s.cleanG b).map fun k => s.wrG d (clean (hi0 (s.rdV32 a (fld k 0 8)))))
def execVins (_ : BitVec 2) (d : BitVec 5) (a b : BitVec 6) (s : State) : Out :=
  done ((s.cleanG a).bind fun x => (s.cleanG b).map fun k =>
    s.wrV32 d fun i => if i = fld k 0 8 then lo32 x else s.rdV32 d i)
def execMcount (_ : BitVec 2) (d : BitVec 6) (a : BitVec 3) (s : State) : Out :=
  .next (s.wrG d (clean (BitVec.ofNat 64 ((List.range 256).countP fun i => s.rdM a i))))
def execMfind (_ : BitVec 2) (d : BitVec 6) (a : BitVec 3) (s : State) : Out :=
  .next (s.wrG d (clean (BitVec.ofNat 64 (((List.range 256).find? fun i => s.rdM a i).getD 256))))

/-! ## Tile rows (R313-R315) -/

/-- The row i and first column j0 of a VROW, with the checks that come before any wait (R314). -/
def vrowPos (t : BitVec 6) (g : BitVec 5) (s : State) : Except State (Nat × Nat × TileRef) :=
  (s.cleanG (g.setWidth 6)).bind fun p =>
    (s.tileDefined t).bind fun ref =>
      let i := fld p 0 32
      let j := fld p 32 32
      let f := tFmt ref.w0
      if tRows ref.w0 ≤ i ∨ tCols ref.w0 ≤ j ∨ f = 7 ∨ f = 9 then .error (s.schedFault 9) else .ok (i, j, ref)

/-- The memory as the part found it (R47). -/
def State.preState (s : State) : State := { s with mem := s.issue.preMem }

/-- Bytes of a tile row that a VROW at column j touches: the first place, and past the last. -/
def vrowSpan (c : Nat) (w0 : W64) (i j : Nat) : Nat × Nat :=
  let w := fmtBits (tFmt w0)
  let p := (tileRow c w0 i).1
  (p + j * w / 8, p + ((j + Nat.min 256 (tCols w0 - j)) * w + 7) / 8)

/-- VROWLD (R314): the lanes come from the units that the part has read, at once or before (R148, `State.settlePart`). R511 names no fate of a
damaged unit here: its bytes are read as they stand (log 91). -/
def execVrowld (_ : BitVec 2) (t : BitVec 6) (g : BitVec 5) (w : BitVec 4) (r : BitVec 1) (v : BitVec 5) (s : State) : Out :=
  done ((vrowPos t g s).bind fun (i, j, ref) =>
    (s.tileTestRows t w.toNat i (i + 1)).bind fun x =>
      (s.tileClean x).map fun _ =>
        let o := s.preState.over s.preW.got
        let row := fun k => if j + k < tCols ref.w0 then BitVec.ofNat 32 (o.tileBits s.issue.core ref.w0 i (j + k)) else 0
        let (lo, hi) := vrowSpan s.issue.core ref.w0 i j
        let s := { s with issue := { s.issue with reads := s.issue.reads ++ [(lo, hi - lo)] } }
        let s := s.wrV32 v row
        if r = 1 then s.modCur fun k => k.releaseTile ref else s)

/-- VROWST: with rel the write is a clean fill (R314). When X passes the bundle some of its units may still be to be written
(R148, R315, `State.spread`). -/
def execVrowst (_ : BitVec 2) (t : BitVec 6) (g : BitVec 5) (r : BitVec 1) (v : BitVec 5) (s : State) : Out :=
  done ((vrowPos t g s).map fun (i, j, ref) =>
    let w := fmtBits (tFmt ref.w0)
    let n := Nat.min 256 (tCols ref.w0 - j)
    let p := (tileRow s.issue.core ref.w0 i).1
    let lo := j * w / 8
    let hi := ((j + n) * w + 7) / 8
    let bytes := (List.range (hi - lo)).map fun b =>
      if w = 4 then
        let old := (s.mem.get (p + lo + b)).toNat
        let c := 2 * (lo + b)
        let nib := fun (col old : Nat) => if j ≤ col ∧ col < j + n then (s.rdV32 v (col - j)).toNat % 16 else old
        BitVec.ofNat 8 (nib c (old % 16) + 16 * nib (c + 1) (old / 16))
      else
        let c := (lo + b) / (w / 8)
        BitVec.ofNat 8 ((s.rdV32 v (c - j)).toNat >>> (8 * ((lo + b) % (w / 8))))
    let halves := (if w = 4 ∧ j % 2 = 1 then [p + lo] else []) ++ (if w = 4 ∧ (j + n) % 2 = 1 then [p + hi - 1] else [])
    let keep := halves.filter fun l => s.marked l 1
    let s := keep.foldl (fun s l => s.mark l) (s.wr (p + lo) bytes)
    let s := s.clobber ((List.range (hi - lo)).map fun b => (p + lo + b, p + lo + b))
    let mine (b : Nat) : Byte := if w ≠ 4 then 0xFF else
      let c := 2 * (lo + b)
      (if j ≤ c ∧ c < j + n then 0x0F else 0) ||| (if j ≤ c + 1 ∧ c + 1 < j + n then 0xF0 else 0)
    let s := { s with issue := { s.issue with rows := s.issue.rows ++ (List.range (hi - lo)).map (fun b => (p + lo + b, mine b)),
                                              fills := s.issue.fills ++ if r = 1 then [ref] else [] } }
    if r = 1 then s.modCur fun k => k.fillTile ref none else s)

end Sys2Proof.Machine
end

