-- ==== Sys2Proof/Machine/Matrix.lean ====
section
/-! DEFINITION. The matrix unit (10 R318-R341): what a matrix syllable checks and reads when X issues it, and the steps of the unit: a
dispatch, the end of a preload, the last row of a stream, a completion, a band that becomes ready. -/

namespace Sys2Proof.Machine

/-! ## Formats and planes (R319) -/

/-- Elements per cell e of a format that a plane or a stream may have; 0 for any other. -/
def matE (f : Nat) : Nat :=
  match f with
  | 1 => 1 | 3 => 2 | 4 => 2 | 5 => 4 | _ => 0
/-- Depth D. -/
def matD (f : Nat) : Nat := 256 * matE f

def Plane.fmtN (p : Plane) : Nat := p.fmt.toNat
/-- Key of the cell of element (k, n), and of the scale code of its block. -/
def Plane.cellKey (p : Plane) (k n : Nat) : Nat := 256 * (k / matE p.fmtN) + n
def blockKey (k n : Nat) : Nat := 32 * (k / 8) + n / 8
/-- Encoding of element (k, n): slot k mod e of its cell. -/
def Plane.elem (p : Plane) (k n : Nat) : Nat :=
  let e := matE p.fmtN
  (mapGet p.cells (p.cellKey k n) 0).toNat >>> (16 / e * (k % e)) % 2 ^ (16 / e)

/-- v times the value of an E8M0 code; NaN for 0xFF (R85, R100). -/
def scaledBy (v : Val) (code : Nat) : Val := if code = 0xFF then .nan else v.scale ((code : Int) - 127)
/-- +0 (R86). -/
def Val.zero : Val := .fin false 0 0

/-- Ws(k, n) (R329), with the replacements of R339. -/
def Plane.val (p : Plane) (k n : Nat) : Val :=
  if p.badScales.contains (blockKey k n) then Val.zero
  else scaledBy (if p.badCells.contains (p.cellKey k n) then Val.zero else fmtVal p.fmtN (p.elem k n))
    (mapGet p.scales (blockKey k n) 127).toNat

/-! ## What a streamed syllable reads -/

/-- The window of MMU, from gw (R331, R332). -/
structure Window where
  iw : Nat
  ih : Nat
  id : Nat
  kw : Nat
  kh : Nat
  kd : Nat
  st : Nat
  dl : Nat
  pw : Nat
  ph : Nat
  pd : Nat
  deriving DecidableEq, Repr

def windowOf (gw : W64) : Window :=
  { iw := fld gw 54 10 + 1, ih := fld gw 44 10 + 1, id := fld gw 36 8 + 1, kw := fld gw 33 3 + 1, kh := fld gw 30 3 + 1,
    kd := fld gw 27 3 + 1, st := fld gw 25 2 + 1, dl := fld gw 23 2 + 1, pw := fld gw 20 3, ph := fld gw 17 3, pd := fld gw 14 3 }

/-- Output sites in one dimension (R332). -/
def outSites (i p d k s : Nat) : Int := ((i : Int) + 2 * p - d * ((k : Int) - 1) - 1) / s + 1
def Window.ow (w : Window) : Int := outSites w.iw w.pw w.dl w.kw w.st
def Window.oh (w : Window) : Int := outSites w.ih w.ph w.dl w.kh w.st
def Window.od (w : Window) : Int := outSites w.id w.pd w.dl w.kd w.st

/-- Rows of the virtual matrix, and its first output site (R331). -/
def nrOf (gw1 : W64) : Nat := fld gw1 32 9 + 1
def o0Of (gw1 : W64) : Nat := fld gw1 0 32

/-- Unfold(i, k) (R332): the tile element that it names, if any. -/
def unfold (w : Window) (o0 cols i k : Nat) : Option (Nat × Nat) :=
  let o := o0 + i
  let ow := w.ow.toNat
  let oh := w.oh.toNat
  let c := k % cols
  let f := k / cols
  let x : Int := (o % ow * w.st : Nat) - (w.pw : Int) + (f % w.kw * w.dl : Nat)
  let y : Int := (o / ow % oh * w.st : Nat) - (w.ph : Int) + (f / w.kw % w.kh * w.dl : Nat)
  let z : Int := (o / (ow * oh) * w.st : Nat) - (w.pd : Int) + (f / (w.kw * w.kh) * w.dl : Nat)
  if 0 ≤ x ∧ x < w.iw ∧ 0 ≤ y ∧ y < w.ih ∧ 0 ≤ z ∧ z < w.id then some (((z * w.ih + y) * w.iw + x).toNat, c) else none

/-- Rows that a syllable streams. -/
def MatOp.rows (op : MatOp) : Nat :=
  match op.kind with
  | .mmu | .mmus => nrOf op.gw1
  | _ => tRows op.t.w0
/-- Kt: streamed elements of a row (R329, R332). -/
def MatOp.kt (op : MatOp) : Nat :=
  let c := tCols op.t.w0
  match op.kind with
  | .mmu => let w := windowOf op.gw; w.kd * w.kh * w.kw * c
  | .mmus => match op.t1 with
    | some x => c * tCols x.w0
    | none => 0
  | _ => c

/-- Gather(i, k) (R332): the tile element that the index list names; an index that cannot be read is absent (R339). -/
def State.gatherAt (s : State) (c : Nat) (op : MatOp) (i k : Nat) : Option (Nat × Nat) :=
  match op.t1 with
  | none => none
  | some ix =>
    let cols := tCols op.t.w0
    let r := o0Of op.gw1 + i
    if s.tileMarked c ix.w0 r (k / cols) then none
    else
      let x := toSigned 32 (s.tileBits c ix.w0 r (k / cols))
      if 0 ≤ x ∧ x < tRows op.t.w0 then some (x.toNat, k % cols) else none

/-- The tile element that streamed element (i, k) is; none is a +0 that no tile element gives. -/
def State.streamAt (s : State) (c : Nat) (op : MatOp) (i k : Nat) : Option (Nat × Nat) :=
  match op.kind with
  | .mmu => unfold (windowOf op.gw) (o0Of op.gw1) (tCols op.t.w0) i k
  | .mmus => s.gatherAt c op i k
  | _ => some (i, k)

/-- As(i, k) (R329), with the replacements of R339. -/
def State.streamVal (s : State) (c : Nat) (op : MatOp) (i k : Nat) : Val :=
  match s.streamAt c op i k with
  | none => Val.zero
  | some (r, j) =>
    let v := if s.tileMarked c op.t.w0 r j then Val.zero else fmtVal (tFmt op.t.w0) (s.tileBits c op.t.w0 r j)
    match op.as, op.t1 with
    | true, some x =>
      if s.tileMarked c x.w0 (r / 8) (j / 8) then Val.zero else scaledBy v (s.tileBits c x.w0 (r / 8) (j / 8))
    | _, _ => v

/-! ## The accumulator -/

/-- Accumulator element (r, n); one that cannot be read is +0 (R339). -/
def Matrix.accAt (m : Matrix) (r n : Nat) : W32 :=
  if m.accBad.contains (256 * r + n) then 0 else mapGet m.acc (256 * r + n) 0
/-- Elements written. -/
def Matrix.setAcc (m : Matrix) (cells : List (Nat × W32)) : Matrix :=
  { m with acc := cells.foldl (fun a e => mapSet 0 a e.1 e.2) m.acc,
           accBad := m.accBad.filter fun k => !(cells.any fun e => e.1 = k) }

/-! ## Products (R329) -/

/-- Band b of a plane's K indices below kt (R319). -/
def bandKs (e b kt : Nat) : List Nat := (List.range (64 * e)).filterMap fun i => if 64 * e * b + i < kt then some (64 * e * b + i) else none

/-- One element of MM: the active bands are added in order. -/
def mmElem (p : Plane) (bands : BitVec 4) (row : List Val) (n : Nat) (start : W32) : W32 :=
  (List.range 4).foldl (fun acc b =>
    if bands.getLsbD b then
      addF32 acc (bandSum ((bandKs (matE p.fmtN) b row.length).map fun k => (nth row k Val.zero).mul (p.val k n)))
    else acc) start

/-- The elements that MM, MMU or MMUS writes, in order. -/
def State.mmCells (s : State) (c : Nat) (op : MatOp) : List (Nat × W32) :=
  let m := (s.core c).mat
  (List.range op.rows).flatMap fun i =>
    let r := 128 * op.q.toNat + i
    let row := (List.range op.kt).map fun k => s.streamVal c op i k
    (List.range 256).map fun n => (256 * r + n, mmElem m.active m.bands row n (if op.z then 0 else m.accAt r n))

/-- The elements that MMT writes. -/
def State.mmtCells (s : State) (c : Nat) (op : MatOp) : List (Nat × W32) :=
  let m := (s.core c).mat
  let e := matE m.active.fmtN
  (List.range op.rows).flatMap fun i =>
    let row := (List.range op.kt).map fun k => s.streamVal c op i k
    (List.range (matD m.active.fmtN)).filterMap fun k =>
      if m.bands.getLsbD (k / (64 * e)) then
        let r := 128 * (op.q.toNat + k / 256) + i
        some (256 * r + k % 256, addF32 (if op.z then 0 else m.accAt r (k % 256))
          (bandSum ((List.range row.length).map fun n => (nth row n Val.zero).mul (m.active.val k n))))
      else none

def State.productCells (s : State) (c : Nat) (op : MatOp) : List (Nat × W32) :=
  match op.kind with
  | .mmt => s.mmtCells c op
  | _ => s.mmCells c op

/-! ## Operand errors (R339, R340, R512) -/

/-- A log entry. -/
def matEntry (kind tile row col : Nat) (seq : BitVec 24) : W64 :=
  BitVec.ofNat 64 (kind <<< 60 ||| tile <<< 54 ||| row <<< 42 ||| col <<< 26 ||| seq.toNat)

/-- The unit and address under which the data behind an entry are reported as consumed (R511). -/
def matUnit (c : Nat) (op : MatOp) (e : W64) : W64 :=
  match fld e 60 4 with
  | 6 => BitVec.ofNat 64 (4 <<< 60 ||| 2 <<< 58 ||| fld e 42 12)
  | 2 | 3 => BitVec.ofNat 64 (6 <<< 60 ||| 2 <<< 58)
  | k =>
    -- the tile as it was defined when the syllable issued
    let w0 := if k = 1 then op.t.w0 else (op.t1.getD op.t).w0
    ueEvent 2 ((tileRow c w0 (fld e 42 12)).1 + fld e 26 16 * fmtBits (tFmt w0) / 8)

/-- One error: STICKY, the log, LOST, the event of class 5, and the report of the data consumed. -/
def State.matError (s : State) (c : Nat) (op : MatOp) (e : W64) : State :=
  let s := s.postEvent (s.core c).part 4 (some c) [matUnit c op e]
  let s := s.modCore c fun k =>
    let m := k.mat
    { k with mat := if m.log.length < 16 then { m with sticky := true, log := m.log ++ [e] } else { m with sticky := true, lost := true } }
  s.postEvent (s.core c).part 5 (some c) [e]

def State.matErrors (s : State) (c : Nat) (op : MatOp) (es : List W64) : State := es.foldl (fun s e => s.matError c op e) s

/-- Marked elements of a tile. -/
def State.tileErrs (s : State) (c : Nat) (w0 : W64) : List (Nat × Nat) :=
  if s.ue = [] then [] else
  (List.range (tRows w0)).flatMap fun i => (List.range (tCols w0)).filterMap fun j =>
    if s.tileMarked c w0 i j then some (i, j) else none

/-- The K indices whose products a stream forms: those of the active bands, below kt; of MMT every column is read. -/
def MatOp.usedKs (op : MatOp) (m : Matrix) : List Nat :=
  match op.kind with
  | .mmt => if m.bands = 0 then [] else List.range op.kt
  | _ => (List.range 4).flatMap fun b => if m.bands.getLsbD b then bandKs (matE m.active.fmtN) b op.kt else []

/-- Elements of the plane that a stream reads: (k, n). -/
def MatOp.readsPlane (op : MatOp) (m : Matrix) (k n : Nat) : Bool :=
  m.bands.getLsbD (k / (64 * matE m.active.fmtN)) && (match op.kind with
    | .mmt => decide (n < op.kt)
    | _ => decide (k < op.kt))

/-- The entries of the elements that a stream replaces, once each. -/
def State.streamErrs (s : State) (c : Nat) (op : MatOp) : List W64 :=
  let m := (s.core c).mat
  let p := m.active
  let used := op.usedKs m
  let reads (i j : Nat) : Bool := (List.range op.rows).any fun a => used.any fun k => decide (s.streamAt c op a k = some (i, j))
  let src := (s.tileErrs c op.t.w0).filterMap fun e =>
    if reads e.1 e.2 then some (matEntry 1 op.t.t.toNat e.1 e.2 op.seq) else none
  let second := match op.t1 with
    | none => []
    | some x => (s.tileErrs c x.w0).filterMap fun e =>
        match op.kind with
        | .mmus =>
          let r0 := o0Of op.gw1
          if r0 ≤ e.1 ∧ e.1 < r0 + op.rows ∧ used.any (fun k => decide (k / tCols op.t.w0 = e.2)) then
            some (matEntry 5 x.t.toNat e.1 e.2 op.seq)
          else none
        | _ =>
          if 8 * e.1 < op.rows ∧ used.any (fun k => decide (k / 8 = e.2)) then some (matEntry 4 x.t.toNat e.1 e.2 op.seq) else none
  let e := matE p.fmtN
  let cells := p.badCells.flatMap fun key => (List.range e).filterMap fun i =>
    let k := key / 256 * e + i
    if op.readsPlane m k (key % 256) then some (matEntry 2 0 k (key % 256) op.seq) else none
  let scales := p.badScales.filterMap fun key =>
    if (List.range 8).any fun a => (List.range 8).any fun b => op.readsPlane m (key / 32 * 8 + a) (key % 32 * 8 + b) then
      some (matEntry 3 0 (key / 32) (key % 32) op.seq) else none
  let written := if op.z ∨ m.accBad = [] then [] else (s.productCells c op).map Prod.fst
  let acc := m.accBad.filterMap fun key => if written.contains key then some (matEntry 6 0 (key / 256) (key % 256) op.seq) else none
  src ++ second ++ cells ++ scales ++ acc

/-! ## Drains (R334-R338) -/

/-- Tile format that a drain writes (R334). -/
def MatKind.outFmt : MatKind → Nat
  | .drn v => if v = 0 then 0 else 1
  | .drn8 v => if v.toNat < 4 then 3 else 4
  | .drnmx v => if v.toNat < 2 then 3 else if v.toNat < 4 then 4 else if v.toNat < 6 then 5 else 9
  | _ => 0
/-- The variant rounds with random bits. -/
def MatKind.isSr : MatKind → Bool
  | .drn v => v == 2
  | .drn8 v => v.getLsbD 1
  | .drnmx v => v.getLsbD 0 && v != 7
  | _ => false
/-- The variant saturates. -/
def MatKind.sat : MatKind → Bool
  | .drn8 v => !v.getLsbD 0
  | _ => false
/-- An MX variant, which writes a scale tile. -/
def MatKind.isMx : MatKind → Bool
  | .drnmx v => v != 6
  | _ => false

/-- Rows and columns of the region of a drain into a tile (R335). -/
def drainShape (w0 : W64) : Nat × Nat :=
  if tFmt w0 = 9 then (8 * tRows w0, 8 * tCols w0) else (tRows w0, tCols w0)

/-- v of R335. -/
def Matrix.drainVal (m : Matrix) (op : MatOp) (i j : Nat) : Val :=
  (decode32 (m.accAt (128 * op.q.toNat + i) j)).mul (decode32 op.dscale)

/-- rnd of R335 for region element (i, j), in the SR variants. -/
def MatOp.rnd (op : MatOp) (i j : Nat) : Option W32 :=
  if op.kind.isSr then some (srBits op.srkey (fld op.gc 48 16) (fld op.gc 24 24 + i) (fld op.gc 0 24 + j)) else none

/-- The block (bi, bj) of an MX drain (R336). -/
def Matrix.mxBlock (m : Matrix) (op : MatOp) (F : FpF) (bi bj : Nat) : Nat × List Nat :=
  let (nr, nc) := drainShape op.t.w0
  mxQuant F ((List.range 64).map fun x =>
    let i := 8 * bi + x / 8
    let j := 8 * bj + x % 8
    (if i < nr ∧ j < nc then m.drainVal op i j else Val.zero, op.rnd i j))

/-- A BX24 element of a drain (R337). -/
def Matrix.bxBlock (m : Matrix) (op : MatOp) (bi bj : Nat) : Nat :=
  ofBytes (bxBytes (bxAdd bxZero ((List.range 64).map fun x => m.drainVal op (8 * bi + x / 8) (8 * bj + x % 8))))

/-- Element bits of row i of the drained tile. -/
def State.drainRow (s : State) (c : Nat) (op : MatOp) (i : Nat) : List Nat :=
  let m := (s.core c).mat
  (List.range (tCols op.t.w0)).map fun j =>
    match op.kind with
    | .drna =>
      let old := if s.tileMarked c op.t.w0 i j then Val.zero else decodeF .fp32 (s.tileBits c op.t.w0 i j)
      convert (old.add (m.drainVal op i j)) .fp32 none false
    | .drnmx v =>
      if v = 6 then m.bxBlock op i j
      else match fmtF op.kind.outFmt with
        | some F => nth (m.mxBlock op F (i / 8) (j / 8)).2 (i % 8 * 8 + j % 8) 0
        | none => 0
    | k =>
      match fmtF k.outFmt with
      | some F => convert (m.drainVal op i j) F (op.rnd i j) k.sat
      | none => 0

/-- The scale codes of block row bi (R336). -/
def State.drainScales (s : State) (c : Nat) (op : MatOp) (bi : Nat) : List Byte :=
  match fmtF op.kind.outFmt with
  | some F => (List.range (cdiv (tCols op.t.w0) 8)).map fun bj => BitVec.ofNat 8 ((s.core c).mat.mxBlock op F bi bj).1
  | none => []

/-- The entries of the elements that a drain replaces. -/
def State.drainErrs (s : State) (c : Nat) (op : MatOp) : List W64 :=
  let (nr, nc) := drainShape op.t.w0
  let q := 128 * op.q.toNat
  let src := match op.kind with
    | .drna => (s.tileErrs c op.t.w0).map fun e => matEntry 1 op.t.t.toNat e.1 e.2 op.seq
    | _ => []
  src ++ (s.core c).mat.accBad.filterMap fun key =>
    if q ≤ key / 256 ∧ key / 256 < q + nr ∧ key % 256 < nc then some (matEntry 6 0 (key / 256) (key % 256) op.seq) else none

/-- What a drain writes: its rows, and the codes of an MX drain (R335-R338). -/
def State.drainMove (s : State) (c : Nat) (op : MatOp) : State :=
  let rows := (List.range (tRows op.t.w0)).map fun i => s.drainRow c op i
  let codes := (List.range (cdiv (tRows op.t.w0) 8)).map fun bi => s.drainScales c op bi
  let s := (List.range rows.length).foldl (fun s i => s.wrTileRow c op.t.w0 i (nth rows i [])) s
  match op.t1 with
  | none => s
  | some x => (List.range codes.length).foldl (fun s bi => s.wr (tileRow c x.w0 bi).1 (nth codes bi [])) s

/-- The pieces that a drain writes. -/
def MatOp.drainPieces (op : MatOp) (c : Nat) : List (Nat × Nat) :=
  ((List.range (tRows op.t.w0)).map fun i => tileRow c op.t.w0 i)
  ++ match op.t1 with
    | none => []
    | some x => (List.range (cdiv (tRows op.t.w0) 8)).map fun bi => ((tileRow c x.w0 bi).1, cdiv (tCols op.t.w0) 8)

/-- A drain has written its tiles from memory o: its errors are logged, and with rel its tiles are released and filled (R321, R336, R338). -/
def State.drainEnd (o s : State) (c : Nat) (op : MatOp) : State :=
  let s := s.matErrors c op (o.drainErrs c op)
  if !op.rel then s else
  s.modCore c fun k =>
    let k := if op.kind = .drna then k.releaseTile op.t else k
    let k := k.fillTile op.t none
    match op.t1 with
    | none => k
    | some x => k.fillTile x none

/-! ## Issue (R320, R322, R323) -/

/-- Schedule fault 10 (R323). -/
def State.matShape (s : State) (bad : Bool) : Except State Unit := if bad then .error (s.schedFault 10) else .ok ()

/-- A tile that a matrix syllable reads (R323): tested, then clean. -/
def matRead (t : BitVec 6) (w : BitVec 4) (s : State) : Except State TileRef :=
  (s.tileTest t w.toNat).bind fun x => (s.tileClean x).map fun _ => s.issue.pre.tileRef t

/-- The semaphore that a semaphore field names (R322). -/
def semOf (x : BitVec 6) : Option (BitVec 5) := if x.getLsbD 5 then some (x.setWidth 5) else none

/-- A syllable with what every one reads at issue. -/
def State.matNew (s : State) (kind : MatKind) (q : BitVec 2) (t : TileRef) : MatOp :=
  { kind, q, t, t1 := none, z := false, as := false, rel := false, sem := none, bands := 0, gw := 0, gw1 := 0, gc := 0,
    dscale := s.issue.pre.dscale, srkey := s.issue.pre.srkey, scale := none, seq := 0, walk := s.walk, streamed := false, got := [], units := [] }

def noTile : TileRef := ⟨0, 0, 0⟩

/-- The syllable is placed in the matrix queue; a full queue holds it back (R320). SEQ counts it. -/
def State.matPush (s : State) (op : MatOp) : Except State State :=
  if s.cur.mat.queue.length ≥ 8 then .error s.interlock
  else .ok (s.modCur fun k =>
    let n := k.mat.seq + 1
    { k with mat := { k.mat with seq := n, queue := k.mat.queue ++ [{ op with seq := n }] } })

/-- Formats of the active and the shadow plane when a syllable issued now dispatches (R328). -/
def Matrix.futureFmt (m : Matrix) : Nat × Nat :=
  let shadow := match m.preload with
    | some o => tFmt o.t.w0
    | none => m.shadow.fmtN
  m.queue.foldl (fun (p : Nat × Nat) o =>
    match o.kind with
    | .wld | .wldx => (p.1, tFmt o.t.w0)
    | .wswap => (p.2, p.1)
    | _ => p) (m.active.fmtN, shadow)

/-- WLD and WLDX (R324). -/
def matPreload (ext : Bool) (t x : BitVec 6) (w : BitVec 4) (r : BitVec 1) (s : State) : Out :=
  done ((matRead t w s).bind fun ref =>
    let f := tFmt ref.w0
    (s.matShape (matE f = 0 || (ext && f = 1) || decide (matD f < tRows ref.w0) || decide (256 < tCols ref.w0))).bind fun _ =>
      let op : MatOp := { s.matNew (if ext then .wldx else .wld) 0 ref with rel := r == 1, sem := semOf x }
      if !ext then s.matPush op
      else match s.cur.mat.scaleQ with
        | [] => .error (s.waitOn 16 0 w.toNat)
        | e :: rest =>
          if e.brows ≠ cdiv (tRows ref.w0) 8 ∨ e.bcols ≠ cdiv (tCols ref.w0) 8 then .error (s.schedFault 11)
          else (s.matPush { op with scale := some e }).map fun s => s.modCur fun k => { k with mat := { k.mat with scaleQ := rest } })

def execWld (_ : BitVec 2) (t x : BitVec 6) (w : BitVec 4) (r : BitVec 1) (s : State) : Out := matPreload false t x w r s
def execWldx (_ : BitVec 2) (t x : BitVec 6) (w : BitVec 4) (r : BitVec 1) (s : State) : Out := matPreload true t x w r s
/-- WSWAP (R326). -/
def execWswap (_ : BitVec 2) (s : State) : Out := done (s.matPush (s.matNew .wswap 0 noTile))
/-- ASHAPE (R327). -/
def execAshape (_ : BitVec 2) (k : BitVec 4) (s : State) : Out := done (s.matPush { s.matNew .ashape 0 noTile with bands := k })

/-- MM and MMT (R328). -/
def matStream (tr : Bool) (q : BitVec 2) (t x : BitVec 6) (w : BitVec 4) (r y z : BitVec 1) (s : State) : Out :=
  done ((matRead t w s).bind fun ref =>
    (if y = 0 then .ok none
      else if t = 63 then .error (s.schedFault 10)
      else (matRead (t + 1) w s).map some).bind fun sc =>
      let rows := tRows ref.w0
      let cols := tCols ref.w0
      let d := matD s.cur.mat.futureFmt.1
      let shape := matE (tFmt ref.w0) = 0 || (if tr then decide (256 < cols) || decide (128 < rows) || decide (4 < q.toNat + d / 256)
        else decide (d < cols) || decide (512 < 128 * q.toNat + rows))
      let scales := match sc with
        | none => false
        | some u => tFmt u.w0 ≠ 8 || decide (tRows u.w0 < cdiv rows 8) || decide (tCols u.w0 < cdiv cols 8)
      (s.matShape (shape || scales)).bind fun _ =>
        s.matPush { s.matNew (if tr then .mmt else .mm) q ref with
          t1 := sc, z := z == 1, as := y == 1, rel := r == 1, sem := semOf x })

def execMm (_ q : BitVec 2) (t x : BitVec 6) (w : BitVec 4) (r y z : BitVec 1) (s : State) : Out := matStream false q t x w r y z s
def execMmt (_ q : BitVec 2) (t x : BitVec 6) (w : BitVec 4) (r y z : BitVec 1) (s : State) : Out := matStream true q t x w r y z s

/-- What MMU and MMUS share (R331, R332): the pair, the tiles, the limits; `bad` adds the checks of one of them. -/
def matUnfold (kind : MatKind) (q : BitVec 2) (ref : TileRef) (ix : Option TileRef) (gw gw1 : W64) (bad : Bool)
    (r z : BitVec 1) (s : State) : Except State State :=
  let op : MatOp :=
    { s.matNew kind q ref with
        t1 := ix, z := z == 1, rel := r == 1, gw := gw, gw1 := gw1,
        sem := if gw1.getLsbD 63 then some (BitVec.ofNat 5 (fld gw1 58 5)) else none }
  (s.matShape (bad || decide (fld gw1 41 17 ≠ 0) || (!gw1.getLsbD 63 && decide (fld gw1 58 5 ≠ 0)) || matE (tFmt ref.w0) = 0
    || decide (matD s.cur.mat.futureFmt.1 < op.kt) || decide (512 < 128 * q.toNat + nrOf gw1))).bind fun _ => s.matPush op

/-- MMU (R331, R332). -/
def execMmu (_ q : BitVec 2) (t g : BitVec 6) (w : BitVec 4) (r z : BitVec 1) (s : State) : Out :=
  done ((s.cleanG g).bind fun gw => (s.cleanG (g + 1)).bind fun gw1 => (matRead t w s).bind fun ref =>
    let v := windowOf gw
    let bad := fld gw 0 14 ≠ 0 || decide (v.ow < 1) || decide (v.oh < 1) || decide (v.od < 1)
      || decide (tRows ref.w0 < v.id * v.ih * v.iw) || decide (v.od * v.oh * v.ow < ((o0Of gw1 + nrOf gw1 : Nat) : Int))
    matUnfold .mmu q ref none gw gw1 bad r z s)

/-- MMUS (R331, R332): the index tile is tested as a read tile, once it is known to be another one. One with DEF = 0 takes cause 10, among whose
conditions R332 lists it, and not the cause 3 of R117 and R323 (log 98). -/
def execMmus (_ q : BitVec 2) (t g : BitVec 6) (w : BitVec 4) (r z : BitVec 1) (s : State) : Out :=
  done ((s.cleanG g).bind fun gw => (s.cleanG (g + 1)).bind fun gw1 => (matRead t w s).bind fun ref =>
    let ix : BitVec 6 := BitVec.ofNat 6 (fld gw 58 6)
    (s.matShape (ix = t || !(s.issue.pre.tile ix.toNat).defd)).bind fun _ => (matRead ix w s).bind fun u =>
      matUnfold .mmus q ref (some u) gw gw1
        (fld gw 0 58 ≠ 0 || tFmt u.w0 ≠ 6 || decide (tRows u.w0 < o0Of gw1 + nrOf gw1)) r z s)

/-- MMZ (R333). -/
def execMmz (_ q : BitVec 2) (s : State) : Out := done (s.matPush (s.matNew .mmz q noTile))
def execMmzAll (_ : BitVec 2) (s : State) : Out := done (s.matPush (s.matNew .mmzAll 0 noTile))

/-- The region of a drain is inside its bank range (R335). -/
def regionBad (q : BitVec 2) (w0 : W64) : Bool :=
  decide (512 < 128 * q.toNat + (drainShape w0).1) || decide (256 < (drainShape w0).2)

/-- A drain at issue (R334-R336); gc is read in the SR variants. A scale tile with DEF = 0 takes cause 10, among whose conditions R336 lists
it, and not the cause 3 of R117 and R323 (log 98). -/
def matDrain (kind : MatKind) (q : BitVec 2) (t : BitVec 6) (gc : Option (BitVec 6)) (r : BitVec 1) (s : State) : Out :=
  done ((s.tileDefined t).bind fun ref =>
    (s.matShape (tFmt ref.w0 ≠ kind.outFmt || regionBad q ref.w0)).bind fun _ =>
      (match gc with
        | some g => s.cleanG g
        | none => (Except.ok 0 : Except State W64)).bind fun c =>
        (if !kind.isMx then (Except.ok none : Except State (Option TileRef))
          else
            let u := s.issue.pre.tile (t.toNat + 1)
            let (nr, nc) := drainShape ref.w0
            (s.matShape (t = 63 || !u.defd || tFmt u.w0 ≠ 8 || decide (tRows u.w0 < cdiv nr 8) || decide (tCols u.w0 < cdiv nc 8)
              || decide (fld c 24 3 ≠ 0) || decide (fld c 0 3 ≠ 0))).map fun _ => some (s.issue.pre.tileRef (t + 1))).bind fun sc =>
          s.matPush { s.matNew kind q ref with t1 := sc, rel := r == 1, gc := c })

def execDrnF32 (_ q : BitVec 2) (t : BitVec 6) (r : BitVec 1) (s : State) : Out := matDrain (.drn 0) q t none r s
def execDrnBf16 (_ q : BitVec 2) (t : BitVec 6) (r : BitVec 1) (s : State) : Out := matDrain (.drn 1) q t none r s
def execDrnBf16Sr (_ q : BitVec 2) (t g : BitVec 6) (r : BitVec 1) (s : State) : Out := matDrain (.drn 2) q t (some g) r s
def execDrnE4m3Sat (_ q : BitVec 2) (t : BitVec 6) (r : BitVec 1) (s : State) : Out := matDrain (.drn8 0) q t none r s
def execDrnE4m3 (_ q : BitVec 2) (t : BitVec 6) (r : BitVec 1) (s : State) : Out := matDrain (.drn8 1) q t none r s
def execDrnE4m3SrSat (_ q : BitVec 2) (t g : BitVec 6) (r : BitVec 1) (s : State) : Out := matDrain (.drn8 2) q t (some g) r s
def execDrnE4m3Sr (_ q : BitVec 2) (t g : BitVec 6) (r : BitVec 1) (s : State) : Out := matDrain (.drn8 3) q t (some g) r s
def execDrnE5m2Sat (_ q : BitVec 2) (t : BitVec 6) (r : BitVec 1) (s : State) : Out := matDrain (.drn8 4) q t none r s
def execDrnE5m2 (_ q : BitVec 2) (t : BitVec 6) (r : BitVec 1) (s : State) : Out := matDrain (.drn8 5) q t none r s
def execDrnE5m2SrSat (_ q : BitVec 2) (t g : BitVec 6) (r : BitVec 1) (s : State) : Out := matDrain (.drn8 6) q t (some g) r s
def execDrnE5m2Sr (_ q : BitVec 2) (t g : BitVec 6) (r : BitVec 1) (s : State) : Out := matDrain (.drn8 7) q t (some g) r s
def execDrnMx8e4 (_ q : BitVec 2) (t : BitVec 6) (r : BitVec 1) (s : State) : Out := matDrain (.drnmx 0) q t none r s
def execDrnMx8e4Sr (_ q : BitVec 2) (t g : BitVec 6) (r : BitVec 1) (s : State) : Out := matDrain (.drnmx 1) q t (some g) r s
def execDrnMx8e5 (_ q : BitVec 2) (t : BitVec 6) (r : BitVec 1) (s : State) : Out := matDrain (.drnmx 2) q t none r s
def execDrnMx8e5Sr (_ q : BitVec 2) (t g : BitVec 6) (r : BitVec 1) (s : State) : Out := matDrain (.drnmx 3) q t (some g) r s
def execDrnMx4 (_ q : BitVec 2) (t : BitVec 6) (r : BitVec 1) (s : State) : Out := matDrain (.drnmx 4) q t none r s
def execDrnMx4Sr (_ q : BitVec 2) (t g : BitVec 6) (r : BitVec 1) (s : State) : Out := matDrain (.drnmx 5) q t (some g) r s
def execDrnBx24 (_ q : BitVec 2) (t : BitVec 6) (r : BitVec 1) (s : State) : Out := matDrain (.drnmx 6) q t none r s
/-- DRNA (R338). -/
def execDrna (_ q : BitVec 2) (t : BitVec 6) (w : BitVec 4) (r : BitVec 1) (s : State) : Out :=
  done ((matRead t w s).bind fun ref =>
    (s.matShape (tFmt ref.w0 ≠ 0 || regionBad q ref.w0)).bind fun _ => s.matPush { s.matNew .drna q ref with rel := r == 1 })

/-! ## The error log (R340) -/

/-- Every matrix syllable has completed. -/
def Matrix.idle (m : Matrix) : Bool := m.queue.isEmpty && m.preload.isNone && m.compute.isEmpty

/-- MERRQ and its kin take their place in the queue and act when they dispatch (R320). -/
def execMerrq (_ : BitVec 2) (d : BitVec 6) (s : State) : Out := done (s.matPush (s.matNew (.merrq d) 0 noTile))
def execMerrs (_ : BitVec 2) (d : BitVec 6) (s : State) : Out := done (s.matPush (s.matNew (.merrs d) 0 noTile))
def execMerrc (_ : BitVec 2) (s : State) : Out := done (s.matPush (s.matNew .merrc 0 noTile))

/-- The status word (R340). -/
def Matrix.status (m : Matrix) : W64 :=
  BitVec.ofNat 64 (m.bands.toNat <<< 8 ||| b2n m.sticky <<< 7 ||| b2n m.lost <<< 6 ||| m.log.length)

/-- What a syllable of the error log does: its g register and value, and the unit after it. -/
def Matrix.merr (m : Matrix) : MatKind → Option (BitVec 6 × W64) × Matrix
  | .merrq d => (match m.log with
    | [] => (some (d, 0), m)
    | e :: r => (some (d, e), { m with log := r }))
  | .merrs d => (some (d, m.status), m)
  | .merrc => (none, { m with sticky := false, lost := false })
  | _ => (none, m)

/-- A syllable of the error log acts at core c; g0 discards its value (R340). -/
def Core.merr (k : Core) (kind : MatKind) : Core :=
  let (w, m) := k.mat.merr kind
  let k : Core := { k with mat := m }
  match w with
  | some (d, v) => if d = 0 then k else { k with g := vset k.g d.toNat ⟨v, false⟩ }
  | none => k

/-- g registers that a queued MERRQ or MERRS has still to write (R320). -/
def Matrix.gPend (m : Matrix) : List (BitVec 6) :=
  m.queue.filterMap fun o => match o.kind with
    | .merrq d | .merrs d => some d
    | _ => none

/-! ## Dispatch and completion (R320, R321) -/

def MatKind.streams : MatKind → Bool
  | .mm | .mmt | .mmu | .mmus => true
  | _ => false

/-- A compute-path syllable has streamed its last row, or streams none (R320). -/
def MatOp.pastRows (op : MatOp) : Bool := op.streamed || !op.kind.streams

/-- The tile rows that a syllable reads from the scratchpad of core c. -/
def MatOp.readPieces (op : MatOp) (c : Nat) : List (Nat × Nat) :=
  let rows (t : TileRef) : List (Nat × Nat) := (List.range (tRows t.w0)).map fun i => tileRow c t.w0 i
  rows op.t ++ (match op.t1 with
    | some x => rows x
    | none => [])
def State.modMat (s : State) (c : Nat) (f : Matrix → Matrix) : State := s.modCore c fun k => { k with mat := f k.mat }

/-- The oldest queued syllable of core c dispatches when its condition holds. -/
def execMatrixDispatch (core : Nat) (s : State) : Out :=
  if !coreOk core then .fault .noSuchUnit else
  let m := (s.core core).mat
  match m.queue with
  | [] => .next s
  | op :: rest =>
    let m' : Matrix := { m with queue := rest }
    let put (m : Matrix) : Out := .next (s.modMat core fun _ => m)
    match op.kind with
    | .wld | .wldx =>
      if m.preload.isSome then .next s else put { m' with preload := some op }
    | .wswap =>
      if m.preload.isSome || !m.compute.all MatOp.pastRows then .next s
      else put { m' with active := m.shadow, shadow := m.active }
    | .ashape =>
      if m.compute ≠ [] then .next s
      else put { m' with bands := op.bands, compute := if op.bands &&& ~~~m.bands = 0 then [] else [op] }
    | .mm | .mmt | .mmu | .mmus =>
      let free := match m.compute.getLast? with
        | none => true
        | some o => o.kind.streams && o.streamed
      if !free then .next s else put { m' with compute := m.compute ++ [op] }
    | .mmz | .mmzAll | .drn _ | .drn8 _ | .drnmx _ | .drna =>
      if m.compute ≠ [] then .next s else put { m' with compute := [op] }
    | .merrq _ | .merrs _ | .merrc =>
      if m.preload.isSome || m.compute ≠ [] then .next s
      else .next (s.modCore core fun k => Core.merr { k with mat := m' } op.kind)

/-- The plane that a preload writes (R324). -/
def State.preloaded (s : State) (c : Nat) (op : MatOp) : Plane :=
  let f := tFmt op.t.w0
  let e := matE f
  let elem (k n : Nat) : Nat :=
    if k < tRows op.t.w0 ∧ !s.tileMarked c op.t.w0 k n then s.tileBits c op.t.w0 k n else 0
  let cells := (List.range (cdiv (tRows op.t.w0) e)).flatMap fun r => (List.range (tCols op.t.w0)).filterMap fun n =>
    let v := (List.range e).foldl (fun a i => a + elem (e * r + i) n <<< (16 / e * i)) 0
    if v = 0 then none else some (256 * r + n, (BitVec.ofNat 16 v : BitVec 16))
  let key (bc i : Nat) : Nat := 32 * (i / bc) + i % bc
  let (scales, bad) := match op.scale with
    | none => ([], [])
    | some q => ((List.range q.codes.length).filterMap fun i =>
        let v := nth q.codes i 127
        if v = 127 then none else some (key q.bcols i, v), q.bad.map fun i => key q.bcols i)
  { fmt := BitVec.ofNat 4 f, cells := cells, scales := scales, badCells := [], badScales := bad }

/-- A syllable that reads its tiles and writes none: between its dispatch and its end each unit is read once, at any time (R148, R321). A writer that
nothing orders against it is met by each unit before or after (R156, R315). -/
def MatOp.reading (op : MatOp) (c : Nat) : Wide :=
  { reads := op.readPieces c, writes := [], needs := fun _ => [], got := op.got, units := [] }

/-- A preload ends: the shadow plane is written, the tile released, the semaphore incremented (R321). -/
def State.preloadEnd (o s : State) (c : Nat) (op : MatOp) : State :=
  let p := o.preloaded c op
  let s := s.matErrors c op ((o.tileErrs c op.t.w0).map fun e => matEntry 1 op.t.t.toNat e.1 e.2 op.seq)
  s.modCore c fun k =>
    let k : Core := { k with mat := { k.mat with shadow := p, preload := none } }
    let k := if op.rel then k.releaseTile op.t else k
    match op.sem with
    | some m => k.semAdd m.toNat 1
    | none => k

/-- PRELOAD_COMPLETE: the preload under way reads on, or ends. -/
def execPreloadComplete (core : Nat) (s : State) : Out :=
  if !coreOk core then .fault .noSuchUnit else
  match (s.core core).mat.preload with
  | none => .next s
  | some op => .next (s.wide (op.reading core)
      { move := fun o => o, note := fun got _ s => s.modMat core fun m => { m with preload := some { op with got := got } },
        follow := fun _ _ _ s => s, after := fun o s => o.preloadEnd s core op })

/-- A stream has streamed its last row: its sums are in the accumulator, its tiles are released (R321, R329). -/
def State.streamEnd (o s : State) (c i : Nat) (op : MatOp) : State :=
  let cells := o.productCells c op
  let s := s.matErrors c op (o.streamErrs c op)
  let s := s.modMat c fun m =>
    let m := m.setAcc cells
    { m with compute := listUpd m.compute i fun (o : MatOp) => { o with streamed := true } }
  if !op.rel then s else s.modCore c fun k =>
    let k := k.releaseTile op.t
    match op.t1 with
    | none => k
    | some x => k.releaseTile x

/-- STREAM_LAST_ROW: the first streaming syllable that has rows left reads on, or streams its last one. -/
def execStreamLastRow (core : Nat) (s : State) : Out :=
  if !coreOk core then .fault .noSuchUnit else
  match findIdxN (fun (o : MatOp) => o.kind.streams && !o.streamed) (s.core core).mat.compute 0 with
  | none => .next s
  | some i =>
    match (s.core core).mat.compute[i]? with
    | none => .next s
    | some op => .next (s.wide (op.reading core)
        { move := fun o => o,
          note := fun got _ s => s.modMat core fun m => { m with compute := listUpd m.compute i fun (o : MatOp) => { o with got := got } },
          follow := fun _ _ _ s => s, after := fun o s => o.streamEnd s core i op })

/-- The effect of a compute-path syllable at its completion, where it is no drain. -/
def State.matFinish (s : State) (c : Nat) (op : MatOp) : State :=
  let clear (m : Matrix) (lo hi : Nat) : Matrix :=
    { m with acc := m.acc.filter (fun e => !(decide (lo ≤ e.1) && decide (e.1 < hi))),
             accBad := m.accBad.filter fun k => !(decide (lo ≤ k) && decide (k < hi)) }
  match op.kind with
  | .mmz => s.modMat c fun m => clear m (op.q.toNat * 128 * 256) ((op.q.toNat + 1) * 128 * 256)
  | .mmzAll => s.modMat c fun m => clear m 0 (512 * 256)
  | _ => s

/-- The oldest dispatched compute-path syllable leaves. -/
def State.matLeave (s : State) (core : Nat) (op : MatOp) : State :=
  s.modCore core fun k =>
    let k : Core := { k with mat := { k.mat with compute := k.mat.compute.tail } }
    match op.sem with
    | some m => k.semAdd m.toNat 1
    | none => k

def MatKind.drains : MatKind → Bool
  | .drn _ | .drn8 _ | .drnmx _ | .drna => true
  | _ => false

/-- A drain as a wide access; DRNA reads the tile that it writes, element by element. -/
def MatOp.draining (op : MatOp) (c : Nat) : Wide :=
  { reads := if op.kind = .drna then op.drainPieces c else [], writes := op.drainPieces c,
    needs := fun us => if op.kind = .drna then us else [], got := op.got, units := op.units }

/-- The oldest dispatched compute-path syllable completes (R320, R321); a drain writes its tiles unit by unit (R148). -/
def execMatrixComplete (core : Nat) (s : State) : Out :=
  if !coreOk core then .fault .noSuchUnit else
  match (s.core core).mat.compute with
  | [] => .next s
  | op :: rest =>
    if !op.pastRows || op.kind = .ashape then .next s
    else if !op.kind.drains then .next ((s.matFinish core op).matLeave core op)
    else .next (s.wide (op.draining core)
      { move := fun o => o.drainMove core op,
        note := fun got now s => s.modMat core fun m => { m with compute := { op with got := got, units := now ++ op.units } :: rest },
        follow := fun _ _ out s => s.clobber ((piecePlaces out).map fun l => (l, l)),
        after := fun o s => (o.drainEnd s core op).matLeave core op })

/-- The bands that an ASHAPE switched on are ready (R327). -/
def execBandReady (core : Nat) (s : State) : Out :=
  if !coreOk core then .fault .noSuchUnit else
  match (s.core core).mat.compute with
  | op :: rest => if op.kind = .ashape then .next (s.modMat core fun m => { m with compute := rest }) else .next s
  | [] => .next s

end Sys2Proof.Machine
end

