-- ==== Sys2Proof/Machine/NearMem.lean ====
section
/-! DEFINITION. Adds and reductions at memory (11 R355-R359) and bank commands (11 R342-R354): what the syllables check and send, and the
steps of the base die and of the bank queue. -/

namespace Sys2Proof.Machine

/-! ## NMADD and NMFENCE (R355-R357, R169, R170) -/

/-- A store can write in a line; a tile's store is judged by its pages. -/
def StoreOp.touches (t : StoreOp) (ln : Nat) : Bool :=
  match t.kind with
  | .st va n _ => (t.snap.pieces va.toNat n).any fun p => (linesOf p).contains ln
  | .atomnr _ _ _ va _ _ => lineOf (t.snap.place va.toNat) = ln
  | .semsig _ _ => false
  | _ => t.snap.any fun e => decide (e.2 / 65536 = ln * 128 / 65536)
/-- Pending stores of a core up to the last one that can touch a line, so that an NMADD to it waits for them (R169). -/
def storesBefore (l : List StoreOp) (ln : Nat) : Nat :=
  (List.range l.length).foldl (fun n i => match l[i]? with
    | some t => if t.touches ln then i + 1 else n
    | none => n) 0

/-- The first byte of a snap's pages that lies in a cantilever page, among given addresses (R137). -/
def cantHit (sn : Snap) (starts : List Nat) : Option Nat := starts.find? fun a => isCant (sn.place a)

/-- NMADD at issue. -/
def execNmadd (st : BitVec 2) (d a : BitVec 6) (w o : BitVec 4) (s : State) : Out :=
  done ((s.srcS st w.toNat a).bind fun x =>
    (x.2.srcS st w.toNat d).bind fun v =>
      let s := v.2
      let va := (x.1.toNat : Int) + immVal o.toNat 4 true s.issue.exts * 4
      if va % 4 ≠ 0 then .error (s.accessFault (accFail 5 (va % (2 ^ 52 : Nat)).toNat))
      else (s.access 0 permW va 4).bind fun (sn, s) =>
        let l := sn.place va.toNat
        if isCant l then .error (s.accessFault (accFail 6 va.toNat))
        else if s.cur.nm.length ≥ 64 then .error (s.waitOn 18 0 0 (BitVec.ofInt 52 va))
        else .ok (s.modCur fun k =>
          { k with nm := k.nm ++ [{ loc := l, va := BitVec.ofInt 52 va, v := v.1.setWidth 32, accepted := none,
                                    after := storesBefore k.stores (lineOf l) }] }))

/-- NMFENCE waits for the adds of earlier bundles; one of its own bundle was not issued before it (R46, R170, R357). -/
def execNmfence (_ : BitVec 2) (s : State) : Out := if s.issue.pre.nm = [] then .next s else .next (s.waitOn 18 0 0)

/-- The NMADD of a core that is accepted next: its adds reach the stack in S order (R169, R414), each once the stores before it to its line
are performed. -/
def Core.nmReady (k : Core) : Option Nat :=
  match findIdxN (fun (n : NmOp) => n.accepted.isNone) k.nm 0 with
  | some i => (k.nm[i]?).bind fun n => if n.after = 0 then some i else none
  | none => none

/-- One of several: the first, or a later one by a free choice. -/
def State.pick : List Nat → State → Option Nat × State
  | [], s => (none, s)
  | [a], s => (some a, s)
  | a :: r, s => let (b, s) := s.choose; if b then (some a, s) else State.pick r s

/-- The place of an NMADD of a list. -/
def nmLoc (l : List NmOp) (i : Nat) : Nat :=
  match l[i]? with
  | some n => n.loc
  | none => 0

/-- The home slice accepts an NMADD of core c: it writes back and invalidates the line, which an L1 that holds it exclusively gives up
first, and numbers the acceptance (R167, R169). -/
def execNmaddAccept (core : Nat) (s : State) : Out :=
  if !coreOk core then .fault .noSuchUnit else
  match (s.core core).nmReady with
  | none => .next s
  | some i =>
    let t := s.seqNo
    let s := { s.recall (nmLoc (s.core core).nm i) 4 with seqNo := t + 1 }
    .next (s.modCore core fun k => { k with nm := listUpd k.nm i fun (n : NmOp) => { n with accepted := some t } })

/-- Accepted NMADDs of core c that may be applied: none to the same word was accepted before them, by any core (R169). -/
def State.nmAccepted (s : State) (c : Nat) : List Nat :=
  (List.range (s.core c).nm.length).filter fun i =>
    match (s.core c).nm[i]? with
    | some n => match n.accepted with
      | some t => (s.nmHits [(n.loc, 4)]).all fun h => decide (t ≤ h.1) || decide (nmLoc (s.core h.2.1).nm h.2.2 ≠ n.loc)
      | none => false
    | none => false

/-- The base die applies an accepted NMADD of core c (R356). -/
def execNmaddApply (core : Nat) (s : State) : Out :=
  if !coreOk core then .fault .noSuchUnit else
  match State.pick (s.nmAccepted core) s with
  | (none, s) => .next s
  | (some i, s) =>
    let cells := match (s.core core).nm[i]? with
      | some n => (List.range 4).map fun j => (s.byteKey core (n.va.toNat + j), n.loc + j)
      | none => []
    .next ((s.applyNm core i).clobber cells)

/-! ## NMRED (R358, R359) -/

/-- The in-extent runs of the table rows that an index list names. -/
def redSegs (l : Rec8) (o0 : Int) (cols : Nat) (ix : List W32) : List Seg :=
  ix.flatMap fun x => boxSegs l ⟨o0, x.toInt, 0, 0⟩ 1 cols

/-- Ranges outside the windows and outside cantilever pages (R137). -/
def State.accessNm (p : Perm) (rs : List (Int × Nat)) (s : State) : Except State (Snap × State) :=
  rs.foldlM (fun (q : Snap × State) (r : Int × Nat) =>
    (q.2.accessAll 0 p [r]).bind fun (sn, s) =>
      match cantHit sn (pageStarts r.1.toNat r.2) with
      | some a => .error (s.accessFault (accFail 6 a))
      | none => .ok (q.1 ++ sn.filter fun e => !(q.1.any fun f => f.1 = e.1), s)) ([], s)

/-- The layout record of NMRED: no address that the command uses lies in a window or a cantilever page (R112, R129, R137). -/
def State.nmLayout (s : State) (va : W64) : Except State (Rec8 × State) :=
  if va.toNat % 64 ≠ 0 then .error (s.layoutFault 1)
  else (s.accessNm permR [(va.toNat, 64)]).bind fun (sn, s) => s.layoutAt sn va.toNat

/-- NMRED at issue. -/
def execNmred (st : BitVec 2) (t g : BitVec 6) (s : State) : Out :=
  done ((s.grpA st 3 g).bind fun m =>
    (s.tileDefined t).bind fun ref =>
      (s.nmLayout (nth m 0 0)).bind fun (l, s) =>
        let g1 := nth m 1 0
        let g2 := nth m 2 0
        let b := fld g2 0 16
        let x := fld g1 0 21
        let n := tRows ref.w0 * b
        if tFmt ref.w0 ≠ 0 ∨ 1 < lFmt l ∨ lNdim l ≠ 2 ∨ lMxl l ≠ 0 then .error (s.layoutFault 2)
        else if fld g1 21 11 ≠ 0 ∨ fld g2 16 48 ≠ 0 ∨ b = 0 ∨ 256 < b ∨ x % 4 ≠ 0 ∨ 65536 < n ∨ spadSize < x + 4 * n then
          .error (s.layoutFault 5)
        else
          let ix : List W32 := (List.range n).map fun i => BitVec.ofNat 32 (s.rdN (spadPlace s.issue.core (x + 4 * i)) 4)
          let o0 := toSigned 32 (fld g1 32 32)
          let segs := redSegs l o0 (tCols ref.w0) ix.eraseDups
          if addrArithBad l segs then .error s.addrFault
          else (s.accessNm permR (segRanges segs)).map fun r => r.2.issueLoad (.nmred l o0 b ix ref) r.1)

/-- The exact value of a table element; one outside the extent, or marked, adds nothing (R359). -/
def State.redVal (s : State) (sn : Snap) (l : Rec8) (c : Coord) : Option Val :=
  if !c.inExtent l then none
  else
    let (a, n) := elemBytes l c
    if (List.range n).any fun i => s.marked (sn.place (a + i)) 1 then some Val.zero
    else some (fmtVal (lFmt l) (s.elemBits sn l c))

/-- The first marked byte that the indexed elements of a tile column range touch. -/
def State.redBad (s : State) (sn : Snap) (segs : List Seg) : Option Nat :=
  segs.findSome? fun g => (List.range g.n).findSome? fun i =>
    if s.marked (sn.place (g.va.toNat + i)) 1 then some (g.va.toNat + i) else none

/-- The pieces of the indexed rows. -/
def redPieces (sn : Snap) (l : Rec8) (o0 : Int) (ix : List W32) (t : TileRef) : List (Nat × Nat) :=
  (redSegs l o0 (tCols t.w0) ix.eraseDups).flatMap fun g => sn.pieces g.va.toNat g.n

/-- The units of the table that the given units of the tile are sums of. -/
def redNeeds (c : Nat) (sn : Snap) (l : Rec8) (o0 : Int) (b : Nat) (ix : List W32) (t : TileRef) (us : List Nat) : List Nat :=
  ((List.range (tRows t.w0)).flatMap fun i => (List.range (tCols t.w0)).flatMap fun j =>
    if !us.contains (rowByte c t.w0 i (4 * j) / 8) then [] else
    (List.range b).flatMap fun k =>
      let x : Coord := ⟨o0 + j, (nth ix (i * b + k) 0).toInt, 0, 0⟩
      if !x.inExtent l then [] else
      let (a, n) := elemBytes l x
      (List.range n).map fun i => sn.place (a + i) / 8).eraseDups

/-- The sums that an NMRED writes into its tile (R359). -/
def moveNmred (c : Nat) (op : LoadOp) (l : Rec8) (o0 : Int) (b : Nat) (ix : List W32) (t : TileRef) (s : State) : State :=
  let rows := (List.range (tRows t.w0)).map fun i => (List.range (tCols t.w0)).map fun j =>
    ((List.range b).foldl (fun (a : W32) k =>
      match s.redVal op.snap l ⟨o0 + j, (nth ix (i * b + k) 0).toInt, 0, 0⟩ with
      | some v => addF32 a (to32 v)
      | none => a) 0).toNat
  (List.range rows.length).foldl (fun s i => s.wrTileRow c t.w0 i (nth rows i [])) s

/-- An NMRED has written its sums from memory o: the fill, poisoned if an element was marked (R266, R359). -/
def endNmred (c : Nat) (op : LoadOp) (l : Rec8) (o0 : Int) (ix : List W32) (t : TileRef) (o s : State) : State :=
  let bad := o.redBad op.snap (redSegs l o0 (tCols t.w0) ix.eraseDups)
  let s := match bad with
    | some va => s.consumed c (op.snap.place va)
    | none => s
  s.modCore c fun k =>
    match bad with
    | some va =>
      let (i, k) := k.defer 0x40 va op.walk
      k.fillTile t (some (BitVec.ofNat 8 i))
    | none => k.fillTile t none

/-! ## Bank commands at issue (R342-R346, R539) -/

/-- A page that a bank command names: its first byte, whether it is written, its leaf. -/
structure BkPage where
  va : Nat
  w : Bool
  pte : W64
  level : Nat
  deriving DecidableEq, Repr

/-- Translations of the pages of a bank command: cause 1, or the translation interlock (R344). -/
def State.bkLeaves : List (Nat × Bool) → State → XCtx → List BkPage → Except State (List BkPage × State)
  | [], s, _, acc => .ok (acc, s)
  | (va, w) :: r, s, x, acc =>
    match s.leafOf x va with
    | (.fail f, s) => .error (s.accessFault f)
    | (.hold, s) => .error s.interlock
    | (.leaf e lv, s) => State.bkLeaves r s x (acc ++ [⟨va, w, e, lv⟩])

/-- The remaining checks of R344 on the leaves, cause by cause, and the places of the pages. -/
def State.bkPlaces (s : State) (x : XCtx) (ps : List BkPage) : Except State (Snap × List Nat) :=
  let fault (cause : Nat) (p : BkPage) : Except State (Snap × List Nat) :=
    .error (s.accessFault ⟨cause, p.va, p.level, false, none, p.pte⟩)
  match ps.find? fun p => !(if p.w then p.pte.getLsbD 60 else p.pte.getLsbD 61) with
  | some p => fault 2 p
  | none =>
    match ps.find? fun p => p.pte.getLsbD 56 with
    | some p => fault 6 p
    | none =>
      match ps.find? fun p => (s.leafPlace x p.va p.pte p.level).toOption.isNone with
      | some p => fault 7 p
      | none =>
        .ok (ps.map fun p => (p.va / 65536, ((s.leafPlace x p.va p.pte p.level).toOption.getD 0)),
          (ps.filter fun p => p.pte.getLsbD 57 && !p.pte.getLsbD 58).map fun p => p.va / 65536)

/-- The instance that runs on a core. -/
def State.instAt (s : State) (c : Nat) : Nat :=
  match s.gangAt c with
  | some g => g.inst
  | none => 0

/-- Channel commands that have not completed: channel and walk count. -/
def Core.openChans (k : Core) : List (Nat × W64) :=
  (List.range 16).filterMap fun i =>
    let ch := vget k.chans i .reset
    if ch.state = .idle then none else ch.cmd.map fun c => (i, c.walk)

/-- A bank command of operation op with its group members (R343, R344, R346). -/
def bankIssue (op : Nat) (m : List W64) (s : State) : Except State State :=
  let g0 := nth m 0 0
  let g1 := nth m 1 0
  let g2 := nth m 2 0
  let srcs := m.drop 3
  let fill := fld g1 32 2
  let lenk := fld g1 0 32
  let dst := fld g0 0 52
  let crec := fld g2 0 52
  let len := 1024 * lenk
  let slen := if op = 1 then 1024 else len
  if fld g0 52 12 ≠ 0 ∨ fld g1 34 30 ≠ 0 ∨ fld g2 52 12 ≠ 0 ∨ srcs.any (fun v => decide (fld v 52 12 ≠ 0)) ∨ fill = 3
      ∨ (fill ≠ 0 ∧ op ≠ 1) then .error (s.layoutFault 5)
  else match (dst :: srcs.map fun v => fld v 0 52).find? fun a => decide (a % 1024 ≠ 0) with
  | some a => .error (s.accessFault (accFail 9 a))
  | none =>
    if lenk = 0 ∨ 16384 < lenk then .error (s.accessFault (accFail 9 dst))
    else if crec % 64 ≠ 0 then .error (s.layoutFault 5)
    else
      let ranges := (dst, len, true) :: (srcs.map fun v => (fld v 0 52, slen, false)) ++ [(crec, 64, true)]
      match ranges.find? fun r => decide (0xE * 2 ^ 48 < r.1 + r.2.1) with
      | some r => .error (s.accessFault (accFail 4 (max r.1 (0xE * 2 ^ 48))))
      | none =>
        let x : XCtx := { core := some s.issue.core, part := s.cur.part, unit := .bank s.issue.core, die := s.issue.core / 60, win := 0 }
        (State.bkLeaves (ranges.flatMap fun r => (pageStarts r.1 r.2.1).map fun a => (a, r.2.2)) s x []).bind fun (ps, s) =>
          (s.bkPlaces x ps).bind fun (sn, native) =>
            if (s.cur.bankQ.countP fun b => !b.complete) ≥ 16 then .error (s.waitOn 17 0 0)
            else
              let id := s.cur.id
              let cmd : BankCmd :=
                { op := BitVec.ofNat 3 op, dst := BitVec.ofNat 52 dst, lenk := lenk, crec := BitVec.ofNat 52 crec, fill := BitVec.ofNat 2 fill,
                  srcs := srcs.map fun v => BitVec.ofNat 52 v.toNat, snap := sn, seq := s.cur.bkseq, inst := s.instAt s.issue.core,
                  serial := BitVec.ofNat 32 (fld id.inst 32 32), part := s.cur.part, gang := BitVec.ofNat 15 (fld id.gang 0 15),
                  rank := BitVec.ofNat 4 (fld id.core 0 4), after := s.cur.stores.length, afterNm := s.cur.nm.length,
                  afterLd := s.cur.loads.length, chans := s.cur.openChans,
                  started := false, rows := [], kept := [], fast := 0, seqr := 0, copy := 0, err := 0, complete := false,
                  native := native, spoiled := false, tns := 0 }
              let s := s.modCur fun k => { k with bankQ := k.bankQ ++ [cmd], bkseq := k.bkseq + 1 }
              .ok { s with insts := s.insts.map fun i => if i.id = cmd.inst then { i with bkQueued := i.bkQueued + 1 } else i }

/-- A command whose group has n members. -/
def bankGroup (op n : Nat) (st : BitVec 2) (g : BitVec 6) (s : State) : Out :=
  done ((s.grpS st n g).bind fun m => bankIssue op m s)

def execBkcopy (st : BitVec 2) (g : BitVec 6) (s : State) : Out := bankGroup 0 4 st g s
/-- BKFILL (R539): FILL = 2 reads a fourth member, whose code is judged here. -/
def execBkfill (st : BitVec 2) (g : BitVec 6) (s : State) : Out :=
  done ((s.grpS st 3 g).bind fun m =>
    if fld (nth m 1 0) 32 2 ≠ 2 then bankIssue 1 m s
    else match sGrp 4 g with
      | some _ => .error (s.illegal 4)
      | none => (s.grpS st 4 g).bind fun m => bankIssue 1 m s)
def execBkand (st : BitVec 2) (g : BitVec 6) (s : State) : Out := bankGroup 2 5 st g s
def execBkor (st : BitVec 2) (g : BitVec 6) (s : State) : Out := bankGroup 3 5 st g s
def execBknot (st : BitVec 2) (g : BitVec 6) (s : State) : Out := bankGroup 4 4 st g s
def execBkmaj (st : BitVec 2) (g : BitVec 6) (s : State) : Out := bankGroup 5 6 st g s

/-- BKWAIT (R354). -/
def execBkwait (_ : BitVec 2) (m n : BitVec 6) (w : BitVec 4) (s : State) : Out :=
  let x := vget s.cur.sems m.toNat .reset
  if x.count.toNat < n.toNat + 1 then .next (s.waitOn 9 m.toNat w.toNat)
  else .next (s.modCur fun k => { k with sems := vset k.sems m.toNat ⟨x.count - BitVec.ofNat 32 (n.toNat + 1), x.ovf⟩ })

/-! ## The bank queue's steps (R346-R352) -/

def State.setBank (s : State) (c i : Nat) (f : BankCmd → BankCmd) : State := s.modCore c fun k => { k with bankQ := listUpd k.bankQ i f }

/-- The oldest command of core c that has not completed. -/
def Core.bankHead (k : Core) : Option (Nat × BankCmd) :=
  match findIdxN (fun (b : BankCmd) => !b.complete) k.bankQ 0 with
  | some i => (k.bankQ[i]?).map fun b => (i, b)
  | none => none

/-- The oldest command starts once all that it waits for is done (R346). -/
def execBankCommandStart (core : Nat) (s : State) : Out :=
  if !coreOk core then .fault .noSuchUnit else
  match (s.core core).bankHead with
  | some (i, b) =>
    if b.started || b.after ≠ 0 || b.afterNm ≠ 0 then .next s else .next (s.setBank core i fun b => { b with started := true })
  | none => .next s

/-- Operand rows of destination row r: destination first (R342). -/
def BankCmd.rowVas (b : BankCmd) (r : Nat) : List Nat :=
  (b.dst.toNat + 1024 * r) :: b.srcs.map fun v => if b.op = 1 then v.toNat else v.toNat + 1024 * r

/-- The path of a row (R348): 0 fast, 1 the stack's sequencer, 2 a copy engine. -/
def State.rowPath (s : State) (b : BankCmd) (r : Nat) : Nat :=
  let vas := b.rowVas r
  let native (va : Nat) : Bool :=
    let p := b.snap.place va
    b.native.contains (va / 65536) && isHbm p && bnFrame s.ext p
  let p0 := b.snap.place (nth vas 0 0)
  let fast := native (nth vas 0 0) && (b.op = 1 || (vas.drop 1).all fun va =>
    native va && b.snap.place va >>> 24 = p0 >>> 24 && b.snap.place va % 32768 = p0 % 32768)
  if fast then 0
  else if vas.all fun va => stackOf (b.snap.place va) = stackOf p0 then 1 else 2

/-- Result byte from the source bytes (R342). -/
def BankCmd.result (b : BankCmd) (v : List Byte) : Byte :=
  let x := nth v 0 0
  let y := nth v 1 0
  let z := nth v 2 0
  match b.op.toNat with
  | 0 => x
  | 1 => if b.fill = 0 then 0 else if b.fill = 1 then 0xFF else x
  | 2 => x &&& y
  | 3 => x ||| y
  | 4 => ~~~x
  | _ => (x &&& y) ||| (x &&& z) ||| (y &&& z)

/-- Byte o of the destination lies in a source range that is not the destination itself (R347). -/
def BankCmd.overlaps (b : BankCmd) (o : Nat) : Bool :=
  let len := if b.op = 1 then 1024 else 1024 * b.lenk
  b.srcs.any fun v =>
    !(v = b.dst && len = 1024 * b.lenk) && decide (v.toNat ≤ b.dst.toNat + o) && decide (b.dst.toNat + o < v.toNat + len)

/-- A bank command has met uncorrectable data: the event names the instance that issued it (R504, R511). -/
def State.bankConsumed (s : State) (c : Nat) (b : BankCmd) (l : Nat) : State :=
  s.postEventH b.part 4 (s.headerOf b.part 4 b.part (some c) (eventWho b.serial.toNat b.gang.toNat b.rank.toNat)) [ueEvent 2 l]

/-- The places among some pieces that a bank command of another core writes (R353). -/
def State.bankOther (s : State) (c : Nat) (ps : List (Nat × Nat)) : List Nat :=
  let bs := (List.range 480).flatMap fun k => if k = c then [] else (s.core k).bankQ
  if bs = [] then [] else (piecePlaces ps).filter fun l => bs.any fun b => inPieces b.dstPieces l

/-- The units of a destination row that a source range other than the destination itself holds, as they stand (R347). -/
def State.keptUnits (s : State) (b : BankCmd) (row d : Nat) : List Got :=
  (List.range 128).filterMap fun u =>
    let p := d + 8 * u
    if b.overlaps (1024 * row + 8 * u) && !b.kept.any fun g => g.unit = p / 8 then some ⟨p / 8, s.rd p 8, s.marked p 8⟩ else none

/-- One destination row is written (R342, R347-R350): marks travel by sector, and undefined bytes stay free. Where the command has written one of
its own sources, the overlap alone is undefined, and other rows are computed from the source as it was. Commands of other cores, collectives
and transfers that touch the row are told (R353, R394, R537), and TIME is at least a nanosecond further than at the row before, so that it rises
from command to command (R351, R406). -/
def execBankRow (core row : Nat) (s : State) : Out :=
  if !coreOk core then .fault .noSuchUnit else
  match (s.core core).bankHead with
  | none => .next s
  | some (i, b) =>
    if !b.started || b.lenk ≤ row || b.rows.contains row then .next s
    else
      let ps := (b.rowVas row).map fun va => b.snap.place va
      let d := nth ps 0 0
      let srcs := ps.drop 1
      let s := { s.settled (ps.map fun p => (p, 1024)) with time := s.time + 1 }
      let s := s.undefine (s.bankOther core (srcs.map fun p => (p, 1024)))
      let o := s.over b.kept
      let bytes := (List.range 1024).map fun j => b.result (srcs.map fun p => o.mem.get (p + j))
      let bad := (List.range 32).filter fun k => srcs.any fun p => o.marked (p + 32 * k) 32
      let first := bad.head?.bind fun k => (srcs.find? fun p => o.marked (p + 32 * k) 32).map fun p => p + 32 * k
      let path := s.rowPath b row
      let keep := s.keptUnits b row d
      let s := match first with
        | some p => s.bankConsumed core b p
        | none => s
      let s := s.wr d bytes
      let s := bad.foldl (fun s k => s.mark (d + 32 * k)) s
      let s := s.undefine (((List.range 1024).filter fun j => b.spoiled || b.overlaps (1024 * row + j)).map fun j => d + j)
      let s := (s.wroteOver (fun k _ => k == core) .engine [(d, 1024)]).wroteLand [(d, 1024)]
      .next (s.setBank core i fun b =>
        { b with rows := b.rows ++ [row], kept := keep ++ b.kept, tns := s.time, fast := b.fast + b2n (path = 0), seqr := b.seqr + b2n (path = 1),
                 copy := b.copy + b2n (path = 2), err := b.err + b2n (!bad.isEmpty) })

/-- The command has written its last row (R352). -/
def execBankCommandComplete (core : Nat) (s : State) : Out :=
  if !coreOk core then .fault .noSuchUnit else
  match (s.core core).bankHead with
  | some (i, b) =>
    if !b.started || b.rows.length < b.lenk then .next s
    else .next (s.setBank core i fun b => { b with complete := true })
  | none => .next s

/-- The completion record (R351). -/
def BankCmd.record (b : BankCmd) : List W64 :=
  let kinds := [b.fast, b.seqr, b.copy]
  let path := if kinds.countP (fun n => decide (n ≠ 0)) = 1 then
      (if b.fast ≠ 0 then 0 else if b.seqr ≠ 0 then 1 else 2) else 3
  [BitVec.ofNat 64 ((if b.err = 0 then 1 else 2) <<< 60 ||| b.op.toNat <<< 57 ||| path <<< 55 ||| b.dst.toNat),
   BitVec.ofNat 64 (b.fast <<< 32 ||| (b.seqr + b.copy)), b.tns,
   BitVec.ofNat 64 (b.serial.toNat <<< 32 ||| b.gang.toNat <<< 17 ||| b.rank.toNat),
   BitVec.ofNat 64 (b.err <<< 32 ||| b.seq.toNat), 0, 0, 0]

/-- The instance that issued a command has completed (R164, R352). -/
def State.instDone (s : State) (i : Nat) : Bool :=
  match s.insts.find? fun x => x.id = i with
  | some x => x.ended
  | none => true

/-- The oldest completed command whose instance has completed writes its record and is reported (R352). -/
def execBankCompletionRecord (core : Nat) (s : State) : Out :=
  if !coreOk core then .fault .noSuchUnit else
  match findIdxN (fun (b : BankCmd) => b.complete && s.instDone b.inst) (s.core core).bankQ 0 with
  | none => .next s
  | some i =>
    match (s.core core).bankQ[i]? with
    | none => .next s
    | some b =>
      let p := b.snap.place b.crec.toNat
      let s := (s.settled [(p, 64)]).wr p (b.record.flatMap fun (w : W64) => toBytes 8 w.toNat)
      let s := (s.wroteOver (fun k _ => k == core) .engine [(p, 64)]).wroteLand [(p, 64)]
      let s := s.modCore core fun k => { k with bankQ := k.bankQ.eraseIdx i }
      .next { s with insts := s.insts.map fun x => if x.id = b.inst then { x with bkReported := x.bkReported + 1 } else x }

/-- A command pins a granule of 64 KiB of physical memory, from its issue until its record is written (R345). R352 has it drop its pins when
its last row is written; R345, which says what pinning is, is followed (log 39). -/
def BankCmd.pinsGran (b : BankCmd) (gran : Nat) : Bool := b.snap.any fun e => e.2 / 65536 = gran

/-- Bank commands that pin a granule (R345, R487). -/
def State.pins (s : State) (gran : Nat) : Nat := s.bankCmds.countP fun b => b.pinsGran gran

end Sys2Proof.Machine
end

