-- ==== Sys2Proof/Machine/Landing.lean ====
section
/-! DEFINITION. Landing records, update records, weight generations and the abutment engines (11 R360-R376, R540): shards arrive and are
applied, runs start and end, and the syllables that exist only in abutment programs. -/

namespace Sys2Proof.Machine

/-! ## Records (R368, R374, R375) -/

def lrState (r : Rec8) : Nat := fld r[0] 62 2
def lrErr (r : Rec8) : Nat := fld r[0] 56 6
def lrAcc (r : Rec8) : Nat := fld r[0] 0 52
def lrRows (r : Rec8) : Nat := fld r[1] 24 24
def lrCols (r : Rec8) : Nat := fld r[1] 0 24
def lrRow0 (r : Rec8) : Nat := fld r[2] 24 24
def lrCol0 (r : Rec8) : Nat := fld r[2] 0 24
def lrNmb (r : Rec8) : Nat := fld r[3] 48 16
def lrCnt (r : Rec8) : Nat := fld r[3] 32 16
def lrMalf (r : Rec8) : Nat := fld r[3] 16 16
def lrUrec (r : Rec8) : Nat := fld r[4] 0 52
def lrSpidx (r : Rec8) : Nat := fld r[5] 0 52
def lrSpcnt (r : Rec8) : Nat := fld r[6] 0 32
def lrDonew (r : Rec8) : Nat := fld r[7] 0 52
/-- Blocks of a shard. -/
def lrBlocks (r : Rec8) : Nat := lrRows r / 8 * (lrCols r / 8)

def uW (u : List W64) (i : Nat) : W64 := nth u i 0
def urProg (u : List W64) : Nat := fld (uW u 0) 0 52
def urLen (u : List W64) : Nat := fld (uW u 0) 52 8 + 1
def urGrec (u : List W64) : Nat := fld (uW u 1) 0 52
def urL (u : List W64) (i : Nat) : Nat := fld (uW u (3 + i)) 0 52
def urLw (u : List W64) (i : Nat) : Nat := fld (uW u (7 + i)) 0 52
def urLprog (u : List W64) : Nat := fld (uW u 9) 0 52
def urLlen (u : List W64) : Nat := fld (uW u 9) 52 8 + 1
def urConst (u : List W64) (n : Nat) : W32 := BitVec.ofNat 32 (fld (uW u (16 + n / 2)) (32 * (n % 2)) 32)

/-! ## The base die's accesses -/

/-- The base die of a stack translates for a partition; it has no core, so both windows fail (R112, R129). -/
def bdX (part stack : Nat) : XCtx := { core := none, part, unit := .baseDie stack, die := stack / 2, win := 0 }

/-- The stack that a virtual address is homed on. -/
def State.stackAt (s : State) (part va : Nat) : Nat :=
  match (s.walkPages part 0 va).1 with
  | .leaf e lv => (match s.leafPlace (bdX part 0) va e lv with
    | .ok l => stackOf l
    | .error _ => 0)
  | _ => 0

/-- Why the base die does not go on: an ERR code of R369, or 0 when an access is held (R495), and the place of a damaged table entry that a
walk met (R511). -/
structure BdErr where
  code : Nat
  ue : Option Nat

def bdErr (n : Nat) : BdErr := ⟨n, none⟩

/-- A range reached by the base die; a failure is ERR 2. -/
def State.bd (x : XCtx) (p : Perm) (va n : Nat) (s : State) : Except BdErr (Snap × State) :=
  match s.reach x p va n with
  | .error (.wait _ _) => .error (bdErr 0)
  | .error (.fail f) => .error ⟨2, f.ue⟩
  | .ok (sn, s) => if sn.any fun e => isCant e.2 then .error (bdErr 2) else .ok (sn, s)

/-- Words read by the base die. -/
def State.bdWords (x : XCtx) (va n : Nat) (s : State) : Except BdErr (List W64 × State) :=
  (s.bd x permR va (8 * n)).map fun (sn, s) =>
    let (b, s) := s.readBytes sn va (8 * n)
    ((List.range n).map fun i => BitVec.ofNat 64 (ofBytes ((b.drop (8 * i)).take 8)), s)

def rec8Of (l : List W64) : Rec8 := vecOf 8 fun i => nth l i 0

/-- The landing record at an address, as the base die reads it. -/
def State.landRec (part : Nat) (a : VA) (s : State) : Except BdErr (Rec8 × State) :=
  (s.bdWords (bdX part (s.stackAt part a.toNat)) a.toNat 8).map fun (w, s) => (rec8Of w, s)

/-- One word of a record written by the base die, as an atomic update at its home slice (R368). -/
def State.bdPut (x : XCtx) (va : Nat) (v : W64) (s : State) : Except BdErr State :=
  (s.bd x permW va 8).map fun (sn, s) =>
    ((s.settled [(sn.place va, 8)]).wr64 (sn.place va) v).wroteOver (fun _ _ => false) .engine [(sn.place va, 8)]

/-! ## Programs (R361-R365) -/

/-- Words of the syllables that an abutment program may hold: a mask, the first word under it, and how many follow by 1. -/
def abutForms : List (Nat × Nat × Nat) :=
  [(0xFFC0000F, 0x84000000, 5), (0xFFC00F8F, 0x84000005, 2), (0xFFC00003, 0x84400000, 4), (0xFFC0000F, 0x84800000, 14),
   (0xFFC00F8F, 0x8480000E, 2), (0xFFC0000F, 0x84C00000, 7), (0xFFF0000F, 0x85000000, 10), (0xFFC0000F, 0x85400000, 1),
   (0xFFC00F8F, 0x85800000, 5), (0xFFC00F8F, 0x85C00000, 16), (0xFFC0000F, 0x86000000, 7), (0xFFC00F8F, 0x86400000, 11)]
  ++ [(0xFFC0FFE0, 0x86800000, 1), (0xFFC0FFE0, 0x86808000, 1), (0xFFC00003, 0x86C00000, 1), (0xFFC00FFF, 0x86C00001, 1),
   (0xFFC0000F, 0x87000000, 1), (0xFFC1FF8F, 0x87000001, 1), (0xFFF18C7F, 0x87400000, 4), (0xFFF18FFF, 0x87400004, 2),
   (0xFFF00FFF, 0x87400006, 1), (0xFFC18FFF, 0x87400007, 1), (0xFFE0C3FF, 0x87800000, 1), (0xFFE0FFFF, 0x8E000000, 3),
   (0xFFFFFFFF, 0x8E400000, 2), (0xFFFFFFFF, 0x8E800000, 1)]

/-- A syllable that a program may hold. -/
def abutWordOk (w : W32) : Bool :=
  abutForms.any fun f => decide (f.2.1 ≤ w.toNat &&& f.1) && decide (w.toNat &&& f.1 < f.2.1 + f.2.2)

def padSyl : W32 := 0x003FFFFF
def sylMajor (w : W32) : Nat := fld w 22 6
/-- VROW names a slot, and writes it or reads it (R363). -/
def vrowSlot (w : W32) : Nat := fld w 16 6
def vrowWrites (w : W32) : Bool := w.getLsbD 15

/-- Syllables of a bundle without its pads. -/
def sylsOf (b : Vector W32 8) : List W32 := b.toList.filter fun w => w ≠ padSyl

/-- Limits of a bundle and of its syllables (R361, R363). -/
def abutBundleOk (landing : Bool) (slot : Nat → Bool) (b : Vector W32 8) : Bool :=
  let l := sylsOf b
  l.all abutWordOk && decide (l.length ≤ 4) && decide (l.countP (fun w => decide (sylMajor w ≤ 0x1E)) ≤ 2)
  && l.all fun w =>
    match sylMajor w with
    | 0x1A => !landing && slot (vrowSlot w) && !(vrowSlot w = 7 && vrowWrites w)
    | 0x38 => if fld w 0 5 = 0 then landing else if fld w 0 5 = 1 then !landing else true
    | 0x39 => !(landing && fld w 0 5 = 1)
    | _ => true

/-- GLAND syllables of sub 0 on the path that no SKIPZ ends: up to the bundle of the first ABEND (R364, R366). -/
def landCount : List (Vector W32 8) → Nat
  | [] => 0
  | b :: r =>
    let n := (sylsOf b).countP fun w => sylMajor w = 0x38 && fld w 0 5 = 0
    if (sylsOf b).any fun w => decide (sylMajor w = 0x3A) then n else n + landCount r

def abutValid (landing : Bool) (slot : Nat → Bool) (p : List (Vector W32 8)) : Bool :=
  p.all (abutBundleOk landing slot) && (!landing || landCount p = 1)

/-- Bundles out of bytes. -/
def bundlesOf (n : Nat) (b : List Byte) : List (Vector W32 8) :=
  (List.range n).map fun i => vecOf 8 fun j => BitVec.ofNat 32 (ofBytes ((b.drop (32 * i + 4 * j)).take 4))

/-- The default landing program `gland v2; abend` (R371). -/
def defaultLanding : List (Vector W32 8) :=
  [vecOf 8 fun j => if j = 0 then 0x8E020000 else if j = 1 then 0x8E800000 else padSyl]

def State.bdProg (x : XCtx) (va n : Nat) (s : State) : Except BdErr (List (Vector W32 8) × State) :=
  (s.bd x permR va (32 * n)).map fun (sn, s) =>
    let (b, s) := s.readBytes sn va (32 * n)
    (bundlesOf n b, s)

/-! ## Validation (R369) -/

/-- A layout record of an update, if its address is not 0. -/
def State.bdLayout (x : XCtx) (rows cols va : Nat) (s : State) : Except BdErr (Option Rec8 × State) :=
  if va = 0 then .ok (none, s)
  else if va % 64 ≠ 0 then .error (bdErr 1)
  else (s.bdWords x va 8).bind fun (w, s) =>
    let l := rec8Of w
    if lMalformed l ∨ lNdim l ≠ 2 ∨ lMxl l ≠ 0 ∨ lCanon l ≠ 0 ∨ 4 < lFmt l ∨ lExt l 0 < cols ∨ lExt l 1 < rows then .error (bdErr 1)
    else .ok (some l, s)

/-- A range that must be homed on the landing record's stack. -/
def State.bdHome (x : XCtx) (stack : Nat) (p : Perm) (va n : Nat) (s : State) : Except BdErr State :=
  (s.bd x p va n).bind fun (sn, s) => if sn.all fun e => decide (stackOf e.2 = stack) then .ok s else .error (bdErr 2)

/-- A shard-sized extent of a layout. -/
def State.bdExtent (x : XCtx) (stack : Nat) (p : Perm) (rows cols : Nat) (l : Option Rec8) (s : State) : Except BdErr State :=
  match l with
  | none => .ok s
  | some l => (List.range rows).foldlM (fun s r =>
      let a := elemAddr l ⟨0, r, 0, 0⟩
      if a < 0 then .error (bdErr 2) else s.bdHome x stack p a.toNat (cols * lWidth l / 8)) s

def increasing : List Nat → Bool
  | a :: b :: r => decide (a < b) && increasing (b :: r)
  | _ => true

/-- The sparse index stream of a record, if it has one. -/
def State.bdStream (x : XCtx) (r : Rec8) (s : State) : Except BdErr (Option (List Nat) × State) :=
  if lrSpidx r = 0 then .ok (none, s)
  else (s.bd x permR (lrSpidx r) (4 * lrSpcnt r)).map fun (sn, s) =>
    let (b, s) := s.readBytes sn (lrSpidx r) (4 * lrSpcnt r)
    (some ((List.range (lrSpcnt r)).map fun i => ofBytes ((b.drop (4 * i)).take 4)), s)

/-- Slots that programs name, with the permissions that they need. -/
def slotPerm (p : List (Vector W32 8)) (n : Nat) : Perm :=
  let ws := (p.flatMap sylsOf).filter fun w => sylMajor w = 0x1A && vrowSlot w = n
  ⟨ws.any fun w => !vrowWrites w, ws.any vrowWrites, false⟩

/-- A record's first checks: reserved bits and shape. R103 aligns a block of the accumulator to 256 bytes, and no rule gives an error to an ACC
that is not a multiple of 256: such a record is accepted, and its blocks are the 256 bytes that lie at ACC (log 77). -/
def lrMalformed (r : Rec8) : Bool :=
  fld r[0] 52 4 ≠ 0 || fld r[1] 48 16 ≠ 0 || fld r[2] 48 16 ≠ 0 || fld r[3] 0 16 ≠ 0 || fld r[4] 52 12 ≠ 0
  || fld r[5] 52 12 ≠ 0 || fld r[6] 32 32 ≠ 0 || fld r[7] 52 12 ≠ 0
  || lrRows r % 8 ≠ 0 || lrRows r = 0 || lrCols r % 8 ≠ 0 || lrCols r = 0 || lrRow0 r % 8 ≠ 0 || lrCol0 r % 8 ≠ 0
  || lrNmb r = 0 || (lrSpidx r = 0 && lrSpcnt r ≠ 0) || lrUrec r % 64 ≠ 0 || lrSpidx r % 4 ≠ 0 || lrDonew r % 8 ≠ 0

def urMalformed (u : List W64) : Bool :=
  fld (uW u 0) 60 4 ≠ 0 || fld (uW u 1) 52 12 ≠ 0 || (List.range 6).any (fun i => fld (uW u (3 + i)) 52 12 ≠ 0)
  || fld (uW u 9) 60 4 ≠ 0 || (List.range 6).any (fun i => uW u (10 + i) ≠ 0)
  || urProg u % 32 ≠ 0 || urLprog u % 32 ≠ 0 || urGrec u % 64 ≠ 0
  || (if urGrec u = 0 then urLw u 0 ≠ 0 || urLw u 1 ≠ 0 else urLw u 0 = 0 || urLw u 1 = 0)

/-- Slots that an update program may name. -/
def slotOk (u : List W64) (n : Nat) : Bool := if n < 4 then urL u n ≠ 0 else if n = 6 ∨ n = 7 then urGrec u ≠ 0 else false

/-- The base die validates an armed record, its update record and its programs; the error is its ERR code, or 0 when an access is
held. -/
def State.landValidate (part : Nat) (a : VA) (r : Rec8) (s : State) : Except BdErr State := do
  let stack := s.stackAt part a.toNat
  let x := bdX part stack
  let rows := lrRows r
  let cols := lrCols r
  let (_, s) ← s.bd x permRW a.toNat 64
  if lrMalformed r then throw (bdErr 1)
  let (u, s) ← s.bdWords x (lrUrec r) 24
  if urMalformed u then throw (bdErr 1)
  let (l0, s) ← s.bdLayout x rows cols (urL u 0)
  let (l1, s) ← s.bdLayout x rows cols (urL u 1)
  let (l2, s) ← s.bdLayout x rows cols (urL u 2)
  let (l3, s) ← s.bdLayout x rows cols (urL u 3)
  let (w0, s) ← s.bdLayout x rows cols (urLw u 0)
  let (w1, s) ← s.bdLayout x rows cols (urLw u 1)
  let s ← s.bdHome x stack permRW (lrAcc r) (256 * lrBlocks r)
  let s ← s.bdHome x stack permR (urProg u) (32 * urLen u)
  let (prog, s) ← s.bdProg x (urProg u) (urLen u)
  let s ← (if urLprog u = 0 then .ok s else s.bdHome x stack permR (urLprog u) (32 * urLlen u))
  let (lprog, s) ← (if urLprog u = 0 then .ok (defaultLanding, s) else s.bdProg x (urLprog u) (urLlen u))
  let s ← s.bdExtent x stack (slotPerm prog 0) rows cols l0
  let s ← s.bdExtent x stack (slotPerm prog 1) rows cols l1
  let s ← s.bdExtent x stack (slotPerm prog 2) rows cols l2
  let s ← s.bdExtent x stack (slotPerm prog 3) rows cols l3
  let s ← s.bdExtent x stack permRW rows cols w0
  let s ← s.bdExtent x stack permRW rows cols w1
  if !abutValid false (slotOk u) prog || !abutValid true (slotOk u) lprog then throw (bdErr 3)
  let (sp, s) ← s.bdStream x r
  match sp with
  | some l => if !increasing l || l.any fun n => decide (lrBlocks r ≤ n) then throw (bdErr 4)
  | none => pure ()
  let s ← (if urGrec u = 0 then .ok s
    else do
      let (_, s) ← s.bd x permRW (urGrec u) 64
      let (g, s) ← s.bdWords x (urGrec u) 8
      if fld (nth g 0 0) 48 15 ≠ 0 || (g.drop 2).any fun w => decide (w ≠ 0) then throw (bdErr 6)
      pure s)
  if lrDonew r = 0 then pure s
  else do
    let (_, s) ← s.bd x permRW (lrDonew r) 8
    pure s

/-! ## Errors and drops (R369, R390, R512) -/

/-- An event of class 9. -/
def State.landEvent (s : State) (part : Nat) (a : VA) (err : Nat) : State :=
  s.postEvent part 9 none [BitVec.ofNat 64 a.toNat, BitVec.ofNat 64 err]

/-- The end of a CRSL that waits on a shard, with its code. -/
def State.collEnd (s : State) (src : Option (Nat × Nat)) (code : Nat) : State :=
  match src with
  | none => s
  | some (c, n) => s.modCore c fun k =>
      { k with colls := vset k.colls n ((vget k.colls n none).map fun (x : Coll) =>
          if x.code.isNone then { x with code := some (BitVec.ofNat 8 code) } else x) }

/-- A damaged table entry that a base die's walk met is reported (R511). -/
def State.bdMet (s : State) (part : Nat) (e : BdErr) : State :=
  match e.ue with
  | some l => s.postEvent part 4 none [ueEvent 2 l]
  | none => s

/-- A record goes into error: STATE 3 and ERR, as far as it can be written; what is being applied to it ends (R369, R540). A CRSL whose shard
was being applied then has no end but an abort: code 7 leaves the record unchanged, and CNT does not rise for it (R387, R390, log 40). None:
the record's page is held, and the step is taken up again (R495). -/
def State.landFail (part : Nat) (a : VA) (code : Nat) (s : State) : Option State :=
  let x := bdX part (s.stackAt part a.toNat)
  let mine (l : Landing) : Bool := l.part == part && l.addr == a
  (match s.bdWords x a.toNat 1 with
    | .ok (w, s) =>
      let w0 := setFld (setFld (nth w 0 0) 62 2 3) 56 6 code
      (match s.bdPut x a.toNat w0 with
        | .ok s => some s
        | .error e => if e.code = 0 then none else some s)
    | .error e => if e.code = 0 then none else some s).map fun (s : State) =>
  { s with landings := s.landings.filter fun l => !mine l, landOk := s.landOk.filter fun r => !(r.part = part && r.addr = a.toNat),
           abut := s.abut.filter fun r => !(r.part == part && r.lrec == a) }.landEvent part a code

/-- The step at hand waits for a page that is being moved. -/
def State.held (s : State) : State := { s with retry := true }

/-- A shard is dropped and reported; the collective that brought it ends with code 7 (R369, R390). -/
def State.landDrop (part : Nat) (a : VA) (err : Nat) (src : Option (Nat × Nat)) (s : State) : State :=
  (s.landEvent part a err).collEnd src 7

/-! ## Shards (R371) -/

/-- A record has been validated since it was armed. -/
def State.armed (s : State) (part : Nat) (a : VA) : Bool := s.landOk.any fun r => r.part = part && r.addr = a.toNat

/-- The pieces that an armed record guards (R370). -/
def State.guardOf (s : State) (part : Nat) (a : VA) (r : Rec8) : List (Nat × Nat) :=
  let x := bdX part (s.stackAt part a.toNat)
  let own (va n : Nat) : List (Nat × Nat) := (s.peek x permR va n).known va n
  let rest := match s.bdWords x (lrUrec r) 24 with
    | .ok (u, _) => own (urProg u) (32 * urLen u) ++ (if urLprog u = 0 then [] else own (urLprog u) (32 * urLlen u))
    | .error _ => []
  own a.toNat 64 ++ own (lrUrec r) 192 ++ own (lrAcc r) (256 * lrBlocks r) ++ rest

/-- What cores and engines have written since the byte at a place was last written. -/
def State.sinceWrite (s : State) (l : Nat) : List (Nat × Nat) := (s.writeLog.takeWhile fun e => !inPieces e l).flatten

/-- A record in STATE 1 that the base die has not met yet: what others have written to it and to what it guards since it was armed, that is since
the byte of its STATE was last written, is undefined, and the base die reads it so (R370, log 85). -/
def State.landLate (part : Nat) (a : VA) (s : State) : State :=
  if s.armed part a then s else
  let own := (s.peek (bdX part (s.stackAt part a.toNat)) permR a.toNat 64).known a.toNat 64
  let since := match own with
    | p :: _ => s.sinceWrite (p.1 + 7)
    | [] => []
  let st (s : State) : Option Rec8 := match s.landRec part a with
    | .ok (r, _) => if lrState r = 1 then some r else none
    | .error _ => none
  if since = [] ∨ st s = none then s else
  let s := s.undefine ((piecePlaces since).filter (inPieces own))
  match st s with
  | none => s
  | some r => s.undefine ((piecePlaces since).filter fun l => inPieces (s.guardOf part a r) l && !inPieces own l)

/-- What a shard meets at its record: it is dropped, or it is kept, the record being validated with the first shard after it was armed
(R369). None: the record, or what its validation reads, is held (R495). -/
def State.landAdmit (h : Shard) (s : State) : Option (Except State (Rec8 × State)) :=
  let s := s.landLate h.part h.addr
  match s.landRec h.part h.addr with
  | .error e => if e.code = 0 then none else some (.error ((s.bdMet h.part e).landDrop h.part h.addr 0 h.src))
  | .ok (r, s) =>
    if lrState r = 0 ∨ lrState r = 3 then
      some (.error ({ s with landOk := s.landOk.filter fun r => !(r.part = h.part && r.addr = h.addr.toNat) }.landDrop
        h.part h.addr (lrErr r) h.src))
    else if h.vals.length ≠ lrRows r * lrCols r then some (.error (s.landDrop h.part h.addr (lrErr r) h.src))
    else if lrState r = 2 ∨ s.armed h.part h.addr then some (.ok (r, s))
    else match s.landValidate h.part h.addr r with
      | .error e =>
        if e.code = 0 then none
        else (State.landFail h.part h.addr e.code (s.bdMet h.part e)).map fun s => .error (s.landDrop h.part h.addr e.code h.src)
      | .ok s => some (.ok (r, { s with landOk := s.landOk ++ [⟨h.part, h.addr.toNat, s.guardOf h.part h.addr r, []⟩] }))

/-- A shard reaches a landing record. One that meets a page under migration is kept until the page has moved (R495). -/
def execLandingShardArrive (part : Nat) (recd : BitVec 52) (mb : BitVec 16) (vals : List (BitVec 32)) (src : Option (Nat × Nat))
    (s : State) : Out :=
  if 8 ≤ part then .fault .noSuchUnit else
  let h : Shard := { part, addr := recd, mb, vals, src }
  match s.landAdmit h with
  | none => .next { s with shards := s.shards ++ [h] }
  | some (.error s) => .next s
  | some (.ok (_, s)) => .next { s with shards := s.shards ++ [h] }

/-- A landing or an update is under way at a record. -/
def State.landBusy (s : State) (part : Nat) (a : VA) : Bool := s.landings.any fun l => l.part == part && l.addr == a

/-- A held shard is applied when CNT equals its micro-batch; one whose record has fallen into error or idle is dropped. -/
def execLandingShardApply (idx : Nat) (s : State) : Out :=
  match s.shards[idx]? with
  | none => .next s
  | some h =>
    match s.landAdmit h with
    | none => .next s
    | some (.error s) => .next { s with shards := s.shards.eraseIdx idx }
    | some (.ok (r, s)) =>
      if lrState r ≠ 1 ∨ s.landBusy h.part h.addr ∨ lrCnt r ≠ h.mb.toNat then .next s
      else
        .next { s with shards := s.shards.eraseIdx idx,
                       landings := s.landings ++ [{ part := h.part, addr := h.addr, vals := some h.vals, src := h.src,
                                                    todo := List.range (lrBlocks r), gen := none, begun := true }] }

/-! ## Runs (R360, R362, R363) -/

/-- A slot of a run: its layout record, and the rows of the block, reached with a permission. -/
def State.runSlot (x : XCtx) (bi bj n : Nat) (p : Perm) (lay : Nat) (q : List (Nat × Rec8) × Snap × State) :
    Except BdErr (List (Nat × Rec8) × Snap × State) := do
  if !p.r && !p.w then return q
  let (w, s) ← q.2.2.bdWords x lay 8
  let l := rec8Of w
  let (sn, s) ← (List.range 8).foldlM (fun (q : Snap × State) a =>
    (q.2.bd x p (elemAddr l ⟨8 * bj, (8 * bi + a : Nat), 0, 0⟩).toNat (lWidth l)).map fun (sn, s) => (q.1 ++ sn, s)) (q.2.1, s)
  return (q.1 ++ [(n, l)], sn, s)

/-- A run's slots: 0-3, then 6 and 7 by the generation that the update writes (R376). -/
def State.runSlots (x : XCtx) (u : List W64) (prog : List (Vector W32 8)) (bi bj : Nat) (gen : Option Nat) (sn : Snap) (s : State) :
    Except BdErr (List (Nat × Rec8) × Snap × State) := do
  let q ← (List.range 4).foldlM (fun q n => State.runSlot x bi bj n (slotPerm prog n) (urL u n) q) ([], sn, s)
  match gen with
  | none => return q
  | some g =>
    let q ← State.runSlot x bi bj 6 permRW (urLw u (g % 2)) q
    State.runSlot x bi bj 7 permR (urLw u ((g + 1) % 2)) q

/-- The registers of a run at its start (R362). -/
def runRegs (r : Rec8) (bi bj : Nat) (shard : Option (List W32)) : Vector (Vector W32 64) 32 :=
  vecOf 32 fun n => vecOf 64 fun l =>
    let i := 8 * bi + l / 8
    let j := 8 * bj + l % 8
    if n = 0 then BitVec.ofNat 32 (lrRow0 r + i)
    else if n = 1 then BitVec.ofNat 32 (lrCol0 r + j)
    else if n = 2 then match shard with
      | some v => nth v (i * lrCols r + j) 0
      | none => 0
    else 0

/-- MALF of a record rises by 1, saturating (R107, R368). -/
def State.landMalf (part : Nat) (a : VA) (s : State) : Except BdErr State :=
  let x := bdX part (s.stackAt part a.toNat)
  (s.bdWords x (a.toNat + 24) 1).bind fun (w, s) =>
    s.bdPut x (a.toNat + 24) (setFld (nth w 0 0) 16 16 (satAdd 16 (fld (nth w 0 0) 16 16) 1))

/-- A run on block blk of a landing or an update: everything that it touches is translated, and its registers are set. -/
def State.runStart (l : Landing) (blk : Nat) (s : State) : Except BdErr State := do
  let (r, s) ← s.landRec l.part l.addr
  let x := bdX l.part (s.stackAt l.part l.addr.toNat)
  let (u, s) ← s.bdWords x (lrUrec r) 24
  let nbc := lrCols r / 8
  let bi := blk / nbc
  let bj := blk % nbc
  let acc := lrAcc r + 256 * blk
  let (sn, s) ← s.bd x permRW acc 256
  let isLanding := l.vals.isSome
  let (prog, s) ← (if !isLanding then s.bdProg x (urProg u) (urLen u)
    else if urLprog u = 0 then .ok (defaultLanding, s) else s.bdProg x (urLprog u) (urLlen u))
  let (slots, sn, s) ← (if isLanding then .ok ([], sn, s) else s.runSlots x u prog bi bj l.gen sn)
  let (sp, s) ← s.bdStream x r
  let block := bxOf (s.rdV sn acc 256)
  let s ← (if !isLanding && block.rsv ≠ 0 then
      (s.landMalf l.part l.addr).map fun s => State.wrV s (sn.pieces acc 256) (bxBytes (bxFix block))
    else .ok s)
  let run : AbutRun :=
    { lrec := l.addr, part := l.part, blk := blk, key := uW u 2, prog := prog, pc := 0, v := runRegs r bi bj l.vals,
      m := .replicate 8 0, p := vecOf 16 fun n => urConst u n, acc := BitVec.ofNat 52 acc, rows := lrRows r, cols := lrCols r,
      bi := bi, bj := bj, slots := slots, snap := sn, isLanding := isLanding, sparse := sp, undo := none, late := [], closed := false,
      skipped := false, ended := false }
  return { s with abut := some run }

/-- An abutment engine starts a program on block blk of landing idx; its bundles are the next steps (R360). -/
def execAbutmentRun (idx blk : Nat) (s : State) : Out :=
  match s.landings[idx]? with
  | none => .next s
  | some l =>
    if s.abut.isSome || !l.begun || !l.todo.contains blk then .next s
    else match s.runStart l blk with
      | .error e => if e.code = 0 then .next s else .next (((s.bdMet l.part e).landFail l.part l.addr 5).getD s)
      | .ok s => .next { s with landings := listUpd s.landings idx fun (l : Landing) => { l with todo := l.todo.filter (· ≠ blk) } }

/-! ## The syllables of abutment programs -/

/-- A syllable of an abutment program; in a core's text it is illegal with cause 10 (R197). -/
def onAbut (f : AbutRun → State → Out) (s : State) : Out :=
  if !s.issue.abut then .next (s.illegal 10)
  else match s.abut with
    | none => .next s
    | some a => f a s

/-- Damaged data met by an engine (R363, R511). -/
def State.abutBad (s : State) (part l : Nat) : State := s.postEvent part 4 none [ueEvent 2 l]

/-- A run whose write cannot proceed puts its record into error (R369 ERR 5). -/
def State.abutFail (s : State) (a : AbutRun) : State := (s.landFail a.part a.lrec 5).getD s.held

def AbutRun.accAt (a : AbutRun) : List (Nat × Nat) := a.snap.pieces a.acc.toNat 256

/-- What a write of an abutment engine does to the commands of other agents under way (R353, R394, R537), and to other landing records (R370,
R373). -/
def State.abutWrote (s : State) (a : AbutRun) (ps : List (Nat × Nat)) : State :=
  (s.wroteOver (fun _ _ => false) .engine ps).wroteLand ps (some (a.part, a.lrec.toNat))

/-- The state with the bytes of some pieces as an engine reads them: a bank command's hazard shows (R353). -/
def State.hazy (s : State) (ps : List (Nat × Nat)) : State := s.undefine (s.bankHot ps)
/-- The free values that a read has used up. -/
def State.after (s t : State) : State := { s with freeCtr := t.freeCtr }

/-- A malformed accumulator block is written back with bits [1551:1544] as 0x01, and counted in MALF, once, whichever syllables of the bundle
meet it (R107). The record's page may be held. -/
def State.fixBlock (s : State) (a : AbutRun) (b : Bx) : State :=
  if (bxOf (s.rdV a.snap a.acc.toNat 256)).rsv = 0 then s else
  match (State.wrV s a.accAt (bxBytes (bxFix b))).landMalf a.part a.lrec with
  | .ok s => s
  | .error e => if e.code = 0 then s.held else (s.bdMet a.part e).abutFail a

/-- GLAND (R364): BxAdd to the accumulator block; a malformed block is counted (R107). -/
def execGland (v : BitVec 5) (s : State) : Out :=
  onAbut (fun a s =>
    match s.markedV a.snap a.acc.toNat 256 with
    | some l => .next ((s.abutBad a.part l).abutFail a)
    | none =>
      let t := s.hazy a.accAt
      let b := bxOf (t.rdV a.snap a.acc.toNat 256)
      let y := bxAdd b ((List.range 64).map fun i => decode32 (s.rdV32 v i))
      let old := bxBytes (if b.rsv = 0 then b else bxFix b)
      let s := (if b.rsv = 0 then s.after t else (s.after t).fixBlock a b)
      if s.retry ∨ s.abut.isNone then .next s
      else .next ({ State.wrV s a.accAt (bxBytes y) with abut := s.abut.map fun (r : AbutRun) => { r with undo := some old } }.abutWrote a a.accAt)) s

/-- The accumulator block as a program reads it; damaged data read as a NaN block and are reported (R107, R363). A malformed block that a
landing program reads is written back and counted; one that an update meets has been, at the start of its run (R107, R372). -/
def State.accBlock (s : State) (a : AbutRun) : Bx × State :=
  let t := s.preState.hazy a.accAt
  let b := bxOf (t.rdV a.snap a.acc.toNat 256)
  match s.markedV a.snap a.acc.toNat 256 with
  | some l => ({ bxFix b with nan := true }, (s.after t).abutBad a.part l)
  | none => (bxFix b, if a.isLanding && b.rsv ≠ 0 then (s.after t).fixBlock a b else s.after t)

/-- GLRD (R364). -/
def execGlrd (v : BitVec 5) (s : State) : Out :=
  onAbut (fun a s => let (b, s) := s.accBlock a; .next (s.wrV32 v fun i => bxRead b i)) s
/-- GLST (R364). -/
def execGlst (v : BitVec 5) (s : State) : Out :=
  onAbut (fun a s =>
    let (b, s) := s.accBlock a
    .next (s.wrV32 v fun _ => BitVec.ofNat 32 (b2n b.nan <<< 17 ||| b2n b.sat <<< 16 ||| b.absorb))) s

/-- SKIPZ would end the run (R365). -/
def AbutRun.absent (a : AbutRun) : Bool :=
  match a.sparse with
  | some l => !l.contains a.blk
  | none => false
/-- SKIPZ.ACC would end the run (R365). -/
def State.accZero (s : State) (a : AbutRun) : Bool := s.rdV a.snap a.acc.toNat 256 == bxBytes bxZero

def execSkipz (s : State) : Out :=
  onAbut (fun a s => .next (if a.absent then { s with abut := some { a with skipped := true } } else s)) s
def execSkipzAcc (s : State) : Out :=
  onAbut (fun a s => .next (if s.accZero a then { s with abut := some { a with skipped := true } } else s)) s
/-- ABEND (R366): the run ends when its bundle has acted. -/
def execAbend (s : State) : Out := onAbut (fun a s => .next { s with abut := some { a with ended := true } }) s

/-- The layout of a slot of the run. -/
def AbutRun.slot (a : AbutRun) (n : Nat) : Option Rec8 := (a.slots.find? fun e => e.1 = n).map Prod.snd
/-- Lane l's element of a slot. -/
def AbutRun.laneCoord (a : AbutRun) (l : Nat) : Coord := ⟨(8 * a.bj + l % 8 : Nat), (8 * a.bi + l / 8 : Nat), 0, 0⟩

/-- Encodings of a block of a slot, lane by lane, with the place of the first damaged one (R363). -/
def State.slotLanes (s : State) (a : AbutRun) (l : Rec8) : List Nat × Option Nat :=
  let bad (i : Nat) : Option Nat :=
    let (v, n) := elemBytes l (a.laneCoord i)
    if s.marked (a.snap.place v) n then some (a.snap.place v) else none
  ((List.range 64).map fun i =>
    if (bad i).isSome then (match fmtF (lFmt l) with
      | some F => F.nan
      | none => 0)
    else s.elemBits a.snap l (a.laneCoord i), (List.range 64).findSome? bad)

/-- The pieces of a slot's block, lane by lane. -/
def AbutRun.slotPieces (a : AbutRun) (l : Rec8) : List (Nat × Nat) :=
  (List.range 64).map fun i => let (v, n) := elemBytes l (a.laneCoord i); (a.snap.place v, n)
/-- Everything that a run may touch. -/
def AbutRun.pieces (a : AbutRun) : List (Nat × Nat) := a.accAt ++ a.slots.flatMap fun e => a.slotPieces e.2

/-- A block of a slot written, lane by lane. -/
def State.wrSlot (s : State) (a : AbutRun) (l : Rec8) (v : Nat → Nat) : State :=
  ((List.range 64).foldl (fun s i => s.wrCells (s.elemCells a.snap l (a.laneCoord i) (v i))) s).abutWrote a (a.slotPieces l)

def execVrowldSlot (n : BitVec 6) (d : BitVec 5) (s : State) : Out :=
  onAbut (fun a s =>
    match a.slot n.toNat with
    | none => .next s
    | some l =>
      let t := s.preState.hazy (a.slotPieces l)
      let (v, bad) := t.slotLanes a l
      let s := match bad with
        | some p => (s.after t).abutBad a.part p
        | none => s.after t
      .next (s.wrV32 d fun i => BitVec.ofNat 32 (nth v i 0))) s
def execVrowstSlot (n : BitVec 6) (d : BitVec 5) (s : State) : Out :=
  onAbut (fun a s =>
    match a.slot n.toNat with
    | none => .next s
    | some l => .next (s.wrSlot a l fun i => (s.rdV32 d i).toNat % 2 ^ lWidth l)) s
def execVbcastConst (d : BitVec 5) (n : BitVec 4) (s : State) : Out :=
  onAbut (fun a s => .next (s.wrV32 d fun _ => vget a.p n.toNat 0)) s

/-! ## The end of a run (R365, R371, R372) -/

/-- The newest generation's block is copied to the new one (R365). -/
def State.copyNewest (s : State) (a : AbutRun) : State :=
  match a.slot 6, a.slot 7 with
  | some d, some n =>
    let (v, bad) := s.slotLanes a n
    let s := match bad with
      | some p => s.abutBad a.part p
      | none => s
    s.wrSlot a d fun i =>
      if lFmt d = lFmt n then nth v i 0 else toFmt (lFmt d) (fmtVal (lFmt n) (nth v i 0))
  | _, _ => s

/-- The pieces that an update's slots cover: L0-L3 and the generation that it writes (R373). -/
def State.busyOf (s : State) (part : Nat) (a : VA) (r : Rec8) (u : List W64) (gen : Option Nat) : List (Nat × Nat) :=
  let x := bdX part (s.stackAt part a.toNat)
  ((List.range 4).map (urL u) ++ (gen.map fun g => urLw u (g % 2)).toList).flatMap fun lay =>
    match s.bdLayout x (lrRows r) (lrCols r) lay with
    | .ok (some l, _) => (List.range (lrRows r)).flatMap fun i =>
        let va := (elemAddr l ⟨0, i, 0, 0⟩).toNat
        let n := lrCols r * lWidth l / 8
        (s.peek x permR va n).known va n
    | _ => []

/-- Every block of a shard has been handled: CNT rises, its collective may complete, and at NMB the update begins (R371, R372). -/
def State.landDone (l : Landing) (s : State) : Except BdErr State := do
  let (r, s) ← s.landRec l.part l.addr
  let x := bdX l.part (s.stackAt l.part l.addr.toNat)
  let cnt := (lrCnt r + 1) % 65536
  let s ← s.bdPut x (l.addr.toNat + 24) (setFld r[3] 32 16 cnt)
  let s := s.collEnd l.src 0
  let rest := s.landings.filter fun y => !(y.part == l.part && y.addr == l.addr)
  if cnt ≠ lrNmb r then return { s with landings := rest }
  let s ← s.bdPut x l.addr.toNat (setFld r[0] 62 2 2)
  let (u, s) ← s.bdWords x (lrUrec r) 24
  let busy (s : State) (gen : Option Nat) : State := { s with landOk := s.landOk.map fun (g : Armed) =>
    if g.part = l.part ∧ g.addr = l.addr.toNat then { g with busy := s.busyOf l.part l.addr r u gen } else g }
  let up : Landing := { l with vals := none, src := none, todo := List.range (lrBlocks r), gen := none, begun := true }
  if urGrec u = 0 then return { busy s none with landings := rest ++ [up] }
  let (w, s) ← s.bdWords x (urGrec u) 1
  let s ← s.bdPut x (urGrec u) (nth w 0 0 ||| (1 <<< 63))
  let g := (fld (nth w 0 0) 0 48 + 1) % 2 ^ 48
  return { busy s (some g) with landings := rest ++ [{ up with gen := some g, begun := false }] }

/-- What the end of a run leaves in memory: a skipped landing adds nothing, a skipped update copies its block, an update empties its
accumulator block (R365, R372). -/
def State.abutClose (s : State) (a : AbutRun) : State :=
  if a.isLanding then
    (match a.skipped, a.undo with
      | true, some b => State.wrV s a.accAt b
      | _, _ => s)
  else
    let s := if a.skipped then s.copyNewest a else s
    (State.wrV s a.accAt (bxBytes bxZero)).abutWrote a a.accAt

/-- Of the units that a step of a run has changed, from s to t, some are still to be written, by a free choice: two bundles may leave a row half
old, half new for a time (R148, R373). -/
def State.delayRun (s t : State) : State :=
  match t.abut with
  | none => t
  | some a =>
    let us := (unitsOf a.pieces).filter fun u => t.rd (8 * u) 8 != s.rd (8 * u) 8
    if us.length ≤ 1 then t
    else
      let (wait, t) := t.choose
      if !wait then t
      else
        let (l, t) := t.someOf us
        let late := (piecePlaces (clip a.pieces l)).map fun p => (p, t.mem.get p, t.marked p 1)
        { t.landUnits s a.pieces l with abut := some { a with late := late } }

/-- Some of what a run has still to write is written, or all of it. -/
def State.lateRun (s : State) (a : AbutRun) : State :=
  let us := (a.late.map fun e => e.1 / 8).eraseDups
  let (part, s) := if us.length ≤ 1 then (false, s) else s.choose
  let (now, s) := if part then s.someOf us else (us, s)
  let cells := a.late.filter fun e => now.contains (e.1 / 8)
  { s with mem := cells.foldl (fun m e => m.set e.1 e.2.1) s.mem,
           ue := cells.foldl (fun u e => if e.2.2 then setAdd u (e.1 / 8) else u.erase (e.1 / 8)) s.ue,
           abut := some { a with late := a.late.filter fun e => !now.contains (e.1 / 8) } }

/-- The run at hand has ended, and all that it writes is written: the next of its landing may start, or the landing is done. Where the record's
page is held, the end is taken up again (R495). -/
def State.abutLeave (s : State) (a : AbutRun) : State :=
  let t := { s with abut := none }
  match t.landings.find? fun l => l.part == a.part && l.addr == a.lrec with
  | none => t
  | some l =>
    if l.todo ≠ [] || l.vals.isNone then t
    else match t.landDone l with
      | .ok t => t
      | .error e => if e.code = 0 then s.held else ((t.bdMet l.part e).landFail l.part l.addr 5).getD s.held

/-- The run at hand ends: what its end leaves in memory is written, and then the run leaves. -/
def State.abutEnd (s : State) : State :=
  match s.abut with
  | none => s
  | some a =>
    if a.closed then s.abutLeave a
    else
      let t := s.delayRun { s.abutClose a with abut := some { a with ended := true, closed := true } }
      match t.abut with
      | some b => if b.late = [] then t.abutLeave b else t
      | none => t

/-- The run goes on, or ends after the bundle that it has just issued; what the bundle has still to write comes first. -/
def State.abutNext (s : State) : State :=
  match s.abut with
  | none => s
  | some a =>
    if a.skipped || a.ended || decide (a.prog.length ≤ a.pc + 1) then
      (if a.late = [] then s.abutEnd else { s with abut := some { a with ended := true } })
    else { s with abut := some { a with pc := a.pc + 1 } }

/-! ## Generations and the end of an update (R372, R373, R376, R540) -/

/-- The update goes on once no launch reads the slot that it will write. -/
def execGenBegin (idx : Nat) (s : State) : Out :=
  match s.landings[idx]? with
  | none => .next s
  | some l =>
    match l.gen with
    | none => .next s
    | some g =>
      let look : Except BdErr (Nat × State) := do
        let (r, s) ← s.landRec l.part l.addr
        let x := bdX l.part (s.stackAt l.part l.addr.toNat)
        let (u, s) ← s.bdWords x (lrUrec r) 24
        let (w, s) ← s.bdWords x (urGrec u + 8) 1
        return (fld (nth w 0 0) (32 * (g % 2)) 32, s)
      if l.begun then .next s
      else match look with
        | .error e => if e.code = 0 then .next s else .next (((s.bdMet l.part e).landFail l.part l.addr 5).getD s)
        | .ok (rc, s) =>
          if rc ≠ 0 then .next s
          else .next { s with landings := listUpd s.landings idx fun (l : Landing) => { l with begun := true } }

/-- The last step of an update: the generation is published, CNT is 0, DONEW is raised, STATE is 1. A DONEW that cannot be raised
leaves the record in error (R540). -/
def State.updateFinish (l : Landing) (s : State) : Except BdErr State := do
  let (r, s) ← s.landRec l.part l.addr
  let x := bdX l.part (s.stackAt l.part l.addr.toNat)
  let (u, s) ← s.bdWords x (lrUrec r) 24
  let s ← (match l.gen with
    | none => .ok s
    | some g => do
      let (w, s) ← s.bdWords x (urGrec u) 1
      s.bdPut x (urGrec u) (setFld (setFld (nth w 0 0) 63 1 0) 0 48 g))
  let s ← s.bdPut x (l.addr.toNat + 24) (setFld r[3] 32 16 0)
  let rest := s.landings.filter fun y => !(y.part == l.part && y.addr == l.addr)
  let rearm (s : State) : Except BdErr State :=
    (s.bdPut x l.addr.toNat (setFld r[0] 62 2 1)).map fun s =>
      { s with landings := rest, landOk := s.landOk.map fun (g : Armed) =>
          if g.part = l.part ∧ g.addr = l.addr.toNat then { g with busy := [] } else g }
  if lrDonew r = 0 then rearm s
  else match s.bd x permRW (lrDonew r) 8 with
    | .ok (sn, s) => rearm (s.faddt (sn.place (lrDonew r)) 8 1)
    | .error e => if e.code = 0 then .error e else match (s.bdMet l.part e).landFail l.part l.addr 5 with
      | some s => .ok s
      | none => .error (bdErr 0)

def execUpdateEnd (idx : Nat) (s : State) : Out :=
  match s.landings[idx]? with
  | none => .next s
  | some l =>
    let running := match s.abut with
      | some a => a.part == l.part && a.lrec == l.addr
      | none => false
    if l.vals.isSome || !l.begun || l.todo ≠ [] || running then .next s
    else match s.updateFinish l with
      | .error e => if e.code = 0 then .next s else .next (((s.bdMet l.part e).landFail l.part l.addr 5).getD s)
      | .ok s => .next s

/-- Generation g of a record is live (R376). -/
def genLive (w0 : W64) (g : Nat) : Bool :=
  let n := fld w0 0 48
  g = n || (!w0.getLsbD 63 && decide (1 ≤ n) && g + 1 = n)

end Sys2Proof.Machine
end

