-- ==== Sys2Proof/Machine/Fabric.lean ====
section
/-! DEFINITION. Torus collectives (12 R380-R397, R541, 19 R442): what COLL checks and starts, and the steps of the I/O die. What the
other devices and the links do comes in the arguments of the steps (log 2). -/

namespace Sys2Proof.Machine

/-! ## Issue (R382-R385) -/

/-- Bits that sub value k leaves unused or that are reserved (R384). -/
def cdUnusedBits (k : Nat) (d : Rec8) : Bool :=
  let w (i lo n : Nat) : Bool := decide (fld (vget d i 0) lo n ≠ 0)
  w 0 52 1 || w 1 52 12 || w 3 52 12 || w 4 52 12 || w 5 12 28 || w 6 48 16 || w 7 48 15
  || (decide (k ≠ 0) && w 0 56 4)
  || (decide (3 ≤ k) && (w 0 60 4 || w 0 53 3 || w 2 0 32))
  || (decide (k = 4) && w 0 0 52) || (decide (k = 3) && w 1 0 52)
  || (decide (k ≠ 1) && w 5 48 16)
  || (decide (k < 3) && (w 5 40 8 || w 5 0 12 || w 6 0 48))
  || (decide (k ≠ 3) && (w 7 63 1 || w 7 0 48))

/-- FMT and OFMT lie in the table (R384). -/
def cdFormatsOk (k : Nat) (d : Rec8) : Bool :=
  match k with
  | 0 => decide (cdFmt d ≤ 1) && decide (cdOfmt d ≤ 1)
  | 1 => decide (cdFmt d ≤ 1)
  | 2 => decide (cdFmt d ≤ 9)
  | _ => true

/-- The windows begin here. -/
def windowBase : Nat := 0xE * 2 ^ 48

/-- The checks of R385, in the order of its table, on a descriptor that has been read; answers the translations made. -/
def collChecks (k : Nat) (d : Rec8) (s : State) : Except State (Snap × State) :=
  let n := s.partCount (cdDims d)
  let count := cdCount d
  let csem := cdCsem d
  let stat := cdStat d
  let ranges := [(cdSrc d, cdSrcLen k d), (cdDst d, if k = 1 then 64 else cdDstLen k n d), (csem, 8), (stat, if stat = 0 then 0 else 8)]
  if cdUnusedBits k d ∨ count = 0 ∨ (k < 2 ∧ count % n ≠ 0) ∨ (k = 2 ∧ cdFmt d = 5 ∧ count % 2 = 1) then .error (s.layoutFault 5)
  else if !cdFormatsOk k d then .error (s.layoutFault 2)
  else if csem % 8 ≠ 0 then .error (s.accessFault (accFail 5 csem))
  else if stat % 8 ≠ 0 then .error (s.accessFault (accFail 5 stat))
  else match ranges.find? fun r => decide (r.2 ≠ 0) && decide (windowBase < r.1 + r.2) with
  | some r => .error (s.accessFault (accFail 4 (Nat.max r.1 windowBase)))
  | none =>
    (s.access 0 permRW csem 8).bind fun (a, s) =>
      (if stat = 0 then (Except.ok ([], s) : Except State (Snap × State)) else s.access 0 permW stat 8).bind fun (b, s) =>
        (if k ≠ 1 then (Except.ok ([], s) : Except State (Snap × State)) else s.access 0 permRW (cdDst d) 64).bind fun (c, s) =>
          if k = 1 ∧ isCant (c.place (cdDst d)) then .error (s.accessFault (accFail 6 (cdDst d)))
          else .ok (a ++ b ++ c, s)

/-- The descriptor at an address. -/
def collDesc (va : W64) (s : State) : Except State (Rec8 × State) :=
  if va.toNat % 64 ≠ 0 then .error (s.layoutFault 5)
  else (s.access 0 permR va.toNat 64).map fun (sn, s) =>
    let (b, s) := s.readBytes sn va.toNat 64
    (vecOf 8 fun i => BitVec.ofNat 64 (ofBytes ((b.drop (8 * i)).take 8)), s)

/-- A collective of sub 0-2 with the fabric context and TAG is in flight on this device (R387 code 3). -/
def State.tagBusy (s : State) (part tag : Nat) : Bool :=
  s.cores.toList.any fun k => k.colls.toList.any fun x => match x with
    | some c => decide (c.sub.toNat < 3) && decide (cdTag c.desc = tag) && decide (s.fctx c.part = s.fctx part) && c.code != some 3
    | none => false

/-- COLL of sub 0-4 (R383, R385). -/
def collIssue (k : Nat) (st : BitVec 2) (g : BitVec 6) (w : BitVec 4) (s : State) : Out :=
  done ((s.srcS st w.toNat g).bind fun (va, s) =>
    match (List.range 8).find? fun i => (vget s.cur.colls i none).isNone with
    | none => .error (s.waitOn 19 0 w.toNat)
    | some i =>
      (collDesc va s).bind fun (d, s) =>
        (collChecks k d s).map fun (sn, s) =>
          let part := s.cur.part
          let id := s.cur.id
          let c : Coll :=
            { sub := BitVec.ofNat 3 k, desc := d, part := part, walk := s.walk, snap := sn, released := false, owner := none, met := false, data := [],
              bad := [], sent := false, answered := false, held := none, delivered := false, raced := [], wrote := false,
              code := if k < 3 && s.tagBusy part (cdTag d) then some 3 else none,
              serial := BitVec.ofNat 32 (fld id.inst 32 32), gang := BitVec.ofNat 15 (fld id.gang 0 15),
              rank := BitVec.ofNat 4 (fld id.core 0 4) }
          s.modCur fun k => { k with colls := vset k.colls i (some c) })

def execCrs (st : BitVec 2) (g : BitVec 6) (w : BitVec 4) (s : State) : Out := collIssue 0 st g w s
def execCrsl (st : BitVec 2) (g : BitVec 6) (w : BitVec 4) (s : State) : Out := collIssue 1 st g w s
def execCag (st : BitVec 2) (g : BitVec 6) (w : BitVec 4) (s : State) : Out := collIssue 2 st g w s
def execCput (st : BitVec 2) (g : BitVec 6) (w : BitVec 4) (s : State) : Out := collIssue 3 st g w s
def execCget (st : BitVec 2) (g : BitVec 6) (w : BitVec 4) (s : State) : Out := collIssue 4 st g w s

/-- CWAIT (R393): waits as AWAIT does on an 8-byte word; its return is an acquire (R163). -/
def execCwait (st : BitVec 2) (a t : BitVec 6) (w : BitVec 4) (s : State) : Out :=
  done ((s.srcS st w.toNat a).bind fun (va, s) => (s.srcS st w.toNat t).bind fun (thr, s) =>
    (awaitWord va thr 8 w.toNat s).map fun s => s.modCur Core.acquire)

/-! ## The I/O die's accesses -/

/-- A range that the I/O die reaches; none is an access that is held (R495). -/
def State.ioReach (s : State) (part : Nat) (p : Perm) (va n : Nat) : Except (Option AccFail) (Snap × State) :=
  match s.reach (ioX part) p va n with
  | .ok r => .ok r
  | .error (.wait _ _) => .error none
  | .error (.fail f) => .error (some f)

/-- A damaged table entry that a walk of the I/O die met is reported (R511). -/
def State.ioMet (s : State) (part : Nat) (f : AccFail) : State :=
  match f.ue with
  | some l => s.postEvent part 4 none [ueEvent 2 l]
  | none => s

/-- A range that an engine of the I/O die is about to read is settled: the adds that its lines have accepted are applied (R169), and lines held
exclusively are recalled (R167). -/
def State.touch (s : State) (part : Nat) (p : Perm) (va n : Nat) : State :=
  match s.ioReach part p va n with
  | .ok (sn, s) => s.settled (sn.pieces va n)
  | .error _ => s

/-- An overcommitted cantilever write of an engine that begins to wait, for a place (R496, R512). -/
def State.overcommit (s : State) (l : Nat) : State :=
  if s.overs.contains (lineOf l) then s else { s with overs := s.overs ++ [lineOf l] }.postEvent (cantPart l) 8 none [BitVec.ofNat 64 (s.hdie (cantPart l) (cantVa l) <<< 56), BitVec.ofNat 64 (cantVa l)]

/-- Bytes written by an engine over a range that it has reached, at their points of coherence (R149). Lines of cantilever pages are
allocated first; without room nothing is written and the overcommit is reported (R496). -/
def State.ioWrite (s : State) (part : Nat) (sn : Snap) (va : Nat) (b : List Byte) : Bool × State :=
  let ps := sn.pieces va b.length
  match s.cantTake ps with
  | .error l => (false, s.overcommit l)
  | .ok s =>
    let s := (State.wrV (s.settled ps) ps b).wrote .engine ps
    (true, s.clobber ((List.range b.length).map fun i => (2 ^ 64 + part * 2 ^ 52 + va + i, sn.place (va + i))))

/-- A FADDT of +1 by an engine on an 8-byte word (R289); false where it waits for room in its page (R496). -/
def State.ioRaise (s : State) (l : Nat) : Bool × State :=
  match s.cantTake [(l, 8)] with
  | .error l => (false, s.overcommit l)
  | .ok s => (true, ((s.settled [(l, 8)]).faddt l 8 1).wrote .engine [(l, 8)])

/-! ## Links (R541, R396, R538) -/

def State.linkUp (s : State) (l : Nat) : Bool := (vget s.links l 0).getLsbD 63

/-- Links of dimension d that lead towards its successor, or towards its predecessor: in a dimension of extent 2 all four lead to the same
device (R541). -/
def State.dirLinks (s : State) (d : Nat) (succ : Bool) : List Nat :=
  if (nth s.torus d (1, 0)).1 = 2 then [4 * d, 4 * d + 1, 4 * d + 2, 4 * d + 3]
  else if succ then [4 * d, 4 * d + 1] else [4 * d + 2, 4 * d + 3]

/-- The way along one dimension of extent n from coordinate a to b: the direction of fewer hops, towards increasing coordinates when the
two are equal, and the number of hops (R381). -/
def dimHops (n a b : Nat) : Bool × Nat :=
  let up := (b + n - a) % n
  if up ≤ n - up then (true, up) else (false, n - up)

/-- The way of a transfer from this device to another: along x, then y, then z (R381). -/
def State.route (s : State) (target : List Nat) : List (Nat × Bool) :=
  (List.range 3).flatMap fun d =>
    let (n, own) := nth s.torus d (1, 0)
    let (up, hops) := dimHops n own (nth target d 0)
    List.replicate hops (d, up)

/-- The links by which what another device sends reaches this one: those of the last dimension of its way, on the side that it comes from. -/
def State.answerLinks (s : State) (target : List Nat) : List (List Nat) :=
  (((List.range 3).filterMap fun d =>
    let (n, own) := nth s.torus d (1, 0)
    let (up, hops) := dimHops n (nth target d 0) own
    if hops = 0 then none else some (s.dirLinks d !up)).getLast?).toList

/-- The groups of links that a collective's transfers use here: for a window transfer those of its first hop, and those by which the answer comes
back; for a collective of several participants all of each dimension of DIMS, since no rule says which way its parts travel (log 45). -/
def State.collLinks (s : State) (c : Coll) : List (List Nat) :=
  if c.sub.toNat < 3 then
    ((List.range 3).filter fun d => decide (1 < (nth s.torus d (1, 0)).1) && decide ((cdDims c.desc >>> d) % 2 = 1)).map fun d =>
      [4 * d, 4 * d + 1, 4 * d + 2, 4 * d + 3]
  else ((s.route (cdTarget c.desc)).head?.toList.map fun h => s.dirLinks h.1 h.2) ++ s.answerLinks (cdTarget c.desc)

/-- A failed link is in the way of a transfer: certainly when a whole group that it uses is down, else as the device uses them. -/
def State.linkCut : List (List Nat) → State → Bool × State
  | [], s => (false, s)
  | g :: r, s =>
    if g.all fun l => !s.linkUp l then (true, s)
    else if g.all s.linkUp then State.linkCut r s
    else
      let (b, s) := s.choose
      if b then (true, s) else State.linkCut r s

/-! ## Remote windows (R392, R442) -/

/-- Bytes i of a range that carry an uncorrectable mark. -/
def State.badBytes (s : State) (sn : Snap) (va n : Nat) : List Nat := (List.range n).filter fun i => s.marked (sn.place (va + i)) 1
/-- Some bytes of a range become marked (R511). -/
def State.markBytes (s : State) (sn : Snap) (va : Nat) (l : List Nat) : State := l.foldl (fun s i => s.mark (sn.place (va + i))) s

/-- What the service of a window request answers: refused; held, with a failure or not; or served. -/
inductive WinAns where
  | refused
  | held (f : Option AccFail)
  | served (b : List Byte) (bad : List Nat)
  deriving DecidableEq, Repr

/-- A CGET's read in a window. -/
def State.winRead (s : State) (fctx win off len : Nat) : WinAns × State :=
  match s.window fctx win off len false with
  | none => (.refused, s)
  | some (part, base) =>
    match s.ioReach part permR (base + off) len with
    | .error f => (.held f, s)
    | .ok (sn, s) =>
      let bad := s.badBytes sn (base + off) len
      let (b, s) := s.readBytes sn (base + off) len
      let s := match bad with
        | [] => s
        | i :: _ => s.postEvent part 4 none [ueEvent 2 (sn.place (base + off + i))]
      (.served b bad, s)

/-- A CPUT's writes in a window; the word that its RSIG raises must lie in the window too. -/
def State.winWrite (s : State) (fctx win off : Nat) (b : List Byte) (bad : List Nat) (rsoff : Option Nat) : WinAns × State :=
  let room := match rsoff with
    | some o => (s.window fctx win o 8 true).isSome
    | none => true
  match s.window fctx win off b.length true with
  | none => (.refused, s)
  | some (part, base) =>
    if !room then (.refused, s)
    else match s.ioReach part permW (base + off) b.length with
      | .error f => (.held f, s)
      | .ok (sn, s) =>
        let (ok, s) := s.ioWrite part sn (base + off) b
        if ok then (.served [] [], s.markBytes sn (base + off) bad) else (.held none, s)

/-- The raise at RSOFF. -/
def State.winRaise (s : State) (fctx win off : Nat) : WinAns × State :=
  match s.window fctx win off 8 true with
  | none => (.refused, s)
  | some (part, base) =>
    match s.ioReach part permRW (base + off) 8 with
    | .error f => (.held f, s)
    | .ok (sn, s) =>
      let (ok, s) := s.ioRaise (sn.place (base + off))
      (if ok then .served [] [] else .held none, s)

/-- A request that cannot be served yet waits and is taken up again; its failure goes to the keystone once (R397, R442). -/
def State.winHeld (s : State) (q : WinReq) (f : Option AccFail) : State :=
  let s := { s with retry := true }
  match f, (List.range 8).find? fun n => (vget s.parts n .none0).w0.getLsbD 63 && decide (s.fctx n = q.fctx.toNat) with
  | some f, some n =>
    if s.winWait.contains q then s
    else
      let s := { s with winWait := s.winWait ++ [q] }.ioMet n f
      s.postEvent n 3 none [BitVec.ofNat 64 (f.cause <<< 52 ||| f.va % 2 ^ 52), 0]
  | _, _ => s

/-- REMOTE_WINDOW_ACCESS: the request of another device. The answer goes back on the links; that of a CPUT with RSIG follows its raise. -/
def execRemoteWindowAccess (fctx : BitVec 16) (win : BitVec 8) (off : BitVec 48) (op : RemoteOp) (s : State) : Out :=
  let q : WinReq := ⟨fctx, win, off, op⟩
  let (a, s) := match op with
    | .read len => s.winRead fctx.toNat win.toNat off.toNat len
    | .write b bad rs => s.winWrite fctx.toNat win.toNat off.toNat b bad (rs.map BitVec.toNat)
  let fin (s : State) : State := { s with winWait := s.winWait.erase q }
  match a with
  | .refused => .next { fin s with winOut := s.winOut ++ [none] }
  | .held f => .next (s.winHeld q f)
  | .served b bad =>
    match op with
    | .write _ _ (some rs) => .next { fin s with rsigs := s.rsigs ++ [(fctx, win, rs)] }
    | _ => .next { fin s with winOut := s.winOut ++ [some (b, bad)] }

/-- REMOTE_SIGNAL_RAISE (R392): every write of a CPUT with RSIG is performed, and its word is raised; then the CPUT is answered. -/
def execRemoteSignalRaise (fctx : BitVec 16) (win : BitVec 8) (off : BitVec 48) (s : State) : Out :=
  let q : WinReq := ⟨fctx, win, off, .write [] [] (some off)⟩
  if !s.rsigs.contains (fctx, win, off) then .next s
  else match s.winRaise fctx.toNat win.toNat off.toNat with
    | (.held f, s) => .next (s.winHeld q f)
    | (a, s) => .next { s with rsigs := s.rsigs.erase (fctx, win, off), winWait := s.winWait.erase q,
                               winOut := s.winOut ++ [if a = .refused then none else some ([], [])] }

/-! ## A collective's steps -/

def State.collAt (s : State) (c i : Nat) : Option Coll := vget (s.core c).colls i none
def State.setColl (s : State) (c i : Nat) (x : Option Coll) : State := s.modCore c fun k => { k with colls := vset k.colls i x }

/-- Elements of the source, or bytes for a window transfer, that carry a mark. -/
def State.collBad (s : State) (x : Coll) (sn : Snap) : List Nat :=
  let w := if x.sub.toNat < 3 then fmtBits (cdFmt x.desc) else 8
  (List.range (cdCount x.desc)).filter fun e =>
    s.markedV sn (cdSrc x.desc + e * w / 8) (((e + 1) * w + 7) / 8 - e * w / 8) |>.isSome

/-- The header of an event about a collective: the instance that issued it (R504). -/
def State.collEvent (s : State) (core cls : Nat) (x : Coll) (body : List W64) : State :=
  s.postEventH x.part cls (s.headerOf x.part cls x.part (some core) (eventWho x.serial.toNat x.gang.toNat x.rank.toNat)) body

/-- The heading of what the I/O die sends for a collective. -/
def State.linkMsg (s : State) (core i : Nat) (x : Coll) : LinkMsg :=
  let win := decide (3 ≤ x.sub.toNat)
  { core, slot := i, fctx := s.fctx x.part, tag := cdTag x.desc, target := if win then some (cdTarget x.desc) else none,
    win := if win then cdWin x.desc else 0, off := if win then cdRoff x.desc else 0,
    want := if x.sub = 4 then cdCount x.desc else 0, rsoff := if cdRsig x.desc then some (cdRsoff x.desc) else none,
    data := [], bad := [], route := if win then s.route (cdTarget x.desc) else [], abort := false }

/-- The local source is read and leaves on the links (R386, R394); damaged data are reported (R511). -/
def State.collRead (s : State) (core i : Nat) (x : Coll) : State :=
  let n := cdSrcLen x.sub.toNat x.desc
  let own := s.partIndex (cdDims x.desc)
  match s.ioReach x.part permR (cdSrc x.desc) n with
  | .error _ => s.setColl core i (some x)
  | .ok (sn, s) =>
    let bad := s.collBad x sn
    let s := match s.markedV sn (cdSrc x.desc) n with
      | some l => s.collEvent core 4 x [ueEvent 2 l]
      | none => s
    let (b, s) := s.readBytes sn (cdSrc x.desc) n
    let x : Coll := { x with sent := true, data := x.data ++ [(own, b)], bad := x.bad ++ bad.map fun e => (own, e) }
    { s.setColl core i (some x) with linkOut := s.linkOut ++ [{ s.linkMsg core i x with data := b, bad := bad }] }

/-- The release before a collective of core c is complete (R175); a context that was saved before goes on with it where it runs. -/
def State.collReleased (s : State) (c : Nat) (x : Coll) : Bool :=
  x.released || match x.owner with
    | none => (s.core c).releaseDone x.walk
    | some (u, rank) => match s.gangs.find? fun g => g.uid = u with
      | none => true
      | some g => g.st == .done || (g.st == .bound &&
          match g.cores[rank]? with
          | some p => (s.core p).gangUid == some u && (s.core p).releaseDone x.walk
          | none => false)

/-- A participant shows the same fabric context and TAG (R381). -/
def State.matched (s : State) (x : Coll) (p : PeerColl) : Bool :=
  decide (p.fctx.toNat = s.fctx x.part) && decide (p.tag.toNat = cdTag x.desc)

/-- What the participants show disagrees (R381, R387 code 2). -/
def Coll.disagrees (x : Coll) (p : PeerColl) : Bool :=
  p.sub != x.sub || decide (p.dims.toNat ≠ cdDims x.desc) || decide (p.fmt.toNat ≠ cdFmt x.desc)
  || decide (p.ofmt.toNat ≠ cdOfmt x.desc) || decide (p.count.toNat ≠ cdCount x.desc)

/-- The target lies outside the torus (R392). -/
def State.targetOut (s : State) (x : Coll) : Bool :=
  (List.range 3).any fun d => decide ((nth s.torus d (1, 0)).1 ≤ nth (cdTarget x.desc) d 0)

/-- The raise at RSOFF of a CPUT to this device itself, whose writes are made; a raise that is held is tried again (R397). -/
def State.putRaise (s : State) (core i : Nat) (x : Coll) : State :=
  if !cdRsig x.desc then s.setColl core i (some { x with answered := true })
  else match s.winRaise (s.fctx x.part) (cdWin x.desc) (cdRsoff x.desc) with
    | (.held _, s) => s
    | (_, s) => s.setColl core i (some { x with answered := true })

/-- A CPUT to this device itself, with its source read. -/
def State.putSelf (s : State) (core i : Nat) (x : Coll) : State :=
  match x.wrote, x.data with
  | true, _ => s.putRaise core i x
  | false, [] => s
  | false, (_, b) :: _ =>
    let rs := if cdRsig x.desc then some (cdRsoff x.desc) else none
    -- its own writes are no race of its own
    match (s.setColl core i none).winWrite (s.fctx x.part) (cdWin x.desc) (cdRoff x.desc) b (x.bad.map Prod.snd) rs with
    | (.refused, s) => s.setColl core i (some { x with code := some 4 })
    | (.held _, s) => s.setColl core i (some x)
    | (.served _ _, s) =>
      let y : Coll := { x with wrote := true }
      (s.undefine x.raced |>.setColl core i (some y)).putRaise core i y

/-- A CGET from this device itself. -/
def State.getSelf (s : State) (core i : Nat) (x : Coll) : State :=
  match s.winRead (s.fctx x.part) (cdWin x.desc) (cdRoff x.desc) (cdCount x.desc) with
  | (.refused, s) => s.setColl core i (some { x with code := some 4 })
  | (.held _, s) => s
  | (.served b bad, s) =>
    s.setColl core i (some { x with sent := true, answered := true, data := [(0, b)], bad := bad.map fun e => (0, e) })

/-- COLL_PARTICIPANTS_MEET (R381): after the release (R175) the participants are compared, and the local source leaves once all have
met. For a CPUT or a CGET, which meets nobody, the request leaves (R392). -/
def execCollParticipantsMeet (core slot : Nat) (peers : List PeerColl) (s : State) : Out :=
  if !coreOk core ∨ 8 ≤ slot then .fault .noSuchUnit else
  match s.collAt core slot with
  | none => .next s
  | some x =>
    if x.code.isSome ∨ x.held.isSome ∨ x.answered ∨ !s.collReleased core x then .next s
    else
      let peers := peers.filter (s.matched x)
      let fin (s : State) (code : Nat) : Out := .next (s.setColl core slot (some { x with code := some (BitVec.ofNat 8 code) }))
      if x.sub.toNat < 3 then
        let n := s.partCount (cdDims x.desc)
        let own := s.partIndex (cdDims x.desc)
        if x.sent then .next s
        else if x.met then .next (s.collRead core slot x)
        else if peers.any x.disagrees then fin s 2
        else if (List.range n).all (fun p => p == own || peers.any fun q => q.index == p) then
          let (cut, s) := State.linkCut (s.collLinks x) s
          if cut then fin s 6 else .next (s.collRead core slot { x with met := true })
        else .next s
      else if s.targetOut x then fin s 4
      else if s.targetSelf x then
        if x.sub = 4 then .next (s.getSelf core slot x)
        else if x.sent then .next (s.putSelf core slot x)
        else
          let s := s.collRead core slot x
          match s.collAt core slot with
          | some y => .next (s.putSelf core slot y)
          | none => .next s
      else if x.sent then .next s
      else
        let (cut, s) := State.linkCut (s.collLinks x) s
        if cut then fin s 6
        else if x.sub = 4 then
          .next { s.setColl core slot (some { x with sent := true }) with linkOut := s.linkOut ++ [s.linkMsg core slot x] }
        else .next (s.collRead core slot x)

/-- FLIT_RECEIVE (R396). -/
def execFlitReceive (core slot : Nat) (f : Flit) (s : State) : Out :=
  if !coreOk core ∨ 8 ≤ slot then .fault .noSuchUnit else
  match s.collAt core slot with
  | none => .next s
  | some x =>
    if x.code.isSome then .next s
    else
      let set (y : Coll) : Out := .next (s.setColl core slot (some y))
      let n := s.partCount (cdDims x.desc)
      match f with
      | .source fc tag p b bad =>
        if x.sub.toNat < 3 ∧ x.met ∧ fc.toNat = s.fctx x.part ∧ tag.toNat = cdTag x.desc ∧ p < n ∧ p ≠ s.partIndex (cdDims x.desc) ∧ b.length = cdSrcLen x.sub.toNat x.desc
            ∧ !(x.data.any fun e => e.1 == p) then
          set { x with data := x.data ++ [(p, b)], bad := x.bad ++ bad.map fun e => (p, e) }
        else .next s
      | .windowData b bad =>
        if x.sub = 4 ∧ x.sent ∧ !x.answered ∧ b.length = cdCount x.desc then
          set { x with answered := true, data := [(0, b)], bad := bad.map fun e => (0, e) }
        else .next s
      | .windowDone => if x.sub = 3 ∧ x.sent then set { x with answered := true } else .next s
      | .windowRefused => if 3 ≤ x.sub.toNat ∧ x.sent ∧ !x.answered then set { x with code := some 4 } else .next s
      | .aborted => set { x with code := some 5, held := none }
      | .linkFailed => set { x with code := some 6, held := none }

/-- Every part that the collective needs is here (R386). -/
def State.collReady (s : State) (x : Coll) : Bool :=
  if x.sub.toNat < 3 then x.sent && (List.range (s.partCount (cdDims x.desc))).all fun p => x.data.any fun e => e.1 == p
  else x.answered

/-- LINK_FAILURE (R396): a link that fails retraining goes down and is reported; a collective that needs it ends with code 6. One that has
everything needs no link; of the links that lead its way any may be the one that it needs (log 45). -/
def execLinkFailure (link : Nat) (s : State) : Out :=
  if 12 ≤ link then .fault .noSuchUnit
  else if !s.linkUp link then .next s
  else
    let s := { s with links := vset s.links link (vget s.links link 0 &&& ~~~((1 : W64) <<< 63)) }
    let s := s.postEvent 8 10 none [BitVec.ofNat 64 link]
    .next ((List.range 480).foldl (fun s c =>
      (List.range 8).foldl (fun s i =>
        match s.collAt c i with
        | none => s
        | some x =>
          if x.code.isSome || s.collReady x then s
          else
            let (cut, s) := State.linkCut ((s.collLinks x).filter fun g => g.contains link) s
            if cut then s.setColl c i (some { x with code := some 6, held := none }) else s) s) s)

/-! ## The sum (R388) -/

/-- RingSum over the dimensions of a line, the last one outermost: `src` gives the element of the participant of an index. -/
def ringSum (src : Nat → W32) : List (Nat × Nat) → Nat → Nat → W32
  | [], off, _ => src off
  | (n, c) :: r, off, m =>
    let v (k : Nat) : W32 := ringSum src r (off + m * ((c + k) % n)) (m * n)
    (List.range (n - 1)).foldl (fun s k => addF32 s (v (k + 2))) (v 1)

/-- Bits of element e of participant p. -/
def Coll.elem (x : Coll) (p e : Nat) : Nat := bitsOf (fmtBits (cdFmt x.desc)) (mapGet (x.data.mergeSort fun a b => a.1 ≤ b.1) p []) e
def Coll.isBad (x : Coll) (p e : Nat) : Bool := x.bad.any fun b => b.1 == p && b.2 == e

/-- Element e of the sum; a damaged source element of a CRSL enters as NaN (R390). -/
def State.collSum (s : State) (x : Coll) (e : Nat) : W32 :=
  let src (p : Nat) : W32 :=
    if x.sub = 1 && x.isBad p e then 0x7FC00000 else to32 (fmtVal (cdFmt x.desc) (x.elem p e))
  ringSum src (s.lineDims (cdDims x.desc)).reverse 0 1

/-- Elements of the sum that fall to this device. -/
def State.collShare (s : State) (x : Coll) : List Nat :=
  let c := cdCount x.desc / s.partCount (cdDims x.desc)
  (List.range c).map fun i => s.partIndex (cdDims x.desc) * c + i

/-- What a collective writes at DST, and which elements of it depend on damaged data (R389, R391, R392, R511). -/
def State.collResult (s : State) (x : Coll) : List Byte × List Nat :=
  let n := s.partCount (cdDims x.desc)
  match x.sub.toNat with
  | 0 =>
    let share := s.collShare x
    (packBits (fmtBits (cdOfmt x.desc)) (share.map fun e => toFmt (cdOfmt x.desc) (decode32 (s.collSum x e))),
     (List.range share.length).filter fun i => (List.range n).any fun p => x.isBad p (nth share i 0))
  | 2 =>
    ((List.range n).flatMap fun p => mapGet (x.data.mergeSort fun a b => a.1 ≤ b.1) p [],
     (List.range (n * cdCount x.desc)).filter fun i => x.isBad (i / cdCount x.desc) (i % cdCount x.desc))
  | 4 => (mapGet x.data 0 [], x.bad.map Prod.snd)
  | _ => ([], [])

/-- A CRS whose destination overlaps its source (R389): bytes of the destination that are undefined. -/
def State.crsOverlap (s : State) (x : Coll) : List Nat :=
  let n := cdDstLen x.sub.toNat (s.partCount (cdDims x.desc)) x.desc
  let lo := cdSrc x.desc
  let hi := cdSrc x.desc + cdSrcLen x.sub.toNat x.desc
  if x.sub = 0 then (List.range n).filter fun i => decide (lo ≤ cdDst x.desc + i) && decide (cdDst x.desc + i < hi) else []

/-! ## Completion (R386, R387) -/

/-- A shard that the collective of a slot has delivered no longer answers to it. -/
def State.dropShard (s : State) (core i : Nat) : State :=
  { s with shards := s.shards.map fun (h : Shard) => if h.src = some (core, i) then { h with src := none } else h,
           landings := s.landings.map fun (l : Landing) => if l.src = some (core, i) then { l with src := none } else l }

/-- The status word, then the raise of CSEM; the slot is free. A status page without room waits (R496). Its own writes are no race of its own, and
a status word that another agent has written too is undefined (R394). -/
def State.collFinish (s : State) (core i : Nat) (x : Coll) (code : Nat) : State :=
  let word : W64 := BitVec.ofNat 64 (cdTag x.desc <<< 32 ||| code)
  let stat := cdStat x.desc
  let s := s.setColl core i none
  let (ok, s) := if stat = 0 then (true, s) else s.ioWrite x.part x.snap stat (toBytes 8 word.toNat)
  let s := if ok then s.undefine (x.raced.filter (inPieces x.statPieces)) else s
  let csem := x.snap.place (cdCsem x.desc)
  let (raised, s) := if ok then s.ioRaise csem else (false, s)
  if raised then s.dropShard core i
  else s.setColl core i (some { x with code := some (BitVec.ofNat 8 code) })

/-- Byte i of what a collective brings to its destination: of a CAG the bytes of the parts that are here; else of the whole result, once everything
is here. -/
def State.collByte (s : State) (x : Coll) (i : Nat) : Option Byte :=
  let len := cdSrcLen x.sub.toNat x.desc
  if x.sub = 2 then (x.data.find? fun e => e.1 = i / len).map fun e => nth e.2 (i % len) 0
  else if s.collReady x then some (nth (s.collResult x).1 i 0) else none

/-- Something may have been written at the destination: the participants have met and the source is read, or the answer to a request may come. -/
def Coll.moving (x : Coll) : Bool := x.sent && (x.met || decide (3 ≤ x.sub.toNat))

/-- Each byte of the destination that can be reached becomes its new value or stays (R387 codes 5 and 6); a new value that has not
come is free. -/
def State.collPartial (s : State) (core i : Nat) (x : Coll) : State :=
  let n := cdDstLen x.sub.toNat (s.partCount (cdDims x.desc)) x.desc
  let sn := s.peek (ioX x.part) permW (cdDst x.desc) n
  if !x.moving then s else
  ((List.range n).foldl (fun s i =>
    let va := cdDst x.desc + i
    if !(sn.any fun e => e.1 = va / 65536) then s
    else
      let (c, s) := s.choose
      let (f, s) := s.freeByte
      if c then (s.ioWrite x.part sn va [(s.collByte x i).getD f]).2 else s) (s.setColl core i none)).setColl core i (some x)

/-- The result is written; a race of R394 or an overlap of R389 leaves undefined bytes. -/
def State.collStore (s : State) (core i : Nat) (x : Coll) : State :=
  let n := cdDstLen x.sub.toNat (s.partCount (cdDims x.desc)) x.desc
  let w := if x.sub = 0 then fmtBits (cdOfmt x.desc) else if x.sub = 2 then fmtBits (cdFmt x.desc) else 8
  match s.ioReach x.part permW (cdDst x.desc) n with
  | .error _ => s
  | .ok (sn, s) =>
    let (b, bad) := s.collResult x
    let (ok, s) := (s.setColl core i none).ioWrite x.part sn (cdDst x.desc) b
    if !ok then s.setColl core i (some x)
    else
      let s := s.markBytes sn (cdDst x.desc) (bad.flatMap fun e =>
        (List.range (((e + 1) * w + 7) / 8 - e * w / 8)).map fun k => e * w / 8 + k)
      let places := (List.range n).map fun i => sn.place (cdDst x.desc + i)
      (s.undefine (x.raced.filter places.contains ++ (s.crsOverlap x).map fun i => sn.place (cdDst x.desc + i))).collFinish core i x 0

/-- The shard of a CRSL goes to its landing record (R390). -/
def State.collDeliver (s : State) (core i : Nat) (x : Coll) : Out :=
  execLandingShardArrive x.part (BitVec.ofNat 52 (cdDst x.desc)) (BitVec.ofNat 16 (cdMb x.desc))
    ((s.collShare x).map fun e => s.collSum x e) (some (core, i)) (s.setColl core i (some { x with delivered := true }))

/-- COLL_COMPLETE. A CRSL's shard is delivered by the first such step, and the collective ends once the shard has an outcome. -/
def execCollComplete (core slot : Nat) (s : State) : Out :=
  if !coreOk core ∨ 8 ≤ slot then .fault .noSuchUnit else
  match s.collAt core slot with
  | none => .next s
  | some x =>
    match x.code with
    | some c =>
      let s := if c = 5 ∨ c = 6 then s.collPartial core slot x else s
      .next (s.collFinish core slot x c.toNat)
    | none =>
      if x.held.isSome ∨ !s.collReady x then .next s
      else if x.sub = 1 then (if x.delivered then .next s else s.collDeliver core slot x)
      else if x.sub = 3 then .next (s.collFinish core slot x 0)
      else .next (s.collStore core slot x)

/-- The failure that a collective meets in its next local access, if any (R397). -/
def State.collFailure (s : State) (x : Coll) : Option AccFail :=
  let n := s.partCount (cdDims x.desc)
  let fails (part : Nat) (p : Perm) (va n : Nat) : Option AccFail :=
    match s.ioReach part p va n with
    | .error f => f
    | .ok _ => none
  if x.code.isSome then none
  else if !x.sent && ((x.sub.toNat < 3 && x.met) || decide (x.sub = 3)) then
    fails x.part permR (cdSrc x.desc) (cdSrcLen x.sub.toNat x.desc)
  else if s.collReady x && (x.sub = 0 || x.sub = 2 || x.sub = 4) then
    fails x.part permW (cdDst x.desc) (cdDstLen x.sub.toNat n x.desc)
  else if 3 ≤ x.sub.toNat && s.targetSelf x && !x.answered then
    let f := s.fctx x.part
    let raise := if x.sub = 3 && cdRsig x.desc then
        (s.window f (cdWin x.desc) (cdRsoff x.desc) 8 true).bind fun w => fails w.1 permRW (w.2 + cdRsoff x.desc) 8
      else none
    let write := decide (x.sub = 3)
    if x.wrote then raise
    else match s.window f (cdWin x.desc) (cdRoff x.desc) (cdCount x.desc) write with
    | some (part, base) => fails part (if write then permW else permR) (base + cdRoff x.desc) (cdCount x.desc)
    | none => none
  else none

/-- COLL_HELD (R397, R509): the local part waits for the supervisor. -/
def execCollHeld (core slot : Nat) (s : State) : Out :=
  if !coreOk core ∨ 8 ≤ slot then .fault .noSuchUnit else
  match s.collAt core slot with
  | none => .next s
  | some x =>
    if x.held.isSome ∨ !s.collReleased core x then .next s
    else match s.collFailure x with
    | none => .next s
    | some f =>
      let x : Coll := { x with held := some (BitVec.ofNat 8 f.cause, BitVec.ofNat 52 f.va) }
      let s := match f.ue with
        | some l => s.collEvent core 4 x [ueEvent 2 l]
        | none => s
      .next ((s.setColl core slot (some x)).collEvent core 3 x
        [BitVec.ofNat 64 (slot <<< 61 ||| f.cause <<< 52 ||| f.va % 2 ^ 52), BitVec.ofNat 64 (cdTag x.desc)])

end Sys2Proof.Machine
end

