-- ==== Sys2Proof/Machine/Perform.lean ====
section
/-! DEFINITION. Performance of the accesses that A and S have issued (05 R147-R154): each step performs the head of its walker's order at
the points of coherence, whole, or some of its units where it has several (R148, R155, R156), and lets what waited for it take effect. -/

namespace Sys2Proof.Machine

/-! ## Loads -/

/-- The head of A's order at core c, when a MARK or a release order does not hold it (R154, R158, R160). -/
def Core.loadHead (k : Core) : Option LoadOp :=
  k.loads.head?.filter fun l => k.loadFree l && match l.kind with
    | .atom _ _ o _ _ _ _ => !o.getLsbD 1 || k.releaseDone l.walk
    | _ => true

/-- The head of A's order leaves; a bank command that it was issued before counts one fewer (R173). -/
def State.popLoad (s : State) (c : Nat) : State :=
  s.modCore c fun k => { k with loads := k.loads.tail,
                                bankQ := k.bankQ.map fun (b : BankCmd) => { b with afterLd := b.afterLd - 1 } }

/-- The head of a walker's order keeps the units that it has read, and those that it has written (R148). -/
def noteLoad (got : List Got) (now : List Nat) (k : Core) : Core :=
  match k.loads with
  | op :: r => { k with loads := { op with got := got, units := now ++ op.units } :: r }
  | [] => k
def noteStore (got : List Got) (now : List Nat) (k : Core) : Core :=
  match k.stores with
  | op :: r => { k with stores := { op with got := got, units := now ++ op.units } :: r }
  | [] => k

/-- Bytes that core c has written: what follows for other engines (R143, R173, R353, R394). -/
def State.written (s : State) (a : Writer) (out cells : List (Nat × Nat)) : State :=
  (s.wrote a out).clobber (cells.filter fun e => inPieces out e.2)
/-- The places of some pieces, by which a scratchpad is known to the channels (R143). -/
def ownCells (out : List (Nat × Nat)) : List (Nat × Nat) := (piecePlaces out).map fun l => (l, l)

/-- A write that must have its cantilever lines again, since a DISCARD may have freed them after its issue (R176, R496): without room it is held,
and reported when it begins to wait (log 34). -/
def State.withRoom (s : State) (c : Nat) (w : Walker) (ps : List (Nat × Nat)) (f : State → State) : State :=
  match s.cantTake ps (some (.walker c w)) with
  | .ok s => f s
  | .error l => s.lacksRoom c (cantPart l) (s.hdie (cantPart l) (cantVa l) (some (.walker c w))) (cantVa l)

/-- LD and LDS: some units of the data are read, or the rest, and then they arrive (R148, R262). -/
def State.ldStep (s : State) (c : Nat) (op : LoadOp) (va : VA) (z : BitVec 2) (sx : Bool) (dst : Option (BitVec 5)) (tag : Nat) : State :=
  let ps := op.snap.pieces va.toNat (2 ^ z.toNat)
  let todo := (unitsOf ps).filter fun u => !op.got.any fun g => g.unit = u
  let (part, s) := if (unitsOf ps).length ≤ 1 then (false, s) else s.choose
  let (now, s) := if part then s.someOf todo else (todo, s)
  let (g, s) := State.ldUnits c ps now s
  if part then s.modCore c (noteLoad (op.got ++ g) [])
  else performLd c op va z sx dst tag (s.over (op.got ++ g)) (s.popLoad c)

/-- ATOM is performed: one unit (R148, R286). -/
def State.atomStep (s : State) (c : Nat) (op : LoadOp) (code : BitVec 4) (z o : BitVec 2) (va : VA) (v w : W64) (tag : Nat) : State :=
  let n := 2 ^ z.toNat
  let ps := op.snap.pieces va.toNat n
  let idle := s.marked (op.snap.place va.toNat) n
  let t := s.reading ps fun s => performAtom c op code z o va v w tag s
  (if idle then t else t.written (.load c op.walk) ps (t.keyed c op.snap va.toNat n)).popLoad c

/-- A load or an atomic of core c is performed (R262, R266, R286). -/
def State.arrive (s : State) (c : Nat) (op : LoadOp) : State :=
  match op.kind with
  | .ld va z sx dst tag _ => s.ldStep c op va z sx dst tag
  | .atom code z o va v w tag =>
    s.withRoom c .A (op.snap.pieces va.toNat (2 ^ z.toNat)) fun s => s.atomStep c op code z o va v w tag
  | .deferred tag cause va => (s.popLoad c).modCore c fun k =>
      let (i, k) := k.defer cause va.toNat op.walk
      k.fillLQ tag (BitVec.ofNat 64 i) true false
  | _ => s

/-- LOAD_DATA_ARRIVAL: the head of A's order is an LD, LDS or ATOM. -/
def execLoadDataArrival (core : Nat) (s : State) : Out :=
  if !coreOk core then .fault .noSuchUnit else
  match (s.core core).loadHead with
  | some op => .next (s.arrive core op)
  | none => .next s

/-- The rows of a tile of core c. -/
def tilePieces (c : Nat) (w0 : W64) : List (Nat × Nat) := (List.range (tRows w0)).map fun i => tileRow c w0 i

/-- What a tile load of core c reads and writes, and which of what it reads a unit written derives from; none where the operation is no tile load. -/
def LoadOp.wide (op : LoadOp) (c : Nat) : Option Wide :=
  match op.kind with
  | .tld b t _ _ => some
      { reads := boxPieces op.snap b t.w0, writes := tilePieces c t.w0,
        needs := needsMem (tilePairs (rowByte c t.w0) op.snap b.lay t.w0 (boxCoord b.origin)), got := op.got, units := op.units }
  | .tldp b t dst => some
      { reads := boxPieces op.snap b t.w0,
        writes := (List.range (tRows t.w0)).flatMap fun i => op.snap.pieces (dst.toNat + i * tPitch t.w0) (tRowBytes t.w0),
        needs := needsMem (tilePairs (fun i o => op.snap.place (dst.toNat + i * tPitch t.w0 + o)) op.snap b.lay t.w0 (boxCoord b.origin)),
        got := op.got, units := op.units }
  | .nmred l o0 b ix t => some
      { reads := redPieces op.snap l o0 ix t, writes := tilePieces c t.w0, needs := redNeeds c op.snap l o0 b ix t, got := op.got, units := op.units }
  | .tlost t _ _ => some { reads := [], writes := tilePieces c t.w0, needs := fun _ => [], got := op.got, units := op.units }
  | .tldsc b t => some { reads := scalePieces op.snap b t.w0, writes := [], needs := fun _ => [], got := op.got, units := op.units }
  | _ => none

/-- The bytes that it writes, in memory as it has read it. -/
def LoadOp.move (op : LoadOp) (c : Nat) (s : State) : State :=
  match op.kind with
  | .tld b t _ fails => moveTld c op b t fails s
  | .tldp b t dst => moveTldp op b t dst s
  | .nmred l o0 b ix t => moveNmred c op l o0 b ix t s
  | .tlost t _ _ => moveTlost c t s
  | _ => s

/-- What its last step brings, o being memory as it has read it: its fill, its record, its entry. -/
def LoadOp.finish (op : LoadOp) (c : Nat) (o s : State) : State :=
  match op.kind with
  | .tld b t _ fails => endTld c op b t fails o s
  | .tldp b t _ => s.tldConsumed c op.snap (o.tldRows op.snap b t.w0 [])
  | .nmred l o0 _ ix t => endNmred c op l o0 ix t o s
  | .tlost t cause va => endTlost c op t cause va s
  | .tldsc b t => endTldsc c op b t o s
  | _ => s

/-- R126 names TLDP neither among the loads that invalidate their core's own copies of what they read. -/
def LoadOp.dropsOwn (op : LoadOp) : Bool :=
  match op.kind with
  | .tldp _ _ _ => false
  | _ => true

/-- A step of a tile load or an indexed reduce of core c (R148, R269-R271, R359). -/
def State.fill (s : State) (c : Nat) (op : LoadOp) : State :=
  match op.wide c with
  | none => s
  | some w => s.wide w
    { move := op.move c,
      note := fun got now s => s.modCore c (noteLoad got now),
      follow := fun _ rd out s => (if op.dropsOwn then s.bypass c rd else s).clobber (ownCells out),
      after := fun o s => op.finish c o (s.popLoad c) }

/-- A TLDSC is brought to its end by SCALE_ENTRY_VISIBLE. -/
def LoadOp.isScale (op : LoadOp) : Bool :=
  match op.kind with
  | .tldsc _ _ => true
  | _ => false

/-- TILE_FILL: the head of A's order is a TLD, TLDS, TLDP or NMRED. -/
def execTileFill (core : Nat) (s : State) : Out :=
  if !coreOk core then .fault .noSuchUnit else
  match (s.core core).loadHead with
  | some op => .next (if op.isScale then s else s.fill core op)
  | none => .next s

/-- SCALE_ENTRY_VISIBLE: the head of A's order is a TLDSC (R271, R325). -/
def execScaleEntryVisible (core : Nat) (s : State) : Out :=
  if !coreOk core then .fault .noSuchUnit else
  match (s.core core).loadHead with
  | some op => .next (if op.isScale then s.fill core op else s)
  | none => .next s

/-! ## Stores -/

/-- The head of S's order at core c, when a MARK or a release order does not hold it (R154, R158, R160). -/
def Core.storeHead (k : Core) : Option StoreOp :=
  k.stores.head?.filter fun t => k.storeFree t && match t.kind with
    | .atomnr _ _ o _ _ _ => !o.getLsbD 1 || k.releaseDone t.walk
    | _ => true

/-- The ranges of virtual addresses that a store writes. -/
def StoreOp.ranges (t : StoreOp) : List (Nat × Nat) :=
  match t.kind with
  | .st va n _ => [(va.toNat, n)]
  | .tst b r _ => segPages (tileSegs b.lay b.origin r.w0)
  | .tscat b r _ ix => segPages (scatSegs b.lay b.origin r.w0 ix)
  | .stash va r _ => [(va.toNat, tRows r.w0 * tRowBytes r.w0)]
  | .atomnr _ z _ va _ _ => [(va.toNat, 2 ^ z.toNat)]
  | .discard _ _ => []
  | .semsig _ _ => []
def StoreOp.pieces (t : StoreOp) : List (Nat × Nat) := t.ranges.flatMap fun r => t.snap.pieces r.1 r.2
/-- Its bytes by key and place, for `clobber`. -/
def StoreOp.cells (t : StoreOp) (s : State) (c : Nat) : List (Nat × Nat) := t.ranges.flatMap fun r => s.keyed c t.snap r.1 r.2

/-- Where the bytes of a tile that a store writes lie, in the tile and in memory. -/
def StoreOp.pairs (t : StoreOp) (c : Nat) : List (Nat × Nat) :=
  match t.kind with
  | .tst b r _ => tilePairs (rowByte c r.w0) t.snap b.lay r.w0 fun i j => boxCoord (tstRow b i) 0 j
  | .tscat b r _ ix => tilePairs (rowByte c r.w0) t.snap b.lay r.w0 fun i j => boxCoord (tscatRow b ix i) 0 j
  | .stash va r _ => (List.range (tRows r.w0)).flatMap fun i => (List.range (tRowBytes r.w0)).map fun k =>
      (rowByte c r.w0 i k, t.snap.place (va.toNat + i * tRowBytes r.w0 + k))
  | _ => []
/-- The tile that it reads. -/
def StoreOp.tile (t : StoreOp) : Option (TileRef × Bool) :=
  match t.kind with
  | .tst _ r rel | .tscat _ r rel _ | .stash _ r rel => some (r, rel)
  | _ => none

/-- The bytes that a store writes, in memory as it has read it. -/
def StoreOp.move (t : StoreOp) (c : Nat) (s : State) : State :=
  match t.kind with
  | .st _ _ v => State.wrV s t.pieces (toBytes 8 v.toNat)
  | .tst b r _ => s.storeRows c t.snap b.lay r.w0 (tstRow b)
  | .tscat b r _ ix => s.storeRows c t.snap b.lay r.w0 (tscatRow b ix)
  | .stash va r _ => moveStash c t va r s
  | _ => s

/-- The core's own copies follow an ST, and go where a tile store writes (R126). -/
def StoreOp.ownL1 (t : StoreOp) (c : Nat) (out : List (Nat × Nat)) (s : State) : State :=
  match t.tile with
  | none => s.patchOwn c out
  | some _ => s.modCore c fun k => out.foldl (fun k p => k.dropLines p.1 p.2) k

/-- The head of S's order leaves, and what waited for it takes effect. -/
def State.storeLeaves (s : State) (c : Nat) : State := (s.modCore c Core.storePop).settle c

/-- A step of a store of core c that moves data: ST, TST, TSCAT, STASH (R148, R264, R272, R273, R290). -/
def State.moveStep (s : State) (c : Nat) (op : StoreOp) : State :=
  s.wide
    { reads := match op.tile with
        | some (r, _) => tilePieces c r.w0
        | none => [],
      writes := op.pieces, needs := needsTile (op.pairs c), got := op.got, units := op.units }
    { move := op.move c,
      note := fun got now s => s.modCore c (noteStore got now),
      follow := fun _ _ out s => (op.ownL1 c out s).written (.store c op.walk) out (op.cells s c),
      after := fun _ s => (match op.tile with
        | some (r, true) => s.modCore c fun k => k.releaseTile r
        | _ => s).storeLeaves c }

/-- ATOMNR is performed: one unit; on a marked word it writes nothing (R511). -/
def State.atomnrStep (s : State) (c : Nat) (op : StoreOp) (code : BitVec 4) (z : BitVec 2) (va : VA) (v w : W64) : State :=
  let idle := s.marked (op.snap.place va.toNat) (2 ^ z.toNat)
  let t := performAtomnr c op code z va v w (s.serve op.pieces)
  (if idle then t else t.written (.store c op.walk) op.pieces (op.cells t c)).storeLeaves c

/-- The head of S's order is performed, or a part of it. -/
def State.storeStep (s : State) (c : Nat) (op : StoreOp) : State :=
  match op.kind with
  | .atomnr code z _ va v w => s.atomnrStep c op code z va v w
  | .discard va len => (performDiscard c op va len s).storeLeaves c
  | .semsig m n => (s.modCore c fun k => k.semAdd m.toNat n).storeLeaves c
  | _ => s.moveStep c op

/-- STORE_PERFORMED: a store of several units is performed unit by unit (R148). -/
def execStorePerformed (core : Nat) (s : State) : Out :=
  if !coreOk core then .fault .noSuchUnit else
  match (s.core core).storeHead with
  | none => .next s
  | some op => .next (s.withRoom core .S (clip op.pieces ((unitsOf op.pieces).filter fun u => !op.units.contains u)) fun s => s.storeStep core op)

/-! ## What follows a step -/

/-- A core that may have signals or publications to bring to effect. -/
def Core.unsettled (k : Core) : Bool :=
  !k.pubs.isEmpty || match k.stores.head? with
    | some t => (match t.kind with
      | .semsig _ _ => true
      | _ => false)
    | none => false

/-- Every core settles (R162, R283). -/
def State.settleAll (s : State) : State :=
  if s.cores.toList.any Core.unsettled then (List.range 480).foldl State.settle s else s

end Sys2Proof.Machine
end

