-- ==== Sys2Proof/Machine/Fetch.lean ====
section
/-! DEFINITION. A walker's fetch and its waits (02 R44-R54, R66-R70, R75-R81, 06 R179), the completion of a core (07 R222), the signal of
its arrivals (07 R233) and the moves of carve steps (04 R130). What the fetched bundle does is in Part. -/

namespace Sys2Proof.Machine

/-! ## Producers (R70) -/

/-- A syllable issued on a tile works on the present definition of tile register t (R118). -/
def Core.fillsTile (k : Core) (t : Nat) (r : TileRef) : Bool :=
  decide (r.t.toNat = t) && (k.tile t).defd && decide (r.gen = (k.tile t).gen)
/-- Walk counts of the loads and channel commands, and of the drains, of a core whose fill of tile t is to come; a drain with rel 0
fills nothing (R116). -/
def Core.fillsByA (k : Core) (t : Nat) : List W64 :=
  (k.loads.filterMap fun l => match l.kind with
    | .tld _ r _ _ => if k.fillsTile t r then some l.walk else none
    | .nmred _ _ _ _ r => if k.fillsTile t r then some l.walk else none
    | .tlost r _ _ => if k.fillsTile t r then some l.walk else none
    | _ => none)
  ++ k.chans.toList.filterMap fun ch => ch.cmd.bind fun c => c.tile.bind fun r =>
      if k.fillsTile t r && ch.state != .idle then some c.walk else none
def Core.fillsByX (k : Core) (t : Nat) : List W64 :=
  ((k.mat.queue ++ k.mat.compute).filterMap fun m =>
    if !m.rel then none else
    match m.kind with
    | .drn _ | .drn8 _ | .drna => if k.fillsTile t m.t then some m.walk else none
    | .drnmx _ => if k.fillsTile t m.t || (m.t1.any (k.fillsTile t)) then some m.walk else none
    | _ => none)
  ++ (match k.lateRows with
    | some l => if l.fills.any (k.fillsTile t) then [l.walk] else []
    | none => [])

/-- The latest of some walk counts. R70's most recent syllable is told by the walk count of its bundle, not by the time at which it issued; two of one
bundle by the rule of R70's walkers (log 22). -/
def latest (l : List W64) : Option W64 :=
  l.foldl (fun b w => match b with
    | none => some w
    | some v => if walkLt v w then some w else some v) none

/-- The walker whose action would end a wait of walker w of core k (R70). -/
def Core.producer (k : Core) (w : Walker) (st : Stall) : Option Walker :=
  let behind (p : Walker → Bool) : Option Walker := [Walker.A, .X, .S].find? fun o => o != w && p o
  match st.res.toNat with
  | 0 | 7 => some .A
  | 1 | 2 | 3 | 4 => some .X
  | 5 =>
    match latest (k.fillsByA st.obj.toNat), latest (k.fillsByX st.obj.toNat) with
    | none, none => none
    | some _, none => some .A
    | none, some _ => some .X
    | some a, some x => if walkLt a x then some .X else some .A
  | 12 => some .S
  | 13 => some (if w = .A then .S else .A)
  | 14 =>
    match k.undefs.find? fun e => e.1 = st.obj.toNat with
    | some e => [Walker.A, .X, .S].find? fun o => !(k.wk o).passed e.2
    | none => behind fun o => walkLt (k.wk o).walk (k.wk w).walk
  | 15 => behind fun o => !k.hasReached (k.wk w).walk o
  | 16 => some (if w = .X then .A else .X)
  | _ => none

/-! ## Progress traps (R67-R69) -/

/-- The waiting syllable in the lowest slot whose count exceeds its budget. -/
def WalkerSt.due (x : WalkerSt) : Option Stall :=
  (List.range 8).findSome? fun i => x.stalls.find? fun e => decide (e.slot = i) && decide (e.budget < e.count)

/-- Entries of the queue that RES names, the scale queue (R325) and the bank queue (R346) among them; none where RES names no queue. -/
def queueSlots (res : Nat) : Nat := if res = 16 then 4 else if res = 17 then 16 else nth [lqSize, sqSize, aqSize, bqSize, kqSize] res 0

/-- OBJID of R69. A queue wait names a queue slot, and no rule numbers those, so that the slot is a free value (log 21). -/
def State.objId (s : State) (st : Stall) : Nat :=
  if queueSlots st.res.toNat = 0 then st.obj.toNat else (Config.undefByte s.freeCtr).toNat % queueSlots st.res.toNat

/-- The record of a progress trap. -/
def State.progressRec (s : State) (st : Stall) : Rec8 :=
  let k := s.cur
  let p := k.producer s.issue.w st
  let w0 := BitVec.ofNat 64 ((s.issue.addr.toNat >>> 5) <<< 10 ||| st.slot <<< 7 ||| walkerNo s.issue.w <<< 5 ||| (if st.stash then 2 else 1))
  let w1 := BitVec.ofNat 64 (Nat.min st.count 0xFFFFFFFF <<< 32 ||| s.objId st <<< 16 ||| st.bidx.toNat <<< 12 ||| st.res.toNat)
  let w2 : W64 := match p with
    | some o => BitVec.ofNat 64 (((k.wk o).pc.toNat >>> 5) <<< 10 ||| 1 <<< 9 ||| walkerNo o <<< 7)
    | none => 0
  let w3 : W64 := match p with
    | some o => (k.wk o).walk
    | none => 0
  let addr : Nat := if st.res.toNat = 10 ∨ st.res.toNat = 18 ∨ st.res.toNat = 21 ∨ st.res.toNat = 22 then st.addr.toNat else 0
  ⟨#[w0, w1, w2, w3, (k.wk s.issue.w).walk, BitVec.ofNat 64 addr, 0, 0], rfl⟩

/-- Walker w of core c is about to issue at its position. -/
def State.beginIssue (s : State) (c : Nat) (w : Walker) : State :=
  let k := s.core c
  { s with issue := { Issue.reset with core := c, w := w, addr := (k.wk w).pc, pre := k, preMem := s.mem } }

/-- The progress trap of a walker whose wait has exceeded its budget. -/
def State.takeProgress (s : State) (c : Nat) (w : Walker) (st : Stall) : State :=
  let s := s.beginIssue c w
  { s with freeCtr := s.freeCtr + 1 }.takeStop (s.progressRec st)

/-- PROGRESS_TRAP. -/
def execProgressTrap (core : Nat) (w : Walker) (s : State) : Out :=
  if !coreOk core then .fault .noSuchUnit else
  let x := (s.core core).wk w
  match x.run, x.due with
  | .running, some st => .next (s.takeProgress core w st)
  | _, _ => .next s

/-! ## Waits (R67, R75, R80) -/

/-- A wait that R68 lists under a RES of its own, and that belongs to no blocking syllable. A WLDX that waits for an entry is one (R324), and a TLDSC
has no other wait to tell RES 16 from. -/
def Stall.ownRes (e : Stall) : Bool := decide (12 ≤ e.res.toNat) && e.res != 16 && e.res != 19
/-- Two waits have one count (R67): those of one blocking syllable under the budget that it names, or one wait of R68; a wait of the
fetch is told from one of slot 0. -/
def Stall.sameCount (e y : Stall) : Bool :=
  decide (e.slot = y.slot) && e.fetch == y.fetch && e.bidx == y.bidx && (e.res == y.res || (!e.ownRes && !y.ownRes))

/-- A waiting syllable counts one more cycle. -/
def countStall (old : List Stall) (y : Stall) : List Stall :=
  let same (e : Stall) : Bool := e.sameCount y
  match old.find? same with
  | some e => old.map fun o => if same o then { y with count := e.count + 1 } else o
  | none => old ++ [{ y with count := 1 }]

/-- A walker stops at a pre-emption point: in its wait, with its stall count at zero, or at a bundle boundary (R80). -/
def State.hold (s : State) : State := s.modW fun x => { x with run := .held, stalls := [], await := none, got := [] }

/-- The waits of the part at hand: a sibling of a stopped walker halts (R75), a walker on its way to a pre-emption point stops in a
drain wait (R80), any other counts (R67). A write that begins to wait for cantilever room is reported (R496). -/
def State.takeWaits (s : State) : State :=
  let ws := s.issue.waits
  let c := s.issue.core
  let s := s.issue.overs.foldl (fun s (o : Nat × Nat × VA) =>
    s.postEvent o.1 8 (some c) [BitVec.ofNat 64 (o.2.1 <<< 56), BitVec.ofNat 64 o.2.2.toNat]) s
  let sibling := (otherWalkers s.issue.w).any fun o => (s.cur.wk o).run == .stopped
  if sibling && ws.any (fun y => haltRes y.res.toNat) then
    s.modW fun x => { x with run := .halted, stalls := [], await := none, got := [] }
  else if (match s.curW.pre with
      | .now => true
      | .upTo _ => ws.any Stall.drain
      | _ => false) then s.hold
  else
    let reg := s.issue.reg
    s.modW fun x =>
      { x with got := [], stalls := (ws.filter fun y => decide (y.res.toNat ≠ resInterlock)).foldl countStall x.stalls,
               await := match reg with
                 | some r => some r
                 | none => x.await }

/-! ## Fetch -/

/-- The walker has reached the stopping place that a pre-emption gave it (R77-R80). -/
def WalkerSt.atPoint (x : WalkerSt) : Bool :=
  match x.pre with
  | .now => true
  | .upTo w => !walkLt x.walk w
  | _ => false

/-- A may pass the bundle that it stands at (R52). -/
def Core.slipOk (k : Core) : Bool := decide ((k.wA.walk - k.wS.walk).toInt < k.slip.toNat)

/-- A bundle that its walker has reached (R51). -/
def Core.arrive (k : Core) (w : Walker) : Core :=
  let n := (k.wk w).walk
  if (k.reached n).contains w then k
  else if k.arrivals.any fun e => e.1 = n then
    { k with arrivals := k.arrivals.map fun e => if e.1 = n then (n, e.2 ++ [w]) else e }
  else { k with arrivals := k.arrivals ++ [(n, [w])] }

/-- An acquire under way holds walker w (R158): A beyond the acquire's bundle, and S too unless it had passed that bundle before the
acquire issued. -/
def Core.acqHolds (k : Core) (w : Walker) : Bool :=
  k.acqHold.any fun a => match w with
    | .A => walkLt a.1 k.wA.walk
    | .S => a.2 && walkLt a.1 k.wS.walk
    | .X => false

/-- A bundle as memory held it when its gang was bound, at the frame that its page had then; none where the page was not mapped. -/
def State.boundText (s : State) (g : Gang) (va : Nat) : Option (List Byte) :=
  let o := { s with mem := g.text, tlb := [] }
  match o.reach (o.xctx 0) permX va 32 with
  | .ok (sn, _) => some (o.rdV sn va 32)
  | .error _ => none

/-- The bundle at an address, read as one unit. A bundle that was rewritten while its gang was bound is read old or new, by a free
choice of each walker (R180, log 72). -/
def State.fetchText (s : State) (sn : Snap) (va : Nat) : List Byte × State :=
  let (new, s) := s.readBytes sn va 32
  match s.gangAt s.issue.core with
  | none => (new, s)
  | some g =>
    let old := (s.boundText g va).getD new
    if old = new then (new, s)
    else
      let (b, s) := s.choose
      (if b then old else new, s)

/-- Some of what X has passed of its VROWSTs is written, or all of it: the rows, then their fills (R148, R315). -/
def State.writeRows (s : State) (c : Nat) (l : Late) (now : List Nat) : State :=
  let cells := l.cells.filter fun e => now.contains (e.1 / 8)
  let whole (u : Nat) : Bool := (List.range 8).all fun i => cells.any fun e => e.1 == 8 * u + i && e.2.2 == 0xFF
  let s := { s with mem := cells.foldl (fun (m : Memory) (e : Nat × Byte × Byte) => m.set e.1 ((m.get e.1 &&& ~~~e.2.2) ||| (e.2.1 &&& e.2.2))) s.mem,
                    ue := s.ue.filter fun u => !(now.contains u && whole u) }
  let s := s.clobber (cells.map fun (e : Nat × Byte × Byte) => (e.1, e.1))
  let rest := l.cells.filter fun e => !now.contains (e.1 / 8)
  s.modCore c fun k => if rest = [] then l.fills.foldl (fun k t => k.fillTile t none) { k with lateRows := none }
    else { k with lateRows := some { l with cells := rest } }
def Late.units (l : Late) : List Nat := (l.cells.map fun e => e.1 / 8).eraseDups
/-- Everything of it. -/
def State.allRows (s : State) (c : Nat) : State :=
  match (s.core c).lateRows with
  | none => s
  | some l => s.writeRows c l l.units
/-- What a turn of X does about it: nothing where X goes on, some, or all; and whether the turn ends with that. -/
def State.rowsTurn (s : State) (c : Nat) : Bool × State :=
  match (s.core c).lateRows with
  | none => (false, s)
  | some l =>
    let (part, s) := s.choose
    let (now, s) := s.someOf l.units
    let (leave, s) := s.choose
    if part then (true, s.writeRows c l now)
    else if leave && (s.core c).wX.run == .running then (false, s)
    else (false, s.allRows c)

/-- BUNDLE_FETCH (R179): the bundle's eight syllables, once the walker is not held by a pre-emption point, the slip bound (R52) or
an acquire (R158). A fetch that fails stops the walker at the bundle; a wait of the fetch counts as any other. The walker has reached the
bundle (R51) when it has read it: one that a point, the slip bound, an acquire or a fetch wait holds has not (log 94). -/
def execBundleFetch (core : Nat) (w : Walker) (s : State) : Out :=
  if !coreOk core then .fault .noSuchUnit else
  let (ends, s) := if w = .X then s.rowsTurn core else (false, s)
  if ends then .next s else
  let k := s.core core
  let x := k.wk w
  if x.run ≠ .running then .next s
  else match x.due with
  | some st => .next (s.takeProgress core w st)
  | none =>
    let s := s.beginIssue core w
    if x.atPoint then .next s.hold
    else if w = .A ∧ !k.slipOk then .next (s.waitOn 12 0 0).fetchWaits.takeWaits
    else if k.acqHolds w then .next s.interlock.takeWaits
    else match s.reach (s.xctx 0) permX x.pc.toNat 32 with
    | .error (.fail f) => .next (s.accessFault f)
    | .error (.wait res va) => .next (s.waitOn res 0 0 (BitVec.ofNat 52 va)).fetchWaits.takeWaits
    | .ok (sn, s) =>
      match (List.range 32).find? fun i => s.marked (sn.place (x.pc.toNat + i)) 1 with
      | some i => .next ((s.noteUe (some (sn.place (x.pc.toNat + i)))).dataError 2 (x.pc.toNat + i))
      | none =>
        let (b, s) := s.fetchText sn x.pc.toNat
        let s := s.modCur fun k => k.arrive w
        .next { s with issue := { s.issue with
          pre := s.cur, words := (List.range 8).map fun i => BitVec.ofNat 32 (ofBytes ((b.drop (4 * i)).take 4)) } }

/-! ## Completion of a core (R222, R37, R164) -/

/-- What core c leaves when its gang no longer holds it: its walkers are idle; collectives and bank commands go on (R76, R346, R397),
a collective whose release is not complete with what `rel` makes of it. -/
def Core.leave (k : Core) (rel : Coll → Coll) : Core :=
  let idle (x : WalkerSt) : WalkerSt := { x with run := .idle, stalls := [], await := none, pre := .no, got := [] }
  { k with gangUid := none, wA := idle k.wA, wX := idle k.wX, wS := idle k.wS, preempt := false, cut := [], lateRows := none,
           bankQ := k.bankQ.map (fun (b : BankCmd) => { b with after := 0, afterNm := 0 }),
           colls := k.colls.map fun (c : Option Coll) => c.map rel }
/-- The gang is done with the core: nothing that a release could wait for is left. -/
def Core.unbind (k : Core) : Core := k.leave fun x => { x with released := true }
/-- The gang is saved: a release that is not complete waits for the gang to go on (R175). -/
def Core.unbindSaved (k : Core) (u rank : Nat) : Core :=
  k.leave fun x =>
    if x.released || k.releaseDone x.walk then { x with released := true }
    else if x.owner.isSome then x else { x with owner := some (u, rank) }

/-- The slot register of a core. -/
def SlotRegs.none0 : SlotRegs := ⟨0, 0, 0, 0, 0, 0, 0⟩
def State.slot (s : State) (c : Nat) : SlotRegs := vget s.slots c .none0
def State.setSlotW0 (s : State) (c : Nat) (f : W64 → W64) : State :=
  { s with slots := vset s.slots c { s.slot c with w0 := f (s.slot c).w0 } }
/-- STATE of a slot (R467). -/
def State.slotState (s : State) (c : Nat) : Nat := fld (s.slot c).w0 61 3

/-- The cores of a gang leave it, and their slots are FREE (R468). -/
def State.freeCores (s : State) (cs : List Nat) : State :=
  cs.foldl (fun s c => (s.modCore c Core.unbind).setSlotW0 c fun w => setFld w 61 3 0) s

/-- The whole carve-out of a gang goes back. -/
def State.dropCarve (s : State) (u : Nat) : State :=
  { s with mem := s.mem.zero (carvePlace u 0) (2 ^ 29), ue := s.ue.filter fun m =>
      !(decide (carvePlace u 0 ≤ m * 8) && decide (m * 8 < carvePlace u 0 + 2 ^ 29)) }

/-- The gang's last core has completed (R37): the gang is unbound, and its save slots and its carve-out are given back; the instance
ends when it was its last gang. -/
def State.gangComplete (s : State) (u : Nat) : State :=
  match s.gangs.find? fun g => g.uid = u with
  | none => s
  | some g =>
    let s := ((s.freeCores g.cores).dropCarve u).modGang u fun g =>
      { g with st := .done, cores := [], saves := [], carve := 0, motion := [] }
    if s.gangs.all fun x => x.inst ≠ g.inst || x.st == .done then
      { s with insts := s.insts.map fun i => if i.id = g.inst ∧ i.ending = none then { i with ending := some (0, 0) } else i }
    else s

/-- The core is done: its queues, rings and semaphores are discarded, and its L1 is cleaned and invalid (R222). Nothing can read the tile
descriptors any more; they keep what R402 shows in them until the next kernel entry sets them (log 73). -/
def Core.finish (k : Core) : Core :=
  { k with done := true, l1 := [], lq := [], sq := [], aq := [], bq := [], kq := [], pubs := [], barPend := [],
           rings := .replicate 8 .reset, sems := .replicate 32 .reset }

/-- CORE_COMPLETE: all three walkers have ended, and the release, the near-memory wait and the L1 clean of R164 are done. -/
def execCoreComplete (core : Nat) (s : State) : Out :=
  if !coreOk core then .fault .noSuchUnit else
  let k := s.core core
  match k.gangUid with
  | none => .next s
  | some u =>
    if k.done || k.wA.run != .ended || k.wX.run != .ended || k.wS.run != .ended || !k.loads.isEmpty || !k.stores.isEmpty
        || !k.nm.isEmpty || !k.pubs.isEmpty || k.lateRows.isSome || k.chans.toList.any (fun ch => ch.state != .idle) then .next s
    else
      let s := (s.setCore core k.finish).setSlotW0 core fun w => w ||| ((1 : W64) <<< 59)
      let s := { s with excl := s.excl.filter fun e => e.2 ≠ core }
      match s.gangs.find? fun g => g.uid = u with
      | none => .next s
      | some g => .next (if g.cores.all fun c => (s.core c).done then s.gangComplete u else s)

/-! ## Arrivals and carve steps -/

/-- BARRIER_ARRIVAL_SIGNAL (R159, R233): the oldest unsignalled arrival of the core, once its release is complete, X has reached the
BAR, and the 2^14 rule does not hold it. -/
def execBarrierArrivalSignal (core : Nat) (s : State) : Out :=
  if !coreOk core then .fault .noSuchUnit else
  let k := s.core core
  match k.barPend, s.gangAt core with
  | e :: r, some g =>
    if !k.releaseDone e.1 || walkLt k.wX.walk e.1 || g.holds k.rank then .next s
    else .next ((s.setCore core { k with barPend := r }).modGang g.uid fun g => { g with arr := listUpd g.arr k.rank (· + 1) })
  | _, _ => .next s

/-- CARVE_STEP_MOVE_DONE (R130): the oldest move of a gang's carve-out ends; a removed step is lost. -/
def execCarveStepMoveDone (gang : Nat) (s : State) : Out :=
  match s.gangs.find? fun g => g.uid = gang with
  | none => .next s
  | some g =>
    match g.motion with
    | [] => .next s
    | (st, added, _) :: r =>
      let s := s.modGang gang fun g => { g with motion := r }
      .next (if added || decide (st < g.carve) then s
        else { s with mem := s.mem.zero (carvePlace gang (st * 2 ^ 25)) (2 ^ 25) })

end Sys2Proof.Machine
end

