-- ==== Sys2Proof/Machine/Power.lean ====
section
/-! DEFINITION. Power and cooling control (23 R518-R524): droop, the zones, their throttle levels, and the configuration of hart 3. -/

namespace Sys2Proof.Machine

def twarn (w : W64) : Nat := fld w 48 8
def tcrit (w : W64) : Nat := fld w 40 8
def pumpMin (w : W64) : Nat := fld w 32 8

/-- Hart 3 moves a page. -/
def State.hart3Moves (s : State) : Bool := s.migr.any MigrSt.hart3

/-- A write to PWRCFG (R520); a change of MODE puts valves and pump where that mode keeps them (R524, R527). While hart 3 moves a page, a
write that changes MODE waits for the move to end (R527). -/
def State.pwrWrite (s : State) (data : W64) : State :=
  let kept := BitVec.ofNat 64 (1 <<< 63 ||| 0xFFFFFF <<< 32)
  let w : W64 := (data &&& kept) ||| (s.pwrcfg &&& 0xFFFF)
  if tcrit w ≤ twarn w then s
  else if s.hart3Moves && (s.pwrWait.isSome || w.getLsbD 63 != s.pwrcfg.getLsbD 63) then { s with pwrWait := some data }
  else
    let s := { s with pwrcfg := w }
    if w.getLsbD 63 then
      { s with pump := BitVec.ofNat 8 (pumpMin w), zones := s.zones.map fun z => { z with valve := 0 } }
    else { s with pump := if s.pump.toNat < pumpMin w then BitVec.ofNat 8 (pumpMin w) else s.pump }

/-- The write that waited for a move takes effect. -/
def State.pwrTake (s : State) : State :=
  match s.pwrWait with
  | some d => { s with pwrWait := none }.pwrWrite d
  | none => s

/-- PWRCFG_WRITE. -/
def execPwrcfgWrite (data : W64) (s : State) : Out := .next (s.pwrWrite data)

/-- One zone after its sensors are read (R521, R523): `v` is the valve opening that hart 3 chooses while the zone is not hot. -/
def ZoneSt.refresh (z : ZoneSt) (cfg : W64) (temp : Byte) (flow : BitVec 12) (v : Byte) : ZoneSt :=
  let t := temp.toNat
  let low := decide (t + 5 < twarn cfg)
  let hot := decide (twarn cfg ≤ t) || (z.hot && !low)
  let crit := decide (tcrit cfg ≤ t)
  { temp := temp, flow := flow, hot := hot, crit := crit,
    valve := if cfg.getLsbD 63 then 0 else if hot then 255 else v,
    below := if low then Nat.min (z.below + 1) 101 else 0,
    thr := if crit then 7 else if (hot && !z.hot) || z.crit then 4 else z.thr }

/-- THERMAL_REFRESH (R521): the fields of every zone, and POWER, are refreshed; a crossing of TCRIT is reported (R523). -/
def execThermalRefresh (zones : List ZoneReading) (power : BitVec 16) (s : State) : Out :=
  let s := { s with pwrcfg := setFld s.pwrcfg 0 16 power.toNat }
  let s := (List.range 9).foldl (fun s i =>
    match zones[i]? with
    | none => s
    | some r =>
      let (v, s) := s.freeByte
      let z := vget s.zones i ZoneSt.reset
      let y := z.refresh s.pwrcfg r.temp r.flow v
      let s := { s with zones := vset s.zones i y }
      if y.crit && !z.crit then s.postEvent 8 11 none [] else s) s
  let (p, s) := s.freeByte
  let least := pumpMin s.pwrcfg
  let pump : Byte :=
    if s.pwrcfg.getLsbD 63 then BitVec.ofNat 8 least
    else if s.zones.toList.any ZoneSt.hot then 255
    else if p.toNat < least then BitVec.ofNat 8 least else p
  .next { s with pump := pump }

/-- THROTTLE_DECAY (R523): 10 ms have passed; the level of a zone that has stayed cool for 100 ms falls by 1. -/
def execThrottleDecay (zone : Nat) (s : State) : Out :=
  if 9 ≤ zone then .fault .noSuchUnit else
  let z := vget s.zones zone ZoneSt.reset
  if z.below < 101 ∨ z.crit ∨ z.thr = 0 then .next s
  else .next { s with zones := vset s.zones zone { z with thr := z.thr - 1 } }

/-- DROOP_DETECT (R518): the clock of a cluster is stretched. -/
def execDroopDetect (cluster : Nat) (s : State) : Out :=
  if 40 ≤ cluster then .fault .noSuchUnit else
  let w := vget s.drstat cluster 0
  .next { s with drstat := vset s.drstat cluster (setFld w 32 32 (satAdd 32 (fld w 32 32) 1)), stretched := setAdd s.stretched cluster }

/-- SUPPLY_RECOVERED (R518): the stretch ends after a number of stretched cycles. -/
def execSupplyRecovered (cluster : Nat) (stretched : BitVec 32) (s : State) : Out :=
  if 40 ≤ cluster then .fault .noSuchUnit
  else if !s.stretched.contains cluster then .next s
  else
    let w := vget s.drstat cluster 0
    .next { s with drstat := vset s.drstat cluster (setFld w 0 32 (satAdd 32 (fld w 0 32) stretched.toNat)),
                   stretched := setDel s.stretched cluster }

end Sys2Proof.Machine
end

