-- ==== Sys2Proof/Machine/Regions.lean ====
section
/-! DEFINITION. The tree of region control blocks (19 R443-R449): snapshots, malformed blocks, effective values, priorities, the caps
of a binding, save-area pools, and the fault domain that a damaged block belongs to (22 R513). -/

namespace Sys2Proof.Machine

/-- Why the keystone cannot use a block: it is being edited (R447), it is malformed (R444, R449), or it holds uncorrectable data (R513). -/
inductive RcbErr where
  | edit | malformed | damaged
  deriving DecidableEq, Repr

/-- Words of a list, 0 beyond its end. -/
def wd (l : List W64) (i : Nat) : W64 := nth l i 0

/-- Bits of the sixteen words of an RCB that are reserved (R443). -/
def rcbReserved (w : List W64) : Bool :=
  fld (wd w 0) 57 4 ≠ 0 || fld (wd w 0) 44 4 ≠ 0 || fld (wd w 1) 56 8 ≠ 0 || fld (wd w 1) 43 5 ≠ 0 || fld (wd w 1) 32 8 ≠ 0
  || fld (wd w 2) 20 44 ≠ 0 || fld (wd w 2) 9 7 ≠ 0 || fld (wd w 3) 32 32 ≠ 0 || fld (wd w 5) 32 32 ≠ 0 || fld (wd w 6) 44 20 ≠ 0
  || (w.drop 8).any fun x => decide (x ≠ 0)

def rcbKind (w : List W64) : Nat := fld (wd w 0) 62 2
def rcbOvr (w : List W64) (f : Nat) : Bool := (fld (wd w 0) 48 9 >>> f) % 2 = 1
def rcbParent (w : List W64) : Nat := fld (wd w 0) 0 44

/-- Allowance of carve steps on a die in a CARVE field, and the 2 MiB units of a CANT word. -/
def carveOf (v d : Nat) : Nat := (v >>> (4 * d)) % 16
def cantOf (v d : Nat) : Nat := (v >>> (8 * d)) % 256

/-- An RCB is malformed (R444). -/
def rcbMalformed (w : List W64) : Bool :=
  rcbReserved w || rcbKind w = 0 || rcbKind w = 3
  || (rcbKind w = 1 && (rcbParent w ≠ 0 || fld (wd w 0) 48 9 ≠ 0x1FF))
  || (rcbKind w = 2 && rcbParent w = 0)
  || decide (480 < fld (wd w 2) 0 9) || (List.range 8).any fun d => carveOf (fld (wd w 3) 0 32) d = 15

/-- Words at a physical address. -/
def State.words (s : State) (a n : Nat) : List W64 := (List.range n).map fun i => s.rd64 (a + 8 * i)

/-- A snapshot of the RCB at a physical address (R447). -/
def State.rcb (s : State) (a : Nat) : Except RcbErr (List W64) :=
  if a % 128 ≠ 0 ∨ ¬ isHbm a then .error .malformed
  else if s.marked a 128 then .error .damaged
  else
    let w := s.words a 16
    if (wd w 0).getLsbD 61 then .error .edit
    else if rcbMalformed w then .error .malformed else .ok w

/-- A node and its ancestors, the root last: addresses and words. -/
abbrev Chain := List (Nat × List W64)

/-- The chain from an RCB up to a root, of at most 256 nodes (R444). -/
def State.rcbChain : Nat → State → Nat → Except RcbErr Chain
  | 0, _, _ => .error .malformed
  | n + 1, s, a =>
    match s.rcb a with
    | .error e => .error e
    | .ok w => if rcbKind w = 1 then .ok [(a, w)] else (State.rcbChain n s (rcbParent w)).map fun c => (a, w) :: c

def State.chain (s : State) (a : Nat) : Except RcbErr Chain := s.rcbChain 256 a

/-- A field group of an RCB, by its bit of OVR (R443). -/
def rcbField (w : List W64) (f : Nat) : Nat :=
  match f with
  | 0 => fld (wd w 2) 0 9
  | 1 => fld (wd w 2) 16 4
  | 2 => fld (wd w 3) 0 32
  | 3 => (wd w 4).toNat
  | 4 => fld (wd w 5) 0 32
  | 5 => fld (wd w 1) 40 3
  | 6 => fld (wd w 1) 48 8
  | 7 => fld (wd w 6) 0 44
  | _ => fld (wd w 1) 0 32

/-- Effective value of a field group for the first node of a chain (R444). -/
def effective (c : Chain) (f : Nat) : Nat :=
  match c.find? fun e => rcbOvr e.2 f with
  | some e => rcbField e.2 f
  | none => 0

/-- Effective priority (R446): the least PRIO set along the chain. -/
def effPrio (c : Chain) : Nat := c.foldl (fun p e => if rcbOvr e.2 5 then Nat.min p (rcbField e.2 5) else p) 7

/-- Root of a chain. -/
def chainRoot (c : Chain) : Nat :=
  match c.getLast? with
  | some e => e.1
  | none => 0

/-! ## Instances and what they hold (R445) -/

def Inst.region (i : Inst) : Nat := fld (vget i.lrec 1 0) 0 44
def Inst.gsize (i : Inst) : Nat := fld (vget i.lrec 2 0) 16 4
def Inst.ngang (i : Inst) : Nat := fld (vget i.lrec 2 0) 0 16
/-- Co-resident (R40). -/
def Inst.whole (i : Inst) : Bool := (vget i.lrec 0 0).getLsbD 59
/-- Carve steps declared by the image (R457). -/
def Inst.carve (i : Inst) : Nat := fld (vget i.image 0 0) 52 4

/-- The chain of a region that a partition may use: its root is the partition's ROOT (R444). -/
def State.chainOf (s : State) (part a : Nat) : Except RcbErr Chain :=
  match s.chain a with
  | .ok c => if chainRoot c = fld (vget s.parts part ⟨0, 0, 0, 0⟩).w1 0 44 then .ok c else .error .malformed
  | .error e => .error e

def State.inst (s : State) (i : Nat) : Option Inst := s.insts.find? fun x => x.id = i
def State.modInst (s : State) (i : Nat) (f : Inst → Inst) : State := { s with insts := s.insts.map fun x => if x.id = i then f x else x }

def Gang.onCores (g : Gang) : Bool := g.st == .bound || g.st == .preempting

/-- Cores bound under a node, and carve steps held under it on a die. A gang counts under the blocks that were its region and the ancestors of
that in the snapshot of its last binding (R447); R445 does not say which tree counts when PARENT is edited while it runs (log 96). -/
def State.coresUnder (s : State) (a : Nat) : Nat :=
  (s.gangs.filter fun g => g.onCores && g.path.contains a).foldl (fun n g => n + g.cores.length) 0
def State.carveUnder (s : State) (a die : Nat) : Nat :=
  (s.gangs.filter fun g => g.st != .done && g.carveDie == some die && g.path.contains a).foldl
    (fun n g => n + match s.inst g.inst with
      | some i => i.carve
      | none => 0) 0

/-- The caps of a node and of every ancestor let a gang of an instance bind on a die (R445). -/
def State.capsOk (s : State) (c : Chain) (size carve die : Nat) : Bool :=
  c.tails.all fun t =>
    match t with
    | [] => true
    | e :: _ => decide (s.coresUnder e.1 + size ≤ effective t 0)
        && decide (s.carveUnder e.1 die + carve ≤ carveOf (effective t 2) die)

/-! ## Stash rings (R445) -/

/-- What the rings registered for a region take of its STASH, in bytes, apart from the ring at a header. -/
def State.ringBytes (s : State) (region part va : Nat) : Nat :=
  (s.rings.filter fun r => r.region = region && !(r.part = part && r.va.toNat = va)).foldl (fun n r => n + r.bytes) 0

/-! ## Save-area pools (R449) -/

structure Pool where
  base : Nat
  kib : Nat
  nslot : Nat
  deriving DecidableEq, Repr

/-- The pool descriptor at a physical address. -/
def State.pool (s : State) (a : Nat) : Except RcbErr Pool :=
  if a % 64 ≠ 0 ∨ ¬ isHbm a then .error .malformed
  else if s.marked a 64 then .error .damaged
  else
    let w := s.words a 8
    let p : Pool := { base := fld (wd w 0) 0 52, kib := fld (wd w 1) 32 32, nslot := fld (wd w 1) 0 32 }
    if fld (wd w 0) 52 12 ≠ 0 ∨ (w.drop 2).any (fun x => decide (x ≠ 0)) ∨ p.base % 65536 ≠ 0 ∨ p.kib < 2432 ∨ p.kib % 64 ≠ 0
        ∨ p.nslot = 0 then .error .malformed
    else .ok p

/-! ## Fault domains (R450, R513) -/

def State.domFailed (s : State) (d : Nat) : Bool := (vget s.fdstat (d / 64) 0).getLsbD (d % 64)

/-- The domain of a region whose blocks may be damaged: the FDOM of the nearest node that sets it, as the words stand. -/
def State.rawDomain : Nat → State → Nat → Option Nat
  | 0, _, _ => none
  | n + 1, s, a =>
    if a = 0 ∨ ¬ isHbm a then none
    else
      let w := s.words a 16
      if rcbOvr w 6 then some (rcbField w 6) else if rcbKind w = 1 then none else State.rawDomain n s (rcbParent w)

/-! ## Partitions (R439, R440) -/

def State.part (s : State) (n : Nat) : PartRegs := vget s.parts n .none0
def PartRegs.valid (p : PartRegs) : Bool := p.w0.getLsbD 63
def PartRegs.dies (p : PartRegs) : Nat := fld p.w0 0 8
def State.partDies (s : State) (n : Nat) : List Nat := (List.range 8).filter fun d => ((s.part n).dies >>> d) % 2 = 1

/-- A partition has an instance that is queued, bound or pre-empted (R440). -/
def State.partBusy (s : State) (n : Nat) : Bool :=
  s.insts.any (fun i => i.part = n && !i.ended) || s.ginsts.any (fun g => g.part = n && !g.ended)

/-- Setting VALID with new register contents is allowed (R440). -/
@[irreducible] def State.partValidOk (s : State) (n : Nat) (w0 w1 w2 : W64) : Except RcbErr Bool :=
  let dies := fld w0 0 8
  let others := (List.range 8).filter fun m => m ≠ n && (s.part m).valid
  match s.rcb (fld w1 0 44) with
  | .error .edit => .error .edit
  | .error .damaged => .error .damaged
  | .error .malformed => .ok false
  | .ok w =>
    if dies = 0 ∨ 256 < fld w2 55 9 ∨ others.any (fun m => (s.part m).dies &&& dies ≠ 0 || fld (s.part m).w0 32 16 = fld w0 32 16) then
      .ok false
    else .ok (rcbKind w = 1 && (List.range 8).all fun d =>
        let cv := carveOf (fld (wd w 3) 0 32) d
        let cn := cantOf (wd w 4).toNat d
        if (dies >>> d) % 2 = 1 then decide (32 * cv + 2 * cn ≤ 448) else cv = 0 && cn = 0)

end Sys2Proof.Machine
end

