-- ==== Sys2Proof/Machine/Slots.lean ====
section
/-! DEFINITION. The slot table (20 R467, R468), the start of a gang (01 R31, R35, 20 R471), pre-emption (02 R77-R81, 20 R469), save and
restore of a context (20 R470, R472, 05 R166), kills, terminations and failed fault domains (19 R450). -/

namespace Sys2Proof.Machine

/-! ## Kills and terminations (R468, R450) -/

/-- The stores that a killed core has issued and not performed: in order, each is performed or lost. -/
def State.shedStores : Nat → State → Nat → State
  | 0, s, _ => s
  | n + 1, s, c =>
    let (b, s) := s.choose
    let t := if b then (match execStorePerformed c s with
      | .next t => t
      | _ => s) else s
    let t := if (t.core c).stores.length < (s.core c).stores.length then t else t.modCore c Core.storePop
    State.shedStores n t c

/-- The walkers of a core stop at once; its near-memory adds and bank commands run on (R76, R346). -/
def State.killCore (s : State) (c : Nat) : State :=
  let s := State.shedStores (s.core c).stores.length s c
  let s := (List.range (s.core c).nm.length).foldl (fun s _ => s.applyNm c 0) s
  let s := s.modCore c fun k => { k.unbind with loads := [], l1 := [], pubs := [], barPend := [], acqHold := [] }
  { s with excl := s.excl.filter fun e => e.2 ≠ c }

/-- The contexts that the save engine holds for a gang are dropped. -/
def State.dropSaved (s : State) (u : Nat) : State :=
  { s with saved := s.saved.filter (fun e => e.1 ≠ u), mem := s.mem.zero (savedPlace u 0 0) (2 ^ 26) }

/-- A gang is killed: its slots are FREE and nothing is saved (R468). -/
def State.killGang (s : State) (u : Nat) : State :=
  match s.gangs.find? fun g => g.uid = u with
  | none => s
  | some g =>
    let cs := g.cores.filter fun c => (s.core c).gangUid == some u
    let s := cs.foldl State.killCore s
    let s := g.cores.foldl (fun s c => s.setSlotW0 c fun w => setFld w 61 3 0) s
    ((s.dropCarve u).dropSaved u).modGang u fun g => { g with st := .done, cores := [], saves := [], carve := 0, motion := [], want := none, text := [] }

/-- An instance is terminated: its gangs are killed, and it ends with END and ERR (R456). -/
def State.terminate (s : State) (i fin err : Nat) : State :=
  match s.inst i with
  | none => s
  | some x =>
    if x.ending.isSome then s
    else
      let s := ((s.gangs.filter fun g => g.inst = i && g.st != .done).map Gang.uid).foldl State.killGang s
      s.modInst i fun x => { x with ending := some (BitVec.ofNat 8 fin, BitVec.ofNat 8 err) }

/-- A fault domain fails (R450, R472): the instance whose context was lost ends with END 3, every other of the domain with END 2. -/
def State.failDomain (s : State) (d : Nat) (lost : Option Nat) : State :=
  let s := { s with fdstat := vset s.fdstat (d / 64) (vget s.fdstat (d / 64) 0 ||| (1 <<< (d % 64))) }
  let s := match lost with
    | some i => s.terminate i 3 0
    | none => s
  let s := ((s.insts.filter fun i => i.fdom = d && !i.ended).map Inst.id).foldl (fun s i => s.terminate i 2 0) s
  { s with ginsts := s.ginsts.map fun g => if g.fdom = d ∧ ¬ g.ended ∧ g.ending = none then { g with ending := some 2 } else g }

/-- Uncorrectable data in a block of a region: its domain fails, as far as it can be told (R513). -/
def State.failRegion (s : State) (region : Nat) : State :=
  match State.rawDomain 256 s region with
  | some d => s.failDomain d none
  | none => s

/-- The supervisor asks the keystone to register a ring of a region, or to enlarge one, to NSLOT slots of SLOTB bytes: refused beyond the
region's effective STASH (R445), none while a block is being edited (R447); damaged data in a block fail the region's domain (R513). How the request reaches the keystone is not given (log 83). -/
def State.ringAsk (s : State) (part va region slotb nslot : Nat) : Option (Bool × State) :=
  match s.chainOf part region with
  | .error .edit => none
  | .error .damaged => some (false, s.failRegion region)
  | .error .malformed => some (false, s)
  | .ok c =>
    if 2 ^ 20 * effective c 4 < s.ringBytes region part va + slotb * nslot then some (false, s)
    else
      let r : RingReg := { part := part, va := BitVec.ofNat 52 va, region := region, bytes := slotb * nslot }
      some (true, { s with rings := (s.rings.filter fun x => !(x.part = part && x.va.toNat = va)) ++ [r] })

/-! ## Pre-emption requests (R77-R80) -/

/-- The PLOOP whose body holds a walker (R77). -/
def WalkerSt.inPloop (x : WalkerSt) : Option Loop := x.loops.getLast?.filter Loop.pl
/-- The walker has a position: it runs, or is stopped or halted where it stands. -/
def WalkerSt.live (x : WalkerSt) : Bool := x.run != .ended && x.run != .idle
/-- A cut among those that a loop has still to reach, in order. -/
def insertCut (c : Nat) (l : List Nat) : List Nat := l.filter (decide <| · < c) ++ c :: l.filter (decide <| c < ·)
def WalkerSt.cutAt (x : WalkerSt) (o : W64) (c : Nat) : WalkerSt :=
  { x with loops := x.loops.map fun l => if l.opened = o then { l with cut := insertCut c l.cut } else l }
/-- The cuts of loop o with one more, kept in order: a walker that enters the loop later runs under each of them, after a save too (R77). -/
def Core.addCut (k : Core) (o : W64) (c : Nat) : Core :=
  { k with cut := (k.cut.filter fun e => e.1 ≠ o) ++ (insertCut c ((k.cut.filter fun e => e.1 = o).map Prod.snd)).map fun c => (o, c) }

/-- The deepest dynamic LOOP that three walkers all have open (R79). -/
def commonLoop : List Loop → List Loop → List Loop → Option Loop → Option Loop
  | a :: as, b :: bs, c :: cs, d => if a.opened = b.opened ∧ a.opened = c.opened then commonLoop as bs cs (some a) else d
  | _, _, _, d => d

def Core.walkers (k : Core) : List WalkerSt := [k.wA, k.wX, k.wS]
/-- A change of every walker that is still live. -/
def Core.modLive (k : Core) (f : WalkerSt → WalkerSt) : Core :=
  let g (x : WalkerSt) : WalkerSt := if x.live then f x else x
  { k with wA := g k.wA, wX := g k.wX, wS := g k.wS }

/-- The walker of a core inside a PLOOP whose walk count is lowest. -/
def lowestWalk (l : List WalkerSt) : Option WalkerSt :=
  l.foldl (fun b x => match b with
    | none => some x
    | some y => if walkLt x.walk y.walk then some x else some y) none

/-- The stopping places of the walkers of a core, fixed when the request arrives (R77-R80). A walker that is stopped or halted counts where
it stands, and goes on to its stopping place if it is resumed. -/
def Core.requestPreempt (k : Core) : Core :=
  let k := { k with preempt := true }
  let ins := k.walkers.filter fun x => x.live && x.inPloop.isSome
  match (lowestWalk ins).bind WalkerSt.inPloop with
  | some l =>
    let js := k.walkers.flatMap fun x => (x.loops.filter fun m => m.opened = l.opened && x.run != .ended).map Loop.j
    let c := Nat.min l.n (1 + js.foldl Nat.max 0)
    let f (x : WalkerSt) : WalkerSt := x.cutAt l.opened c
    let k := { k with wA := f k.wA, wX := f k.wX, wS := f k.wS }.addCut l.opened c
    k.modLive fun x =>
      { x with pre := if x.loops.any (fun m => m.opened = l.opened) || !walkLt l.opened x.walk then .cut else .now }
  | none =>
    match (if k.walkers.all WalkerSt.live then commonLoop k.wA.loops k.wX.loops k.wS.loops none else none) with
    | some l =>
      let js := k.walkers.flatMap fun x => (x.loops.filter fun m => m.opened = l.opened).map Loop.j
      let c := Nat.min l.n (1 + js.foldl Nat.max 0)
      k.modLive fun x => { x.cutAt l.opened c with pre := .cut }
    | none =>
      let a := k.wA.walk
      let k := if k.wA.live then { k with wA := { k.wA with pre := .now } } else k
      let f (x : WalkerSt) : WalkerSt := if x.live then { x with pre := if walkLt x.walk a then .upTo a else .now } else x
      { k with wX := f k.wX, wS := f k.wS }

/-- A gang goes to the head of the queue of its base level (R466). -/
def State.toHead (s : State) (u : Nat) (f : Gang → Gang) : State :=
  { s with seqNo := s.seqNo + 1, gangs := s.gangs.map fun g =>
      if g.uid = u then { f g with cores := [], readySeq := 0 } else { g with readySeq := g.readySeq + 1 } }

/-- A gang that is bound but has not started leaves its slots, and is what it was before the bind. -/
def State.unbindGang (s : State) (g : Gang) : State :=
  (g.cores.foldl (fun s c => s.setSlotW0 c fun w => setFld w 61 3 0) s).toHead g.uid fun g =>
    if g.nsave = 0 then { g with st := .ready, carveDie := none } else { g with st := .saved }

/-- A bound gang is asked to stop at its pre-emption points (R469); one that has not started yet leaves its slots. -/
def State.preemptGang (s : State) (u : Nat) : State :=
  match s.gangs.find? fun g => g.uid = u with
  | none => s
  | some g =>
    if g.st ≠ .bound then s
    else if g.cores.all fun c => s.slotState c = 1 then s.unbindGang g
    else if g.cores.any (fun c => s.slotState c ≠ 2) then s
    else
      let s := g.cores.foldl (fun s c =>
        (s.modCore c fun k => if k.done then k else k.requestPreempt).setSlotW0 c fun w => setFld w 61 3 5) s
      s.modGang u fun g => { g with st := .preempting, reqAt := s.time, overrun := false }

/-- A gang is pre-empted; a co-resident instance is pre-empted whole (R40). -/
def State.preempt (s : State) (u : Nat) : State :=
  match s.gangs.find? fun g => g.uid = u with
  | none => s
  | some g =>
    match s.inst g.inst with
    | some i => if i.whole then ((s.gangs.filter fun h => h.inst = g.inst).map Gang.uid).foldl State.preemptGang s else s.preemptGang u
    | none => s.preemptGang u

/-! ## Save and restore (R470, R472) -/

@[irreducible] def areaSize : Nat := 2432 * 1024

/-- A save area as the save engine reaches it. -/
def State.areaSnap (s : State) (part va : Nat) : Except (Option AccFail) (Snap × State) := s.ioReach part permW va areaSize

/-- n bytes at a place take undefined values; the marks of units written whole are cleared. -/
def State.fillFree (s : State) (l n : Nat) : State :=
  let m := s.mem.fill l n fun i => Config.undefByte (s.freeCtr + i)
  { s.recall l n with mem := m, freeCtr := s.freeCtr + n, ue := s.ue.filter fun u => !covers l n u }

/-- What the save engine writes in an area (R470): the header, the walker positions, and content of its own. -/
def State.writeArea (s : State) (sn : Snap) (va : Nat) (header : List W64) (k : Core) : State :=
  let s := (sn.pieces va areaSize).foldl (fun s p => s.fillFree p.1 p.2) s
  let pos := [k.wA.pc.setWidth 64, k.wX.pc.setWidth 64, k.wS.pc.setWidth 64, k.wA.walk, k.wX.walk, k.wS.walk]
  let s := s.wr (sn.place (va + 0x1000)) (pos.flatMap fun (w : W64) => toBytes 8 w.toNat)
  let s := s.wr (sn.place va) (List.replicate 4096 0)
  s.wr (sn.place va) (header.flatMap fun (w : W64) => toBytes 8 w.toNat)

/-- The scratchpad bytes of a core go to the context held for a rank of a gang, with their marks. -/
def State.keepSpad (s : State) (c u r : Nat) : State :=
  let a := spadPlace c 0
  let b := savedPlace u r 0
  { s with mem := s.mem.blit a b spadSize,
           ue := (s.ue.filter fun m => decide (a ≤ m * 8) && decide (m * 8 < a + spadSize)).foldl (fun l m => setAdd l (m - a / 8 + b / 8))
             (s.ue.filter fun m => !(decide (b ≤ m * 8) && decide (m * 8 < b + spadSize))) }
def State.restoreSpad (s : State) (c u r : Nat) : State :=
  let a := spadPlace c 0
  let b := savedPlace u r 0
  { s with mem := s.mem.blit b a spadSize,
           ue := (s.ue.filter fun m => decide (b ≤ m * 8) && decide (m * 8 < b + spadSize)).foldl (fun l m => setAdd l (m - b / 8 + a / 8))
             (s.ue.filter fun m => !(decide (a ≤ m * 8) && decide (m * 8 < a + spadSize))) }
/-- A scratchpad of zeros (R35). -/
def State.clearSpad (s : State) (c : Nat) : State :=
  let a := spadPlace c 0
  { s with mem := s.mem.zero a spadSize, ue := s.ue.filter fun m => !(decide (a ≤ m * 8) && decide (m * 8 < a + spadSize)) }

/-- The part of a core that its context holds (R81): not its bank queue, its collectives or its L1. -/
def Core.context (k : Core) : Core :=
  { k with bankQ := [], colls := .replicate 8 none, l1 := [], preempt := false,
           wA := { k.wA with pre := .no }, wX := { k.wX with pre := .no }, wS := { k.wS with pre := .no },
           chans := k.chans.map fun (ch : Chan) => if ch.state = .active then { ch with written := [], underway := [] } else ch }

/-- What stays on a core when its gang, whose rank it was, has left it; CYCLE counts on (R252). -/
def Core.leftOver (k : Core) (u rank : Nat) : Core :=
  let k := k.unbindSaved u rank
  { Core.reset with id := k.id, part := k.part, bankQ := k.bankQ, bkseq := k.bkseq, colls := k.colls, lost := k.lost }

/-- A core has reached its pre-emption point and the conditions of R166 hold; a core that has completed END is ready (R469). R166 does not
say whether an RPUB whose release still waits is saved with the context: here it holds the save (log 78). -/
def Core.saveReady (k : Core) : Bool :=
  k.done ||
  ((k.walkers.all fun x => x.run == .held || x.run == .stopped || x.run == .halted || x.run == .ended)
    && k.walkers.any (fun x => x.run != .ended)
    && k.loads.isEmpty && k.stores.isEmpty && k.nm.isEmpty && k.pubs.isEmpty && k.lateRows.isNone
    && k.mat.queue.isEmpty && k.mat.compute.isEmpty && k.mat.preload.isNone)

/-- Saves made into an area for an instance (R470). -/
def Inst.savesInto (i : Inst) (va : VA) : Nat :=
  match i.areas.find? fun e => e.1 = va with
  | some e => e.2
  | none => 0
/-- The same for a gang; one that firmware bound by hand for no instance counts its own. -/
def State.savesInto (s : State) (g : Gang) (va : VA) : Nat :=
  match s.inst g.inst with
  | some i => i.savesInto va
  | none => g.nsave
def Inst.addSave (i : Inst) (va : VA) : Inst :=
  { i with areas := (i.areas.filter fun e => e.1 ≠ va) ++ [(va, i.savesInto va + 1)] }

/-- The header of a save area (R470). -/
def State.areaHeader (s : State) (g : Gang) (rank : Nat) (serial : W32) : List W64 :=
  [BitVec.ofNat 64 (1 <<< 63 ||| 1 <<< 48 ||| rank <<< 32 ||| serial.toNat), BitVec.ofNat 64 g.idx, s.time,
    BitVec.ofNat 64 (s.savesInto g (nth g.saves rank 0) + 1)]

/-- The save of rank r on core c, into an area that has been reached. -/
def State.saveRank (s : State) (g : Gang) (sn : Snap) (serial : W32) (c r : Nat) : State :=
  let k := s.core c
  let s := (s.writeArea sn (nth g.saves r 0).toNat (s.areaHeader g r serial) k).keepSpad c g.uid r
  let s := { s with saved := s.saved ++ [(g.uid, r, k.context)], excl := s.excl.filter fun e => e.2 ≠ c }
  let s := s.modInst g.inst fun i => i.addSave (nth g.saves r 0)
  (s.setCore c (k.leftOver g.uid r)).setSlotW0 c fun w => setFld w 61 3 0

/-- One more rank, r on core c; or why its area cannot be written, none where the access is held. -/
def State.saveStep (g : Gang) (part : Nat) (serial : W32) (s : State) (c r : Nat) : Except (Option AccFail) State :=
  match s.areaSnap part (nth g.saves r 0).toNat with
  | .error e => .error e
  | .ok (sn, s) => .ok (s.saveRank g sn serial c r)
/-- The save of every rank from r on. -/
def State.saveRanks (g : Gang) (part : Nat) (serial : W32) : List Nat → Nat → State → Except (Option AccFail) State
  | [], _, s => .ok s
  | c :: cs, r, s =>
    match State.saveStep g part serial s c r with
    | .error e => .error e
    | .ok s => State.saveRanks g part serial cs (r + 1) s

/-- A save that failed leaves VALID at 0 in the area of a rank, and nothing certain in any other part of it (R472). -/
def State.spoilArea (s : State) (part va : Nat) : State :=
  match s.areaSnap part va with
  | .error _ => s
  | .ok (sn, s) =>
    let s := (sn.pieces va areaSize).foldl (fun s p => s.fillFree p.1 p.2) s
    s.wr64 (sn.place va) (s.rd64 (sn.place va) &&& ~~~((1 : W64) <<< 63))

/-- A saved gang returns to the head of the queue of its base level (R466). -/
def State.requeue (s : State) (u : Nat) : State := s.toHead u fun g => { g with st := .saved, nsave := g.nsave + 1 }

/-- SAVE_COMPLETE (R469, R472): the save of the gang on a core ends, well or with an uncorrectable write error in that core's area; an area
that cannot be reached fails it too, and one whose page is held is written later. -/
def execSaveComplete (core : Nat) (failed : Bool) (s : State) : Out :=
  if !coreOk core then .fault .noSuchUnit else
  match s.gangs.find? fun g => g.st == .preempting && g.cores.contains core with
  | none => .next s
  | some g =>
    if !(g.cores.all fun c => (s.core c).saveReady) then .next s
    else
      let part := (s.core core).part
      let serial := BitVec.ofNat 32 (fld (s.core core).id.inst 32 32)
      let fail (s : State) : State :=
        match s.inst g.inst with
        | some i => s.failDomain i.fdom (some i.id)
        | none => s.killGang g.uid
      if failed then
        match findIdxN (fun c => decide (c = core)) g.cores 0 with
        | some r => .next (fail (s.spoilArea part (nth g.saves r 0).toNat))
        | none => .next s
      else match State.saveRanks g part serial g.cores 0 s with
        | .error none => .next s
        | .error (some f) => .next (fail (s.ioMet part f))
        | .ok s => .next (s.requeue g.uid)

/-! ## The slot table (R467, R468) -/

/-- A firmware write that the slot's state does not allow is ignored and reported (R468, R512): the header names what the slot is bound to,
nothing where it is FREE (R504). -/
def State.slotRefused (s : State) (c : Nat) : State :=
  let r := s.slot c
  let free := fld r.w0 61 3 = 0
  s.postEventH 8 11 (s.headerOf 8 11 (if free then 0 else fld r.w6 0 3) (some c)
    (if free then 0 else eventWho (fld r.w1 32 32) (fld r.w2 32 15) (fld r.w0 28 4))) []

def slotMask0 : W64 := BitVec.ofNat 64 (7 <<< 61 ||| 1 <<< 60 ||| 0xFFFF <<< 32 ||| 0xFF <<< 24)
def slotMask2 : W64 := BitVec.ofNat 64 (0x7FFF <<< 32 ||| 0xFFFF)
def mask52 : W64 := BitVec.ofNat 64 (2 ^ 52 - 1)

/-- The fields of a slot's words that a write sets (R467); DONE stays as it is. -/
def SlotRegs.keep (old r : SlotRegs) : SlotRegs :=
  ⟨(r.w0 &&& slotMask0) ||| (old.w0 &&& (1 <<< 59)), r.w1, r.w2 &&& slotMask2, r.w3 &&& mask52, r.w4 &&& mask52, r.w5 &&& mask52, r.w6 &&& 7⟩

/-- A bind record written to a FREE slot. -/
def State.slotBind (s : State) (c : Nat) (r : SlotRegs) : State :=
  if s.slotState c ≠ 0 ∨ fld r.w0 61 3 ≠ 1 then s.slotRefused c else { s with slots := vset s.slots c ((s.slot c).keep r) }

/-- SLOT_BIND. -/
def execSlotBind (core : Nat) (w0 w1 w2 w3 w4 w5 w6 : W64) (s : State) : Out :=
  if !coreOk core then .fault .noSuchUnit else .next (s.slotBind core ⟨w0, w1, w2, w3, w4, w5, w6⟩)

def State.slotFree (s : State) (c : Nat) : State :=
  if s.slotState c = 1 then s.setSlotW0 c fun w => setFld w 61 3 0 else s.slotRefused c
/-- SLOT_FREE. -/
def execSlotFree (core : Nat) (s : State) : Out := if !coreOk core then .fault .noSuchUnit else .next (s.slotFree core)

def State.slotPreempt (s : State) (c : Nat) : State :=
  match s.slotState c, (s.core c).gangUid with
  | 2, some u => s.preemptGang u
  | _, _ => s.slotRefused c
/-- SLOT_PREEMPT: any slot of a running gang stops the whole gang. -/
def execSlotPreempt (core : Nat) (s : State) : Out := if !coreOk core then .fault .noSuchUnit else .next (s.slotPreempt core)

/-- A gang is killed whole (R36); its instance can then end only as terminated by the supervisor. -/
def State.slotKill (s : State) (c : Nat) : State :=
  match s.slotState c, (s.core c).gangUid with
  | 2, some u | 5, some u =>
    let i := match s.gangs.find? fun g => g.uid = u with
      | some g => g.inst
      | none => 0
    (s.killGang u).modInst i fun x => if x.ending.isNone then { x with ending := some (4, 0) } else x
  | _, _ => s.slotRefused c
/-- SLOT_KILL. -/
def execSlotKill (core : Nat) (s : State) : Out := if !coreOk core then .fault .noSuchUnit else .next (s.slotKill core)

/-- A write to W0 of a slot: a STATE that the table does not allow, the one that it holds among them, refuses the write (R468); with one that
it allows the other fields are set, and STATE takes effect. -/
def State.slotWrite0 (s : State) (c : Nat) (data : W64) : State :=
  let st := s.slotState c
  let want := fld data 61 3
  let r := s.slot c
  let t := { s with slots := vset s.slots c (r.keep { r with w0 := setFld data 61 3 st }) }
  if st = 0 ∧ want = 1 then t.slotBind c { r with w0 := data }
  else if st = 1 ∧ want = 0 then t.slotFree c
  else if st = 2 ∧ want = 3 then t.slotPreempt c
  else if (st = 2 ∨ st = 5) ∧ want = 4 then t.slotKill c
  else s.slotRefused c

/-! ## The start of a gang (R468, R471, R31, R35) -/

/-- The slots of a cluster that hold BIND with the GTAG and INST of core c; in rank order when they make a gang (R468). -/
def State.slotGroup (s : State) (c : Nat) : Option (List Nat) :=
  let r := s.slot c
  let same := ((List.range 12).map fun i => c / 12 * 12 + i).filter fun d =>
    s.slotState d = 1 && fld (s.slot d).w0 32 16 = fld r.w0 32 16 && (s.slot d).w1 = r.w1
  let n := fld r.w0 24 4
  let rank (d : Nat) : Nat := fld (s.slot d).w0 28 4
  if s.slotState c ≠ 1 ∨ n = 0 ∨ same.length ≠ n
      ∨ same.any (fun d => fld (s.slot d).w0 24 4 ≠ n || (s.slot d).w6 ≠ r.w6) then none
  else (List.range n).mapM fun i => same.find? fun d => rank d = i

/-- The keystone's copy of a launch record is named by its instance. -/
def lrecAddr (i : Nat) : Nat := i * 128 % 2 ^ 52

/-- The gang that a group of slots belongs to: the keystone's own, which it bound on these cores, or one that firmware has bound by hand. -/
def State.groupGang (s : State) (c : Nat) (cs : List Nat) : Gang × State :=
  match s.gangs.find? fun g => g.st == .bound && g.cores == cs && g.uid % 2 ^ 16 = fld (s.slot c).w0 32 16
      && cs.all fun d => (s.core d).gangUid.isNone with
  | some g => (g, s)
  | none =>
    let i := match s.insts.find? fun i => lrecAddr i.id = fld (s.slot c).w5 0 52 with
      | some i => i.id
      | none => 0
    let g : Gang := { uid := s.gangNext, inst := i, idx := fld (s.slot c).w2 32 15, st := .bound, cores := cs,
                      saves := cs.map (fun d => BitVec.ofNat 52 (fld (s.slot d).w3 0 52)), nsave := 0, arr := cs.map fun _ => 0,
                      endedRanks := [], carve := 0, motion := [], carveDie := some (c / 60), path := [], kib := none, readySeq := 0, boundSeq := 0, level := 0,
                      overrun := false, reqAt := 0, want := none, text := [] }
    (g, { s with gangs := s.gangs ++ [g], gangNext := s.gangNext + 1 })

/-- Outcome of the checks of R471. -/
inductive BindCheck where
  | ok | wait
  /-- the bind is refused with code 8; the place of a damaged entry that a walk met -/
  | refuse (met : Option Nat)
  /-- the restore meets uncorrectable data (R513) -/
  | lost
  /-- the keystone read uncorrectable data in a block (R513) -/
  | failed
  deriving DecidableEq, Repr

/-- A page of a range is not resident and pinned (R471, R476): the place of the damaged entry that its walk met, if that is why. -/
def State.unpinned (s : State) (part va n : Nat) : Option (Option Nat) :=
  (pageStarts va n).findSome? fun a =>
    match (s.walkPages part 8 a).1 with
    | .leaf e _ => if e.getLsbD 54 then none else some none
    | .fail f => some f.ue
    | .hold => some none

/-- The header of a saved context is the one expected (R471), with no reserved bit (R11). -/
def State.headerOk (s : State) (g : Gang) (sn : Snap) (va rank : Nat) (i : Inst) : Bool :=
  let w (i : Nat) : W64 := BitVec.ofNat 64 (ofBytes (s.rdV sn (va + 8 * i) 8))
  fld (w 0) 56 7 = 0 && fld (w 0) 36 12 = 0 && fld (w 1) 15 49 = 0 && (List.range 4).all (fun i => w (4 + i) = 0)
  && (w 0).getLsbD 63 && fld (w 0) 32 4 = rank && fld (w 0) 0 32 = i.serial.toNat && fld (w 1) 0 15 = g.idx
  && (w 3).toNat = i.savesInto (BitVec.ofNat 52 va)

/-- SLOTKIB of a gang's pool: what its binding's snapshot found, or, for a group that firmware bound by hand, what the blocks hold now. -/
def State.slotKib (s : State) (g : Gang) (i : Inst) : Except BindCheck Nat :=
  match g.kib with
  | some n => .ok n
  | none =>
    match s.chainOf i.part i.region with
    | .error .damaged => .error .failed
    | .error _ => .error .wait
    | .ok ch =>
      match s.pool (effective ch 7) with
      | .error .edit => .error .wait
      | .error .damaged => .error .failed
      | .error .malformed => .error (.refuse none)
      | .ok p => .ok p.kib

/-- The check of one save slot of an instance's gang (R471). -/
def State.slotCheck (s : State) (g : Gang) (i : Inst) (resume : Bool) (kib rank : Nat) : BindCheck :=
  let r := s.slot (nth g.cores rank 0)
  let part := fld r.w6 0 3
  let va := fld r.w3 0 52
  match s.unpinned part va (1024 * kib) with
  | some m => .refuse m
  | none =>
    if !resume then .ok
    else match s.ioReach part permRW va areaSize with
      | .error none => .wait
      | .error (some f) => .refuse f.ue
      | .ok (sn, s) =>
        if (sn.pieces va areaSize).any fun q => s.marked q.1 q.2 then .lost
        else if s.headerOk g sn va rank i then .ok else .refuse none

/-- The checks of R471 for the slots of a gang, in rank order. -/
def State.slotChecks (s : State) (g : Gang) (resume : Bool) : BindCheck :=
  match s.inst g.inst with
  | none => .ok
  | some i =>
    match s.slotKib g i with
    | .error b => b
    | .ok kib => (List.range g.cores.length).foldl (fun b r => if b ≠ .ok then b else s.slotCheck g i resume kib r) .ok

/-- Identifier registers of a core at its binding (R31). -/
def State.idsOf (s : State) (c : Nat) : IdRegs :=
  let r := s.slot c
  { core := BitVec.ofNat 64 (fld r.w0 28 4), gang := BitVec.ofNat 64 (fld r.w2 32 15), ngang := BitVec.ofNat 64 (fld r.w2 0 16),
    gsize := BitVec.ofNat 64 (fld r.w0 24 4), cluster := BitVec.ofNat 64 (c / 12 % 5), die := BitVec.ofNat 64 (c / 60),
    dev := s.idDev.setWidth 64, inst := BitVec.ofNat 64 (fld r.w1 32 32 <<< 32 ||| fld r.w1 0 4) }

/-- The budget register that an image gives for wbN (R457). -/
def imageWb (img : Nat → W64) (n : Nat) : W32 := BitVec.ofNat 32 (fld (img (5 + (n - 1) / 2)) (32 * ((n - 1) % 2)) 32)
/-- The entry bundle of an image at an address. -/
def imageEntry (va : Nat) (img : Nat → W64) : VA := BitVec.ofNat 52 (va + fld (img 1) 0 32 + fld (img 2) 32 32)

/-- A walker at entry (R35). -/
def entryWalker (pc : VA) (lrec img : Nat → W64) : WalkerSt :=
  { WalkerSt.reset with
      run := .running, pc := pc,
      k := vecOf 16 fun i => if 1 ≤ i ∧ i ≤ 8 then lrec (7 + i) else 0,
      wb := vecOf 16 fun i => if i = 0 then 0 else imageWb img i }

/-- The entry state of a core (R35); what runs on from an earlier gang stays, and CYCLE counts on (R252). -/
def Core.enter (k : Core) (pc : VA) (lrec img : Nat → W64) (table : List W64) : Core :=
  let w := entryWalker pc lrec img
  { Core.reset with bankQ := k.bankQ, colls := k.colls, lost := k.lost, wA := w, wX := w, wS := w, srkey := lrec 3, tileTable := table }

/-- n words at a virtual address of a partition; where they cannot be read their values are free. -/
def State.imageWords (s : State) (part va n : Nat) : List W64 × State :=
  let (b, s) := match s.ioReach part permR va (8 * n) with
    | .ok (sn, s) => s.readBytes sn va (8 * n)
    | .error e => State.freeBytes (match e with
      | some f => s.ioMet part f
      | none => s) (8 * n)
  ((List.range n).map fun i => BitVec.ofNat 64 (ofBytes ((b.drop (8 * i)).take 8)), s)

/-- A walker stopped at its save takes its position from the save area, where the supervisor may have written it (R470, R508). -/
def State.walkerFrom (s : State) (sn : Snap) (va i : Nat) (x : WalkerSt) : WalkerSt :=
  let w (j : Nat) : Nat := ofBytes (s.rdV sn (va + 0x1000 + 8 * j) 8)
  let x := if x.run = .held then { x with run := .running } else x
  if x.run = .stopped then { x with pc := BitVec.ofNat 52 (w i), walk := BitVec.ofNat 64 (w (3 + i)) } else x

/-- One core of a starting gang: identifiers, then the entry state, or the saved context (R31, R35, R81). The header of the image is the one
read at acceptance; the budget table and the tile table are read now (R457). -/
def State.startCore (s : State) (g : Gang) (resume : Bool) (rank c : Nat) : State :=
  let r := s.slot c
  let part := fld r.w6 0 3
  let ids := s.idsOf c
  let put (k : Core) (s : State) : State :=
    (s.setCore c { k with id := ids, part := part, gangUid := some g.uid }).setSlotW0 c fun w =>
      setFld (setFld w 61 3 2) 59 1 (b2n k.done)
  if resume then
    match s.saved.find? fun e => e.1 = g.uid && e.2.1 = rank with
    | none => s
    | some e =>
      let k := e.2.2
      let va := fld r.w3 0 52
      let own (k : Core) (s : State) : Core :=
        { k with bankQ := (s.core c).bankQ, colls := (s.core c).colls, lost := (s.core c).lost }
      let (k, s) := match s.ioReach part permRW va areaSize with
        | .error e => (own k s, match e with
          | some f => s.ioMet part f
          | none => s)
        | .ok (sn, s) =>
          let s := s.settled (sn.pieces va areaSize)
          let f (i : Nat) (x : WalkerSt) : WalkerSt := s.walkerFrom sn va i x
          (own { k with wA := f 0 k.wA, wX := f 1 k.wX, wS := f 2 k.wS } s,
           s.wr64 (sn.place va) (s.rd64 (sn.place va) &&& ~~~((1 : W64) <<< 63)))
      let s := put k (s.restoreSpad c g.uid rank)
      let s := (List.range 16).foldl (fun s i => if (vget k.chans i .reset).state = .active then s.chanMeets c i else s) s
      [k.wA, k.wX, k.wS].foldl (fun s x => match x.run, x.stop with
        | .stopped, some rec' => s.postEvent part 1 (some c) rec'.toList
        | _, _ => s) s
  else
    let va := fld r.w4 0 52
    let i := s.inst g.inst
    let (now, s) := s.imageWords part va 16
    let img := match i with
      | some i => (i.image.toList.take 5) ++ (now.drop 5)
      | none => now
    let (lrec, s) := match i with
      | some i => (i.lrec.toList, s)
      | none =>
        let (b, s) := s.freeBytes 128
        ((List.range 16).map fun i => BitVec.ofNat 64 (ofBytes ((b.drop (8 * i)).take 8)), s)
    let (table, s) := s.imageWords part (va + fld (wd img 2) 0 32) (fld (wd img 0) 32 9)
    put ((s.core c).enter (imageEntry va (wd img)) (wd lrec) (wd img) table) (s.clearSpad c)

/-- The keystone refuses a bind (R471). -/
def State.refuseBind (s : State) (g : Gang) : State := s.terminate g.inst 1 8

/-- GANG_START: every slot of a gang holds BIND (R468). -/
def execGangStart (core : Nat) (s : State) : Out :=
  if !coreOk core then .fault .noSuchUnit else
  match s.slotGroup core with
  | none => .next s
  | some cs =>
    let resume := (s.slot core).w0.getLsbD 60
    let s0 := s
    let (g, s) := s.groupGang core cs
    if resume && !(List.range cs.length).all fun r => s.saved.any fun e => e.1 = g.uid && e.2.1 = r then
      .next (if (s.inst g.inst).isSome then s.refuseBind g else s)
    else match s.slotChecks g resume with
      | .wait => .next s0
      | .refuse m => .next (State.refuseBind (match m with
        | some l => s.postEvent (fld (s.slot core).w6 0 3) 4 none [ueEvent 2 l]
        | none => s) g)
      | .lost => .next (match s.inst g.inst with
        | some i => s.failDomain i.fdom (some i.id)
        | none => s)
      | .failed => .next (match s.inst g.inst with
        | some i => s.failDomain i.fdom none
        | none => s)
      | .ok =>
        let s := (List.range cs.length).foldl (fun s r => s.startCore g resume r (nth cs r 0)) s
        let s := s.modGang g.uid fun g => { g with text := s.mem }
        .next (if resume then s.dropSaved g.uid else s)

end Sys2Proof.Machine
end

