-- ==== Sys2Proof/Machine/Moving.lean ====
section
/-! DEFINITION. Translation contexts and shootdowns (21 R473, R484-R486), hint records (R489, R490), moving pages and the lines of
cantilever pages (R493-R501), the partition registers (19 R439-R441) and hot-page migration (23 R525-R527). -/

namespace Sys2Proof.Machine

/-! ## Translation contexts (R473) -/

def State.xlOf (s : State) (n : Nat) : XlRegs := vget s.xl n .none0
def State.setXl (s : State) (n : Nat) (x : XlRegs) : State := { s with xl := vset s.xl n x }
/-- The bits [hi : lo] of a word. -/
def maskBits (hi lo : Nat) : W64 := BitVec.ofNat 64 ((2 ^ (hi - lo + 1) - 1) <<< lo)

/-- A write to a register of translation context n; ROOT in force changes only with a shootdown. -/
def State.xlWrite (s : State) (n w : Nat) (data : W64) : State :=
  let x := s.xlOf n
  match w with
  | 0 => s.setXl n { x with w0 := data &&& (maskBits 63 63 ||| maskBits 43 16) }
  | 1 => s.setXl n { x with w1 := data &&& (maskBits 63 52 ||| maskBits 43 5) }
  | 2 => s.setXl n { x with w2 := data &&& maskBits 43 3 }
  | 3 => s.setXl n { x with w3 := data &&& maskBits 31 0 }
  | _ => s

/-- XL_WRITE. -/
def execXlWrite (n w : Nat) (data : W64) (s : State) : Out :=
  if 8 ≤ n ∨ 4 ≤ w then .fault .noSuchUnit else .next (s.xlWrite n w data)

/-! ## Shootdown (R484-R486) -/

/-- End of translated space (R108). -/
def spaceEnd : Nat := 0xE * 2 ^ 48

/-- A shootdown of [lo, hi) of a partition starts; one of the whole space takes the ROOT that is written now (R473). -/
def State.startShoot (s : State) (part lo hi : Nat) : State :=
  let root := if lo = 0 ∧ spaceEnd ≤ hi then some (BitVec.ofNat 28 (fld (s.xlOf part).w0 16 28)) else none
  { s with shoot := some { part, lo, hi, root } }

/-- A write to SHOOT.W0; a GO while BUSY is 1 is ignored and sets ERR, and the fields are set as by any write (R10, R484). -/
def State.shootWrite (s : State) (w0 : W64) : State :=
  let late := w0.getLsbD 63 && s.shoot.isSome
  let err := late || (s.shootW0.getLsbD 58 && !w0.getLsbD 58)
  let kept : W64 := w0 &&& (maskBits 61 59 ||| maskBits 51 16)
  let s := { s with shootW0 := if err then kept ||| (1 <<< 58) else kept }
  if late || !w0.getLsbD 63 then s
  else
    let npg := fld s.shootW1 0 36
    let va := fld w0 16 36 * 65536
    if npg = 0 then s.startShoot (fld w0 59 3) 0 spaceEnd else s.startShoot (fld w0 59 3) va (va + npg * 65536)

/-- A shootdown of the keystone's own, for a page: it writes W1 and then W0 with GO = 1 (R484). -/
def State.shootPage (s : State) (part va span : Nat) : State :=
  { s with shootW1 := BitVec.ofNat 64 (span / 65536) }.shootWrite
    (BitVec.ofNat 64 (1 <<< 63 ||| part <<< 59 ||| va))

/-- SHOOTDOWN_START: W0 is written with GO. -/
def execShootdownStart (w0 : W64) (s : State) : Out := .next (s.shootWrite (w0 ||| (1 <<< 63)))

def ShootSt.hits (h : ShootSt) (lo hi : Nat) : Bool := decide (lo < h.hi) && decide (h.lo < hi)

/-- A shootdown drops an entry: every table entry of the partition, and each leaf that translates a page of the range. -/
def ShootSt.drops (h : ShootSt) (t : TlbEnt) : Bool :=
  t.part == h.part && match t.unit with
    | .walkCache _ => true
    | _ => h.hits t.vbase (t.vbase + lvSpan t.level)
/-- What the leaves translate that a shootdown drops: its range, and the whole span of each such leaf. -/
def State.shootSpans (s : State) (h : ShootSt) : List (Nat × Nat) :=
  (h.lo, h.hi) :: (s.tlb.filter fun t => h.drops t && t.pte.getLsbD 62).map fun t => (t.vbase, t.vbase + lvSpan t.level)
def spanHit (l : List (Nat × Nat)) (lo hi : Nat) : Bool := l.any fun p => decide (lo < p.2) && decide (p.1 < hi)
def Snap.hitBy (sn : Snap) (l : List (Nat × Nat)) : Bool := sn.any fun e => spanHit l (e.1 * 65536) (e.1 * 65536 + 65536)

/-- An access translated through a leaf that the shootdown drops is still to be performed (R485). -/
def State.shootWaits (s : State) (h : ShootSt) : Bool :=
  let l := s.shootSpans h
  (s.cores.toList.any fun k =>
    (k.part == h.part && (k.loads.any (fun x => x.snap.hitBy l) || k.stores.any (fun t => t.snap.hitBy l)
      || k.nm.any fun n => spanHit l n.va.toNat (n.va.toNat + 4)))
    || k.colls.toList.any fun c => match c with
        | some x => x.part == h.part && x.snap.hitBy l
        | none => false)
  || match s.abut with
    | some a => a.part == h.part && a.snap.hitBy l
    | none => false

/-- The version of a graph that an instance runs. -/
def State.gver (s : State) (g : GraphInst) : Option GraphVer := s.graphs.find? fun v => v.uid = g.ver
/-- A walker's registration through a leaf that is dropped ends: its AWAIT or CWAIT walks, reads and registers anew (log 97). -/
def WalkerSt.unregister (x : WalkerSt) (l : List (Nat × Nat)) : WalkerSt :=
  match x.await with
  | some r => if spanHit l r.va.toNat (r.va.toNat + r.size) then { x with await := none } else x
  | none => x
/-- The same of the collective-completion nodes of a graph instance. -/
def State.unregisterNodes (s : State) (l : List (Nat × Nat)) (g : GraphInst) : GraphInst :=
  { g with regs := g.regs.filter fun r => match (s.gver g).bind fun v => v.nodes[r.1]? with
      | some w => !spanHit l w[1].toNat (w[1].toNat + 8)
      | none => true }
/-- The registrations of a partition through leaves that a shootdown drops end (R485, R495). -/
def State.unregister (s : State) (part : Nat) (l : List (Nat × Nat)) : State :=
  { s with
    cores := s.cores.map fun k =>
      if k.part = part then { k with wA := k.wA.unregister l, wX := k.wX.unregister l, wS := k.wS.unregister l } else k,
    ginsts := s.ginsts.map fun g => if g.part = part then s.unregisterNodes l g else g }

/-- SHOOTDOWN_COMPLETE (R485): entries of the range and every table entry of the partition are dropped. -/
def execShootdownComplete (s : State) : Out :=
  match s.shoot with
  | none => .next s
  | some h =>
    if s.shootWaits h then .next s
    else
      let s := { s.unregister h.part (s.shootSpans h) with tlb := s.tlb.filter (fun t => !h.drops t), shoot := none }
      .next (match h.root with
        | some r => s.setXl h.part { s.xlOf h.part with root := r }
        | none => s)

/-! ## Leaves -/

/-- A leaf entry in memory: its address, its level and the entry. -/
structure Leaf where
  at' : Nat
  level : Nat
  pte : W64
  deriving DecidableEq, Repr

/-- The leaf that maps an address, as the tables in memory stand, or the level at which there is none. -/
def State.leafGo : List Nat → State → Nat → Nat → Nat → Except Nat Leaf
  | [], _, _, _, _ => .error 3
  | lv :: r, s, part, va, t =>
    let a := t + 8 * tblIndex lv va
    let e := s.rd64 a
    if !e.getLsbD 63 || s.malformed part lv e || s.marked a 8 then .error lv
    else if e.getLsbD 62 then .ok ⟨a, lv, e⟩
    else State.leafGo r s part va (fld e 8 36 * 256)

def State.leafAt (s : State) (part va : Nat) : Except Nat Leaf :=
  if !(s.xlOf part).w0.getLsbD 63 ∨ spaceEnd ≤ va then .error 0
  else s.leafGo [0, 1, 2, 3] part va ((s.xlOf part).root.toNat * 65536)

def Leaf.cant (l : Leaf) : Bool := l.pte.getLsbD 56
def Leaf.late (l : Leaf) : Bool := l.pte.getLsbD 55
def Leaf.pin (l : Leaf) : Bool := l.pte.getLsbD 54
def Leaf.repl (l : Leaf) : Bool := l.pte.getLsbD 52
def Leaf.bn (l : Leaf) : Bool := l.pte.getLsbD 57
def Leaf.frame (l : Leaf) : Nat := fld l.pte 16 28 * 65536
def Leaf.hdie (l : Leaf) : Nat := fld l.pte 44 3

/-! ## Hint records (R489, R490) -/

structure Hint where
  home : Nat
  keep : Nat
  lo : Nat
  hi : Nat
  deriving DecidableEq, Repr

/-- The records of a hint table from record i on, above `last`: the well-formed ones in use, and how many are malformed. A record with V = 0
is not in use and counts as neither, whatever its reserved bits hold: R489 and R11 do not say so (log 86). -/
def State.hintsGo : Nat → State → Nat → Nat → Nat → Nat → List Hint × Nat
  | 0, _, _, _, _, _ => ([], 0)
  | n + 1, s, dies, base, i, last =>
    let w := s.words (base + 32 * i) 4
    let h : Hint := { home := fld (wd w 0) 56 4, keep := fld (wd w 1) 56 8, lo := fld (wd w 0) 16 36 * 65536,
                      hi := fld (wd w 0) 16 36 * 65536 + fld (wd w 1) 0 36 * 65536 }
    if !(wd w 0).getLsbD 63 then State.hintsGo n s dies base (i + 1) last
    else if fld (wd w 0) 60 2 ≠ 0 ∨ fld (wd w 0) 52 4 ≠ 0 ∨ fld (wd w 0) 0 16 ≠ 0 ∨ fld (wd w 1) 36 20 ≠ 0 ∨ wd w 2 ≠ 0 ∨ wd w 3 ≠ 0
        ∨ h.lo = h.hi ∨ (dies >>> (h.home / 2)) % 2 = 0 ∨ h.keep &&& dies ≠ h.keep ∨ h.lo < last then
      let r := State.hintsGo n s dies base (i + 1) last
      (r.1, r.2 + 1)
    else
      let r := State.hintsGo n s dies base (i + 1) h.hi
      (h :: r.1, r.2)

/-- The hint table of a partition. -/
def State.hints (s : State) (part : Nat) : List Hint × Nat :=
  let w := (s.xlOf part).w1
  State.hintsGo (fld w 52 12) s (s.part part).dies (fld w 5 39 * 32) 0 0

/-- The malformed records of the hint table that the keystone reads are reported (R489, R512). -/
def State.hintsMet (s : State) (part : Nat) : State := (List.range (s.hints part).2).foldl (fun s _ => s.postEvent part 11 none []) s
/-- The hint of a page; malformed records are reported. -/
def State.hintOf (s : State) (part va : Nat) : Option Hint × State :=
  ((s.hints part).1.find? fun e => decide (e.lo ≤ va) && decide (va < e.hi), s.hintsMet part)

/-! ## Frame pools (R500, R526) -/

/-- The lowest valid entry of a pool whose frame satisfies p: its index and frame; none as well when that entry is malformed. -/
def State.poolPick (s : State) (base cnt : Nat) (p : Nat → Bool) : Option (Nat × Nat) :=
  ((List.range cnt).find? fun i =>
    let e := s.rd64 (base + 8 * i)
    e.getLsbD 63 && p (fld e 21 23 * 2 ^ 21)).bind fun i =>
      let e := s.rd64 (base + 8 * i)
      if fld e 44 19 ≠ 0 ∨ fld e 0 21 ≠ 0 then none else some (i, fld e 21 23 * 2 ^ 21)

/-- The frame lies on a stack. -/
def onStack (st f : Nat) : Bool := isHbm f && stackOf f = st
/-- The frame lies on a stack beside a die. -/
def besideDie (d f : Nat) : Bool := isHbm f && stackOf f / 2 = d

/-- A frame of the late-frame pool for a die, under the page's hint; its entry is taken (R500). -/
def State.takeLate (s : State) (part die : Nat) (h : Option Hint) : Option (Nat × State) :=
  let x := s.xlOf part
  let base := fld x.w2 3 41 * 8
  (s.poolPick base (fld x.w3 0 32) fun f => besideDie die f && match h with
    | some h => onStack h.home f
    | none => true).map fun (i, f) => (f, s.wr64 (base + 8 * i) (s.rd64 (base + 8 * i) &&& ~~~((1 : W64) <<< 63)))

/-! ## Lines of cantilever pages (R496, R497) -/

/-- Every line of a page is dropped and freed. -/
def State.dropLines (s : State) (part page : Nat) : State :=
  let a := cantPlace part page
  { s with cant := s.cant.filter (fun e => !lineIn part page e.1), mem := s.mem.zero a (2 ^ 21),
           ue := s.ue.filter (fun u => !(decide (a ≤ u * 8) && decide (u * 8 < a + 2 ^ 21))),
           excl := s.excl.filter fun e => !lineIn part page e.1 }

/-- n bytes, with their marks, are copied from one place to another through the home slices (R494, R515). -/
def State.copyPlace (s : State) (src dst n : Nat) : State :=
  if src = dst then s else
  let s := (s.recall src n).recall dst n
  { s with mem := s.mem.blit src dst n,
           ue := (s.ue.filter fun u => decide (src ≤ u * 8) && decide (u * 8 < src + n)).foldl
             (fun l u => setAdd l (u - src / 8 + dst / 8))
             (s.ue.filter fun u => !(decide (dst ≤ u * 8) && decide (u * 8 < dst + n))) }

/-! ## MIGR (R493-R501) -/

/-- MIGR.W0 with BUSY at 0 and a STATUS. -/
def State.migrStatus (s : State) (n : Nat) : State := { s with migrW0 := setFld (setFld s.migrW0 62 1 0) 56 6 n }

/-- A page move begins; hart 3 takes the unit for its own moves as well (R527). -/
def State.migrBegin (s : State) (m : MigrSt) : State := { s with migr := some m, migrW0 := setFld s.migrW0 62 1 1 }

/-- A cantilever-eviction fault (R499, R512). -/
def State.cantFault (s : State) (part cause die va : Nat) : State :=
  s.postEvent part 7 none [BitVec.ofNat 64 (cause <<< 60 ||| die <<< 56), BitVec.ofNat 64 va]

/-- The lines of a page leave die `die` for frames, under the page's policy; `held` answers a page that stays (R498-R500). -/
def State.evictPage (s : State) (part va cause : Nat) (die : Nat) (hart3 : Bool) (l : Leaf) (h : Option Hint) (held : State → State) : State :=
  if !l.late then held (s.cantFault part cause l.hdie va)
  else match s.takeLate part die h with
    | none => held (s.cantFault part 4 l.hdie va)
    | some (f, s) => s.migrBegin { part, va, op := 4, frame := f, tdie := die, pteAt := l.at', level := l.level, old := l.pte, hart3, started := false }

/-- The reservation of a die can take the lines of a page that lie on other dies (R501). -/
def State.dieHolds (s : State) (part page die : Nat) : Bool :=
  decide (s.cantUsed part die + (s.cant.countP fun e => lineIn part page e.1 && e.2 != die) ≤ s.cantCap part die)

/-- A write to MIGR.W0 with GO, BUSY being 0: the operation of W1 on the page of W0. -/
def State.migrRun (s : State) : State :=
  let part := fld s.migrW0 53 3
  let va := fld s.migrW0 16 36 * 65536
  let op := fld s.migrW1 60 4
  if op = 5 then (s.dropLines part (cantPage va)).migrStatus 0
  else if op = 0 ∨ 6 ≤ op then s.migrStatus 3
  else match s.leafAt part va with
    | .error _ => s.migrStatus 1
    | .ok l =>
      let va := va / lvSpan l.level * lvSpan l.level
      let tf := fld s.migrW2 16 28 * 65536
      let tdie := fld s.migrW1 56 3
      let go (op frame : Nat) : MigrSt :=
        { part, va, op := BitVec.ofNat 4 op, frame, tdie, pteAt := l.at', level := l.level, old := l.pte, hart3 := false, started := false }
      if l.pin ∨ (op = 1 ∧ (l.cant ∨ l.repl)) ∨ (op ≠ 1 ∧ !l.cant) then s.migrStatus 3
      else
        let (h, s) := s.hintOf part va
        let onHome := match h with
          | some h => onStack h.home tf
          | none => true
        match op with
        | 1 =>
          if tf % lvSpan l.level ≠ 0 ∨ ¬ isHbm tf ∨ (l.bn ∧ !bnFrame s.ext tf) then s.migrStatus 4
          else if !onHome then s.migrStatus 2
          else s.migrBegin (go 1 tf)
        | 2 =>
          let outside := !(s.partDies part).contains tdie || match h with
            | some h => (h.keep >>> tdie) % 2 = 0
            | none => false
          if outside then s.migrStatus 2
          else if s.migrW1.getLsbD 59 then
            if tdie = l.hdie ∨ s.dieHolds part va tdie then s.migrBegin (go 2 0) else s.migrStatus 6
          else s.evictPage part va 3 tdie false l h fun s => s.migrStatus 5
        | 3 => s.evictPage part va 2 l.hdie false l h fun s => s.migrStatus 5
        | _ =>
          if tf % 2 ^ 21 ≠ 0 ∨ ¬ besideDie l.hdie tf then s.migrStatus 4
          else if !onHome then s.migrStatus 2
          else s.migrBegin (go 4 tf)

/-- The page of a die that must let lines go next (R498): the highest with lines there that is mapped and not pinned (log 82). -/
def State.excessPage (s : State) (part die : Nat) : Option (Nat × Leaf) :=
  (((s.cant.filter fun e => e.2 = die && cantPart (e.1 * 128) = part).map fun e => cantPage (cantVa (e.1 * 128))).mergeSort
    fun a b => decide (b ≤ a)).findSome? fun p =>
      match s.leafAt part p with
      | .ok l => if l.cant && !l.pin then some (p, l) else none
      | .error _ => none

/-- The dies that a lowered reservation leaves with too many lines let pages go, highest first, until the lines fit; behind a page under
FAULT, which is reported once, eviction waits (R498, R499). -/
def State.evictExcess (s : State) : State :=
  s.excess.foldl (fun s (e : Nat × Nat × Option Nat) =>
    let set (f : Option (Nat × Nat × Option Nat)) (s : State) : State :=
      { s with excess := (s.excess.filter fun x => !(x.1 = e.1 && x.2.1 = e.2.1)) ++ f.toList }
    if s.cantUsed e.1 e.2.1 ≤ s.cantCap e.1 e.2.1 then set none s
    else if s.migr.isSome then s
    else match s.excessPage e.1 e.2.1 with
      | none => s
      | some (p, l) =>
        if e.2.2 = some p then s
        else
          let (h, s) := s.hintOf e.1 p
          s.evictPage e.1 p 1 e.2.1 true l h (set (some (e.1, e.2.1, some p)))) s

/-- A write to MIGR.W0: its fields are set (R10). A GO while BUSY is 1 is ignored (R493), but where hart 3 moves a page it waits for the move
to end (R527). -/
def State.migrWrite (s : State) (w0 : W64) : State :=
  let kept : W64 := w0 &&& (maskBits 55 53 ||| maskBits 51 16)
  let ro : W64 := s.migrW0 &&& maskBits 62 56
  let s := { s with migrW0 := kept ||| ro }
  if !w0.getLsbD 63 then s
  else if s.migr.isSome then { s with migrWait := s.migrWait || s.hart3Moves }
  else s.migrRun.evictExcess

/-- W0 is written with GO while W1 names an operation. -/
def State.migrOp (s : State) (op : Nat) (w0 : W64) : State :=
  if fld s.migrW1 60 4 = op then s.migrWrite (w0 ||| (1 <<< 63)) else s

/-- MIGR_MOVE_FRAME, OP 1. -/
def execMigrMoveFrame (w0 : W64) (s : State) : Out := .next (s.migrOp 1 w0)
/-- MIGR_MOVE_CANT, OP 2. -/
def execMigrMoveCant (w0 : W64) (s : State) : Out := .next (s.migrOp 2 w0)
/-- MIGR_EVICT_CANT, OP 3. -/
def execMigrEvictCant (w0 : W64) (s : State) : Out := .next (s.migrOp 3 w0)
/-- MIGR_BACK_CANT, OP 4. -/
def execMigrBackCant (w0 : W64) (s : State) : Out := .next (s.migrOp 4 w0)
/-- MIGR_DROP_CANT, OP 5. -/
def execMigrDropCant (w0 : W64) (s : State) : Out := .next (s.migrOp 5 w0)

/-- Where a place lies once n bytes have moved. -/
def movePlace (src dst n l : Nat) : Nat := if src ≤ l ∧ l < src + n then l - src + dst else l

/-- What the module remembers of the places of a page follows the page to its new frame: the ranges that landing records guard, with the
writes they have yet to judge (R370, R373), and the bytes of transfers and collectives that another agent has reached (R394, R537). The
frame left belongs to the supervisor (R494). -/
def State.movePlaces (s : State) (src dst n : Nat) : State :=
  let f := movePlace src dst n
  let g (l : List (Nat × Nat)) : List (Nat × Nat) := l.map fun p => (f p.1, p.2)
  { s with landOk := s.landOk.map fun (a : Armed) => { a with guard := g a.guard, busy := g a.busy },
           writeLog := s.writeLog.map g,
           xfers := s.xfers.map fun (x : Xfer) => { x with spoiled := x.spoiled.map f },
           cores := s.cores.map fun k =>
             { k with colls := k.colls.map fun (c : Option Coll) => c.map fun (x : Coll) => { x with raced := x.raced.map f } } }

/-- The copy of a move whose shootdown is complete, and its last write (R494, R500, R501). -/
def State.migrCopy (s : State) (m : MigrSt) : State :=
  let e := s.rd64 m.pteAt &&& ~~~((1 : W64) <<< 53)
  if m.op = 1 then
    let old := fld m.old 16 28 * 65536
    ((s.copyPlace old m.frame (lvSpan m.level)).movePlaces old m.frame (lvSpan m.level)).wr64 m.pteAt (setFld e 16 28 (m.frame / 65536))
  else if m.op = 2 then
    { s with cant := s.cant.map fun (c : Nat × Nat) => if lineIn m.part m.va c.1 then (c.1, m.tdie) else c }.wr64 m.pteAt (setFld e 44 3 m.tdie)
  else
    let e := setFld (setFld (setFld (setFld e 16 28 (m.frame / 65536)) 56 1 0) 55 1 0) 44 3 0
    let old := cantPlace m.part m.va
    (((s.copyPlace old m.frame (2 ^ 21)).movePlaces old m.frame (2 ^ 21)).wr64 m.pteAt e).dropLines m.part m.va

/-- The operation of a supervisor that waited for hart 3's move begins (R527). -/
def State.migrNext (s : State) : State := if s.migrWait then { s with migrWait := false }.migrRun else s

/-- A granule of the frame that OP 1 moves is pinned (R345, R494). -/
def State.migrPinned (s : State) (m : MigrSt) : Bool :=
  m.op = 1 && (List.range (lvSpan m.level / 65536)).any fun i => s.pins (fld m.old 16 28 + i) ≠ 0

/-- MIGR_COMPLETE: the page is marked and its shootdown started once its frame carries no pin; when the shootdown is complete the copy
is made and the held accesses go on. A bank command that was issued through the leaf before the shootdown dropped it pins the frame, and
the copy waits for it too (R345, R495). -/
def execMigrComplete (s : State) : Out :=
  match s.migr with
  | none => .next s
  | some m =>
    if s.shoot.isSome then .next s
    else if !m.started then
      if s.migrPinned m then .next s
      else
        if m.op = 2 && m.tdie != fld m.old 44 3 && !s.dieHolds m.part m.va m.tdie then .next ({ s with migr := none }.migrStatus 6).evictExcess else
        let s := s.wr64 m.pteAt (s.rd64 m.pteAt ||| (1 <<< 53))
        .next { s.shootPage m.part m.va (lvSpan m.level) with migr := some { m with started := true } }
    else if s.migrPinned m then .next s
    else
      let s := { s.migrCopy m with migr := none }
      let s := if m.hart3 then { s with migrW0 := setFld s.migrW0 62 1 0 } else s.migrStatus 0
      .next (s.pwrTake.migrNext.evictExcess)

/-! ## Partition registers (R439-R441) -/

def State.setPart (s : State) (n : Nat) (p : PartRegs) : State := { s with parts := vset s.parts n p }
/-- A write to PART.n is refused. -/
def State.partRefused (s : State) (n : Nat) : State := s.setPart n { s.part n with w0 := (s.part n).w0 ||| (1 <<< 62) }

/-- An accepted write of a valid partition withdraws the root's reservation as it now stands (R441, R498); a damaged root fails its domain
(R513). -/
def State.partLatch (s : State) (n : Nat) : Except RcbErr State :=
  let root := fld (s.part n).w1 0 44
  match s.rcb root with
  | .error .edit => .error .edit
  | .error .damaged => .ok (s.failRegion root)
  | .error .malformed => .ok s
  | .ok w =>
    let s := s.setPart n { s.part n with cant := wd w 4 }
    let late := (List.range 8).filter fun d => decide (s.cantCap n d < s.cantUsed n d + s.cantComing n d)
    .ok { s with excess := (s.excess.filter fun (e : Nat × Nat × Option Nat) => decide (e.1 ≠ n)) ++ late.map fun d => (n, d, none) }.evictExcess

/-- A write to PART.n.W0, W1 or W2; none while the check waits for an edit (R440). -/
def State.partWrite (s : State) (n w : Nat) (data : W64) : Option State :=
  let p := s.part n
  let err := p.w0.getLsbD 62 && !data.getLsbD 62
  let w0 : W64 := (data &&& (maskBits 63 63 ||| maskBits 47 32 ||| maskBits 7 0)) ||| (if err then 1 <<< 62 else 0)
  let q : PartRegs := match w with
    | 0 => { p with w0 := w0 }
    | 1 => { p with w1 := data &&& maskBits 43 0 }
    | 2 => { p with w2 := data &&& (maskBits 63 55 ||| maskBits 43 0) }
    | _ => p
  if 3 ≤ w then some s
  else if !p.valid && !q.valid then some (s.setPart n q)
  else if !p.valid then
    match s.partValidOk n q.w0 q.w1 q.w2 with
    | .error .edit => none
    | .error _ => some ((s.partRefused n).failRegion (fld q.w1 0 44))
    | .ok false => some (s.partRefused n)
    | .ok true => (match (s.setPart n q).partLatch n with
      | .error _ => none
      | .ok s => some s)
  else if q.dies ≠ p.dies ∨ fld q.w0 32 16 ≠ fld p.w0 32 16 ∨ q.w1 ≠ p.w1 ∨ 256 < fld q.w2 55 9 then some (s.partRefused n)
  else if !q.valid then
    if s.partBusy n then some (s.partRefused n) else some (s.setPart n { q with cant := 0 })
  else match (s.setPart n q).partLatch n with
    | .error _ => none
    | .ok s => some s

/-- PART_WRITE; a write that waits for an edit is taken up again later. -/
def execPartWrite (n w : Nat) (data : W64) (s : State) : Out :=
  if 8 ≤ n ∨ 3 ≤ w then .fault .noSuchUnit else
  match s.partWrite n w data with
  | some s => .next s
  | none => .next { s with retry := true }

/-! ## Hot pages (23 R525-R527) -/

def ZoneSt.none0 : ZoneSt := { temp := 0, valve := 0, thr := 0, hot := false, flow := 0, below := 0, crit := false }
def State.zone (s : State) (z : Nat) : ZoneSt := vget s.zones z .none0
/-- MODE is STACK (R520). -/
def State.stackMode (s : State) : Bool := s.pwrcfg.getLsbD 63

/-- Stacks that a cooling move off a hot stack may reach under a hint (R490, R525). -/
def Hint.targets (h : Hint) (hot : Nat) : List Nat :=
  if h.keep = 0 then [h.home / 2 * 2 + (1 - h.home % 2)]
  else match (List.range 8).find? fun d => (h.keep >>> d) % 2 = 1 && d ≠ hot with
    | some d => [2 * d, 2 * d + 1]
    | none => []

/-- The first page of [va, hi) that a cooling move may take from a stack. -/
def State.hotScan : Nat → State → Nat → Nat → Nat → Nat → Option (Nat × Leaf)
  | 0, _, _, _, _, _ => none
  | n + 1, s, part, stack, va, hi =>
    if hi ≤ va then none
    else match s.leafAt part va with
      | .error lv => State.hotScan n s part stack ((va / lvSpan lv + 1) * lvSpan lv) hi
      | .ok l =>
        let b := va / lvSpan l.level * lvSpan l.level
        if !l.cant && !l.repl && !l.pin && !l.bn && onStack stack l.frame then some (b, l)
        else State.hotScan n s part stack (b + lvSpan l.level) hi

/-- The page of a partition that hart 3 would move off a stack, with its hint, by the well-formed records of its table. -/
def State.hotPage (s : State) (part stack : Nat) : Option (Nat × Leaf × Hint) :=
  (s.hints part).1.findSome? fun h =>
    if h.home = stack ∧ h.targets (stack / 2) ≠ [] then
      (s.hotScan ((h.hi - h.lo) / 65536) part stack h.lo h.hi).map fun p => (p.1, p.2, h)
    else none

/-- HOT_PAGE_MOVE: one page leaves a hot stack, for a frame of the cool-frame pool. -/
def execHotPageMove (stack : Nat) (s : State) : Out :=
  if 16 ≤ stack then .fault .noSuchUnit else
  if !s.stackMode || !(s.zone (stack / 2)).hot || s.migr.isSome then .next s
  else
    let s := (List.range 8).foldl State.hintsMet s
    let found := (List.range 8).filterMap fun p => (s.hotPage p stack).map fun x => (p, x)
    let best := found.foldl (fun (b : Option (Nat × Nat × Leaf × Hint)) e => match b with
      | none => some e
      | some y => if e.2.1 < y.2.1 then some e else some y) none
    match best with
    | none => .next s
    | some (p, va, l, h) =>
      let base := fld s.coolW0 3 41 * 8
      let fits (f : Nat) : Bool := (h.targets (stack / 2)).any (fun t => onStack t f) && decide (f % lvSpan l.level = 0)
      match s.poolPick base (fld s.coolW1 0 32) fits with
      | none => .next s
      | some (i, f) =>
        let s := s.wr64 (base + 8 * i) (s.rd64 (base + 8 * i) &&& ~~~((1 : W64) <<< 63))
        .next (s.migrBegin { part := p, va, op := 1, frame := f, tdie := 0, pteAt := l.at', level := l.level, old := l.pte,
                             hart3 := true, started := false })

end Sys2Proof.Machine
end

