-- ==== Sys2Proof/Machine/Sched.lean ====
section
/-! DEFINITION. Work queues and launch records (20 R452-R457), admission (01 R40, 20 R455), ready queues, ageing, binding and the choice
of gangs to pre-empt (20 R464-R466), deadlines (20 R469) and the clearing of failed domains (19 R451). -/

namespace Sys2Proof.Machine

/-! ## Status words (R456) -/

/-- Where a record's answer goes: partition, STAT, DONE, work queue and index of the record. -/
structure Answer where
  part : Nat
  stat : Nat
  done : Nat
  wq : Nat
  idx : W64
  deriving DecidableEq, Repr

/-- An 8-byte word that the keystone writes: its place; or why it cannot, none where the access is held. -/
def State.ksWord (s : State) (part va : Nat) (p : Perm) : Except (Option AccFail) (Snap × State) :=
  if va % 8 ≠ 0 then .error (some (accFail 5 va)) else s.ioReach part p va 8

/-- The damaged table entry that the walk of a failed access met is reported (R511). -/
def State.ksMet (s : State) (part : Nat) (e : Option AccFail) : State :=
  match e with
  | some f => s.ioMet part f
  | none => s

/-- A word that the keystone writes lies in a page that is being moved (R495), or in a cantilever page without room (R496): its place there. -/
def State.wordHeld (s : State) (part va : Nat) (p : Perm) : Option (Option Nat) :=
  if va = 0 then none
  else match s.ksWord part va p with
    | .error none => some none
    | .error (some _) => none
    | .ok (sn, s) =>
      match s.cantTake (sn.pieces va 8) with
      | .error l => some (some l)
      | .ok _ => none
/-- The answer of a record has to wait. -/
def State.answerHeld (s : State) (a : Answer) : Bool := (s.wordHeld a.part a.stat permW).isSome || (s.wordHeld a.part a.done permRW).isSome
/-- An answer that waits for room in a cantilever page is reported (R496). -/
def State.answerWaits (s : State) (a : Answer) : State :=
  [s.wordHeld a.part a.stat permW, s.wordHeld a.part a.done permRW].foldl (fun s h => match h with
    | some (some l) => s.overcommit l
    | _ => s) s

/-- The event of a word that could not be written, or of a record refused with code 13 (R456, R512). -/
def State.answerLost (s : State) (a : Answer) (serial : Nat) : State :=
  s.postEventH a.part 11 ((s.eventHeader a.part 11 none).set 1 (BitVec.ofNat 64 (serial <<< 32)))
    [BitVec.ofNat 64 (a.wq % 1024), a.idx, BitVec.ofNat 64 serial]

/-- The status word is written, then DONE is raised (R456). -/
def State.answer (s : State) (a : Answer) (word : W64) : State :=
  let serial := fld word 0 32
  let s :=
    if a.stat = 0 then s
    else match s.ksWord a.part a.stat permW with
      | .error e => (s.ksMet a.part e).answerLost a serial
      | .ok (sn, s) =>
        let (ok, s) := s.ioWrite a.part sn a.stat (toBytes 8 word.toNat)
        if ok then s else s.answerLost a serial
  if a.done = 0 then s
  else match s.ksWord a.part a.done permRW with
    | .error e => (s.ksMet a.part e).answerLost a serial
    | .ok (sn, s) => (s.ioRaise (sn.place a.done)).2

/-- The end status of R456. -/
def statusWord (fin err node serial : Nat) : W64 := BitVec.ofNat 64 (fin <<< 56 ||| err <<< 48 ||| node <<< 32 ||| serial)

/-- A refused record (R456). -/
def State.refuse (s : State) (a : Answer) (code : Nat) : State :=
  if code = 13 then s.answerLost a 0 else s.answer a (statusWord 1 code 0 0)

/-! ## Records (R453, R454) -/

def WqRegs.none0 : WqRegs := ⟨0, 0, 0, 0, [], false⟩
def State.wq (s : State) (n : Nat) : WqRegs := vget s.wqs n .none0
def State.setWq (s : State) (n : Nat) (q : WqRegs) : State := { s with wqs := vset s.wqs n q }
def WqRegs.part (q : WqRegs) : Nat := fld q.w1 61 3
def WqRegs.logn (q : WqRegs) : Nat := fld q.w0 52 4

/-- The keystone takes the tail word of a queue as it now stands (R453); one whose page moves is read later (R495). -/
def State.readTail (s : State) (n : Nat) : State :=
  let q := s.wq n
  let va := fld q.w1 0 52
  if va % 8 ≠ 0 then s
  else match s.ioReach q.part permR va 8 with
    | .ok (sn, s) =>
      let (b, s) := s.readBytes sn va 8
      s.setWq n { q with tail := BitVec.ofNat 64 (ofBytes b), due := false }
    | .error none => s.setWq n { q with due := true }
    | .error (some f) => s.ioMet q.part f

/-- Where the answer of a record of queue n goes. -/
def answerOf (q : WqRegs) (n : Nat) (w : List W64) (idx : W64) : Answer :=
  { part := q.part, stat := fld (wd w 7) 0 52, done := fld (wd w 6) 0 52, wq := n, idx := idx }

def recKind (w : List W64) : Nat := fld (wd w 0) 60 4
def recObj (w : List W64) : Nat := fld (wd w 0) 0 52
def recRegion (w : List W64) : Nat := fld (wd w 1) 0 44
def goNnode (w : List W64) : Nat := fld (wd w 0) 0 13
def goNedge (w : List W64) : Nat := fld (wd w 2) 0 15

/-- The words of a partition at an address, as they stand; none where they cannot be read. -/
def State.peekWords (s : State) (part va n : Nat) : List W64 :=
  match s.ioReach part permR va (8 * n) with
  | .ok (sn, s) => (List.range n).map fun i => BitVec.ofNat 64 (ofBytes (s.rdV sn (va + 8 * i) 8))
  | .error _ => []

/-- What the keystone reads for a record is settled first (R167, R169): an image and a generation record, or a graph object with its nodes,
edges and templates; and the blocks of its region. -/
def State.touchRecord (s : State) (part : Nat) (w : List W64) : State :=
  let s := match s.chain (recRegion w) with
    | .ok c => c.foldl (fun (s : State) (e : Nat × List W64) => s.recall e.1 128) s
    | .error _ => s
  if recKind w = 1 then (s.touch part permR (recObj w) 128).touch part permRW (fld (wd w 4) 0 52) 64
  else
    let s := s.touch part permR (recObj w) 64
    let o := s.peekWords part (recObj w) 8
    let nodes := fld (wd o 1) 0 52
    let s := (s.touch part permR nodes (64 * goNnode o)).touch part permR (fld (wd o 3) 0 52) (8 * goNedge o)
    (List.range (goNnode o)).foldl (fun s i => match s.peekWords part (nodes + 64 * i) 2 with
      | [a, b] => if fld a 60 4 = 1 then s.touch part permR b.toNat 128 else s
      | _ => s) s

/-- The next record of a work queue: its words, and the state once it is consumed. That is the record that the keystone has copied already
and that had to wait, or the record at HEAD, which it copies, adding 1 to HEAD (R453). Launches are admitted in boot stage 4 alone (R531).
A tail beyond the ring's capacity sets ERR. -/
def State.takeRecord (s : State) (n : Nat) : Except State (List W64 × Answer × State) :=
  let q := s.wq n
  if fld s.boot 60 4 ≠ 4 then .error s
  else if q.taken ≠ [] then
    .ok (q.taken, answerOf q n q.taken (q.head - 1), (s.setWq n { q with taken := [] }).touchRecord q.part q.taken)
  else
    let s := if q.due then s.readTail n else s
    let q := s.wq n
    if !q.w0.getLsbD 63 ∨ q.logn = 0 ∨ q.w0.getLsbD 62 ∨ q.tail = q.head then .error s
    else if 2 ^ q.logn < (q.tail - q.head).toNat then .error (s.setWq n { q with w0 := q.w0 ||| (1 <<< 62) })
    else
      let va := fld q.w0 0 52 + 128 * (q.head.toNat % 2 ^ q.logn)
      match s.ioReach q.part permR va 128 with
      | .error e => .error (s.ksMet q.part e)
      | .ok (sn, s) =>
        let (b, s) := s.readBytes sn va 128
        let w := (List.range 16).map fun i => BitVec.ofNat 64 (ofBytes ((b.drop (8 * i)).take 8))
        .ok (w, answerOf q n w q.head, (s.setWq n { q with head := q.head + 1 }).touchRecord q.part w)

/-- A record that has to wait stays with the keystone. -/
def State.keepRecord (s : State) (a : Answer) (w : List W64) : State := s.setWq a.wq { s.wq a.wq with taken := w }

/-- The record is malformed (R454). -/
def recMalformed (w : List W64) : Bool :=
  let k := recKind w
  k = 0 || decide (3 < k) || fld (wd w 0) 52 7 ≠ 0 || fld (wd w 1) 44 20 ≠ 0 || fld (wd w 2) 20 44 ≠ 0 || fld (wd w 4) 52 12 ≠ 0
  || fld (wd w 5) 48 16 ≠ 0 || fld (wd w 6) 52 12 ≠ 0 || fld (wd w 7) 52 12 ≠ 0
  || (if k = 1 then recObj w % 128 ≠ 0
      else recObj w % 64 ≠ 0 || (wd w 0).getLsbD 59 || ((w.drop 2).take 4).any (fun x => decide (x ≠ 0)) || (w.drop 8).any fun x => decide (x ≠ 0))

/-- A kernel image is malformed (R457). -/
def imageMalformed (w : List W64) : Bool :=
  fld (wd w 0) 56 8 ≠ 1 || fld (wd w 0) 41 3 ≠ 0 || fld (wd w 0) 0 32 ≠ 0 || fld (wd w 0) 44 4 = 0
  || decide (fld (wd w 0) 48 4 < fld (wd w 0) 44 4) || decide (12 < fld (wd w 0) 48 4) || decide (14 < fld (wd w 0) 52 4)
  || decide (256 < fld (wd w 0) 32 9) || fld (wd w 1) 0 32 % 32 ≠ 0 || fld (wd w 2) 0 32 % 8 ≠ 0 || fld (wd w 4) 0 32 % 64 ≠ 0
  || fld (wd w 2) 32 32 % 32 ≠ 0 || decide (fld (wd w 1) 32 32 ≤ fld (wd w 2) 32 32) || fld (wd w 12) 32 32 ≠ 0
  || (w.drop 13).any fun x => decide (x ≠ 0)

/-! ## Admission (R455) -/

/-- Why a record is not accepted now. -/
inductive Refuse where
  | code (n : Nat)
  /-- the walk of the check with code n met a damaged table entry, at a place (R511) -/
  | met (n l : Nat)
  /-- an edit (R447) or a page move (R495) makes it wait -/
  | wait
  /-- uncorrectable data in a block of its region (R513), with the code of the check that met them -/
  | damaged (n : Nat)
  deriving DecidableEq, Repr

/-- A check with a code fails because an access does; none is a held access. -/
def refuseAcc (code : Nat) (e : Option AccFail) : Refuse :=
  match e with
  | none => .wait
  | some f => match f.ue with
    | some l => .met code l
    | none => .code code

/-- The region of a record and its domain: checks 5 and 6. -/
def State.checkRegion (s : State) (part : Nat) (w : List W64) : Except Refuse Chain :=
  if !(s.part part).valid then .error (.code 5)
  else match s.chainOf part (recRegion w) with
    | .error .edit => .error .wait
    | .error .damaged => .error (.damaged 5)
    | .error .malformed => .error (.code 5)
    | .ok c => if s.domFailed (effective c 6) then .error (.code 6) else .ok c

/-- Check 13. -/
def State.checkWords (s : State) (a : Answer) : Except Refuse Unit :=
  [a.stat, a.done].foldl (fun r va =>
    match r with
    | .error e => .error e
    | .ok _ => if va = 0 then .ok () else
        match s.ksWord a.part va permW with
        | .ok _ => .ok ()
        | .error e => .error (refuseAcc 13 e)) (.ok ())

/-- Check 2: the image header. -/
def State.checkImage (s : State) (part : Nat) (w : List W64) : Except Refuse (List W64) :=
  match s.ioReach part permR (recObj w) 128 with
  | .error e => .error (refuseAcc 2 e)
  | .ok (sn, s) =>
    let img := (List.range 16).map fun i => BitVec.ofNat 64 (ofBytes (s.rdV sn (recObj w + 8 * i) 8))
    if (s.markedV sn (recObj w) 128).isSome ∨ imageMalformed img then .error (.code 2) else .ok img

/-- Check 4: the admission of a co-resident launch (R40). -/
def State.checkWhole (s : State) (part : Nat) (w : List W64) : Except Refuse Unit :=
  let g := fld (wd w 2) 16 4
  let n := fld (wd w 2) 0 16
  if !(wd w 0).getLsbD 59 then .ok ()
  else if 5 * (s.partDies part).length * (12 / g) < n then .error (.code 4)
  else match s.chainOf part (recRegion w) with
    | .error .edit => .error .wait
    | .error _ => .ok ()
    | .ok c => if effective c 0 < n * g then .error (.code 4) else .ok ()

/-- Check 7: the generation named, where it is live, with the place of its record (R376). A reserved bit makes the keystone reject the record
(R11), with this check's code (log 102). -/
def State.checkGen (s : State) (part : Nat) (w : List W64) : Except Refuse (Option (VA × Nat × Nat)) :=
  let grec := fld (wd w 4) 0 52
  if grec = 0 then .ok none
  else if grec % 64 ≠ 0 then .error (.code 7)
  else match s.ioReach part permRW grec 64 with
    | .error e => .error (refuseAcc 7 e)
    | .ok (sn, s) =>
      let w0 := s.rd64 (sn.place grec)
      let rsv := fld w0 48 15 ≠ 0 || (List.range 6).any fun i => s.rd64 (sn.place grec + 16 + 8 * i) ≠ 0
      let g := if fld (wd w 5) 0 48 = 2 ^ 48 - 1 then fld w0 0 48 else fld (wd w 5) 0 48
      if (s.markedV sn grec 64).isSome ∨ rsv ∨ !genLive w0 g then .error (.code 7) else .ok (some (BitVec.ofNat 52 grec, g, sn.place grec))

/-- Checks 8 and 9: the pool, and whether the gangs can ever bind. -/
def State.checkBind (s : State) (part : Nat) (w img : List W64) (c : Chain) : Except Refuse Unit :=
  let carve := fld (wd img 0) 52 4
  match s.pool (effective c 7) with
  | .error .damaged => .error (.damaged 8)
  | .error _ => .error (.code 8)
  | .ok _ =>
    if c.tails.any fun t => !t.isEmpty && decide (effective t 0 < fld (wd w 2) 16 4) then .error (.code 9)
    else if (s.partDies part).all fun d => decide (carveOf (effective c 2) d < carve) then .error (.code 9)
    else .ok ()

/-- What an accepted kernel launch rests on. -/
structure Accepted where
  img : List W64
  chain : Chain
  gen : Option (VA × Nat × Nat)

/-- The checks of a kernel launch, in the order of R455. -/
def State.checkKernel (s : State) (a : Answer) (w : List W64) : Except Refuse Accepted := do
  if recMalformed w then throw (.code 1)
  let img ← s.checkImage a.part w
  let g := fld (wd w 2) 16 4
  let n := fld (wd w 2) 0 16
  if g < fld (wd img 0) 44 4 ∨ fld (wd img 0) 48 4 < g ∨ n = 0 ∨ 0x8000 < n then throw (.code 3)
  s.checkWhole a.part w
  let c ← s.checkRegion a.part w
  let gen ← s.checkGen a.part w
  s.checkBind a.part w img c
  s.checkWords a
  pure ⟨img, c, gen⟩

/-! ## Acceptance (R456, R31) -/

/-- SERIAL of a partition advances. -/
def State.nextSerial (s : State) (part : Nat) : W32 × State :=
  let n := vget s.serials part 0 + 1
  (n, { s with serials := vset s.serials part n })

/-- RC of a generation record changes by f (R376). -/
def State.modRc (s : State) (grec g : Nat) (f : Nat → Nat) : State :=
  let s := s.settled [(grec + 8, 8)]
  let w1 := s.rd64 (grec + 8)
  let at' := 32 * (g % 2)
  s.wr64 (grec + 8) (setFld w1 at' 32 (f (fld w1 at' 32)))

/-- A kernel instance starts: its gangs become ready in increasing ID.GANG. -/
def State.startInst (s : State) (a : Answer) (w : List W64) (x : Accepted) (node : Option (Nat × Nat)) (slot : BitVec 3) : State :=
  let (serial, s) := s.nextSerial a.part
  let s := match x.gen with
    | some g => s.modRc g.2.2 g.2.1 (· + 1)
    | none => s
  let id := s.instNext + 1
  let n := fld (wd w 2) 0 16
  let level := effPrio x.chain
  let i : Inst :=
    { id := id, part := a.part, wq := some (a.wq, a.idx), node := node, serial := serial, gslot := slot,
      lrec := vecOf 16 (wd w), image := vecOf 16 (wd x.img), tileTable := [], fdom := effective x.chain 6, level := level,
      gen := x.gen.map fun g => (g.1, g.2.1), areas := [], bkQueued := 0, bkReported := 0, ending := none, ended := false }
  let gang (k : Nat) : Gang :=
    { uid := s.gangNext + k, inst := id, idx := k, st := .ready, cores := [], saves := [], nsave := 0, path := [], kib := none,
      arr := List.replicate (fld (wd w 2) 16 4) 0, endedRanks := [], carve := 0, motion := [], carveDie := none,
      readySeq := s.seqNo + 1 + k, boundSeq := 0, level := level, overrun := false, reqAt := 0, want := none, text := [] }
  { s with insts := s.insts ++ [i], instNext := id, gangs := s.gangs ++ (List.range n).map gang, gangNext := s.gangNext + n,
           seqNo := s.seqNo + n }

/-- A refusal of a record: an answer, or a wait. -/
def State.refuseRecord (s : State) (a : Answer) (w : List W64) (e : Refuse) : State :=
  match e with
  | .wait => s.keepRecord a w
  | .code n => if n ≠ 13 && s.answerHeld a then (s.answerWaits a).keepRecord a w else s.refuse a n
  | .met n l =>
    if n ≠ 13 && s.answerHeld a then (s.answerWaits a).keepRecord a w else (s.postEvent a.part 4 none [ueEvent 2 l]).refuse a n
  | .damaged n => if s.answerHeld a then (s.answerWaits a).keepRecord a w else (s.refuse a n).failRegion (recRegion w)

/-- KERNEL_LAUNCH: the record at HEAD of a queue, where it is no graph record. -/
def execKernelLaunch (wq : Nat) (s : State) : Out :=
  if 1024 ≤ wq then .fault .noSuchUnit else
  match s.takeRecord wq with
  | .error s => .next s
  | .ok (w, a, t) =>
    if recKind w = 2 ∨ recKind w = 3 then .next s
    else match t.checkKernel a w with
      | .error e => .next (t.refuseRecord a w e)
      | .ok x => .next (t.startInst a w x none 0)

/-! ## Ready queues (R464, R465) -/

def ReadyQ.none0 : ReadyQ := ⟨0, 0, 0⟩
def State.readyOf (s : State) (part lv : Nat) : ReadyQ := vget (vget s.readyQ part (vecOf 8 fun _ => ReadyQ.none0)) lv .none0
def State.setReady (s : State) (part lv : Nat) (q : ReadyQ) : State :=
  { s with readyQ := vset s.readyQ part (vset (vget s.readyQ part (vecOf 8 fun _ => ReadyQ.none0)) lv q) }

def Gang.waits (g : Gang) : Bool := g.st == .ready || g.st == .saved

/-- The gangs queued at a base level, in order. -/
def State.queued (s : State) (part lv : Nat) : List Gang :=
  (s.gangs.filter fun g => g.waits && g.level == lv && match s.inst g.inst with
    | some i => i.part == part && i.ending.isNone
    | none => false).mergeSort fun a b => decide (a.readySeq ≤ b.readySeq)

/-- Base levels by effective level, ties to the higher base level. -/
def State.levels (s : State) (part : Nat) : List Nat :=
  [7, 6, 5, 4, 3, 2, 1, 0].mergeSort fun a b => decide ((s.readyOf part b).eff ≤ (s.readyOf part a).eff)

/-- One tick of a queue. -/
def State.tickQueue (s : State) (part lv : Nat) : State :=
  let q := s.readyOf part lv
  let th := fld (vget s.sched part 0) 0 16
  let stale := (s.queued part lv).any fun g => decide (g.boundSeq ≤ q.tick)
  let q' := { q with tick := s.seqNo }
  if lv = 7 ∨ th = 0 ∨ !stale then s.setReady part lv q'
  else if q.count + 1 < th then s.setReady part lv { q' with count := q.count + 1 }
  else s.setReady part lv { q' with count := 0, eff := if q.eff < 6 then q.eff + 1 else q.eff }

/-- AGEING_TICK: 100 µs have passed. -/
def execAgeingTick (part : Nat) (s : State) : Out :=
  if 8 ≤ part then .fault .noSuchUnit else .next ((List.range 8).foldl (fun s lv => s.tickQueue part lv) s)

/-! ## Binding (R36, R38, R445, R465, R471) -/

/-- What an attempt to bind a gang meets. -/
inductive Attempt where
  | bound (s : State)
  /-- no free cores -/
  | cores
  /-- a cap or the carve-out: the gangs behind it may bind (R465) -/
  | capped
  /-- an edit, the pool's slots, or a gang of its instance that is still being saved: the gangs behind it in its queue wait too, those of
  other queues do not (log 103) -/
  | held
  /-- the instance or its domain ended -/
  | ended (s : State)

/-- One of some options; the keystone's choice is free. -/
def State.pickOne {α : Type} : List α → State → Option α × State
  | [], s => (none, s)
  | [a], s => (some a, s)
  | a :: r, s =>
    let (b, s) := s.choose
    if b then (some a, s) else State.pickOne r s

/-- Free cores of a cluster, numbered over the module. -/
def State.freeIn (s : State) (cl : Nat) : List Nat := ((List.range 12).map fun p => 12 * cl + p).filter fun c => s.slotState c = 0

/-- Dies on which a gang may be bound: one that has carve-out stays on its die (R38, R128). -/
def State.diesFor (s : State) (i : Inst) (g : Gang) : List Nat :=
  match g.carveDie with
  | some d => if i.carve = 0 then s.partDies i.part else (s.partDies i.part).filter (· = d)
  | none => s.partDies i.part

/-- Save areas for a gang at its first binding: the lowest free slots of the pool; none when there are too few. -/
def State.assignSaves (s : State) (i : Inst) (p : Pool) : Option (List VA) :=
  let used := (s.gangs.filter fun g => match s.inst g.inst with
    | some j => j.part == i.part
    | none => false).flatMap Gang.saves
  let free := ((List.range (Nat.min p.nslot (i.gsize + used.length))).map fun k => BitVec.ofNat 52 (p.base + 1024 * p.kib * k)).filter
    fun a => !used.contains a
  if i.gsize ≤ free.length then some (free.take i.gsize) else none

/-- The keystone writes the bind records of a gang (R467), with what the snapshot of its region and pool found. -/
def State.bindAt (s : State) (i : Inst) (g : Gang) (c : Chain) (kib : Nat) (cs : List Nat) (saves : List VA) : State :=
  let resume := g.st == .saved
  let rec' (r : Nat) : SlotRegs :=
    { w0 := BitVec.ofNat 64 (1 <<< 61 ||| b2n resume <<< 60 ||| (g.uid % 65536) <<< 32 ||| r <<< 28 ||| i.gsize <<< 24),
      w1 := BitVec.ofNat 64 (i.serial.toNat <<< 32 ||| b2n i.node.isSome <<< 3 ||| i.gslot.toNat),
      w2 := BitVec.ofNat 64 (g.idx <<< 32 ||| i.ngang), w3 := (nth saves r 0).setWidth 64,
      w4 := BitVec.ofNat 64 (fld (vget i.lrec 0 0) 0 52), w5 := BitVec.ofNat 64 (lrecAddr i.id),
      w6 := BitVec.ofNat 64 i.part }
  let s := c.foldl (fun (s : State) (e : Nat × List W64) => s.recall e.1 128) (s.recall (effective c 7) 64)
  let s := (List.range cs.length).foldl (fun s r => s.slotBind (nth cs r 0) (rec' r)) s
  let die := match cs with
    | c :: _ => c / 60
    | [] => 0
  let s := s.modGang g.uid fun g =>
    { g with st := .bound, cores := cs, saves := saves, path := c.map Prod.fst, kib := some kib, boundSeq := s.seqNo + 1, want := none,
             carveDie := if i.carve = 0 then none else some die }
  let q := s.readyOf i.part g.level
  { s with seqNo := s.seqNo + 1 }.setReady i.part g.level { q with eff := g.level, count := 0 }

/-- No gang of an instance has been bound yet. -/
def State.unrun (s : State) (i : Inst) : Bool := s.gangs.all fun g => g.inst != i.id || (g.st == .ready && g.nsave == 0)
/-- The domain that a bind's snapshot gives an instance that does not run yet (R451). -/
def State.bindDomain (s : State) (i : Inst) (c : Chain) : Nat := if s.unrun i then effective c 6 else i.fdom
/-- The instance takes that domain. -/
def State.redomain (s : State) (i : Inst) (c : Chain) : State := s.modInst i.id fun x => { x with fdom := s.bindDomain i c }

/-- An attempt to bind one gang, outside the clusters that are kept for others. The pool is read at every binding (R471). -/
def State.tryOne (s : State) (i : Inst) (g : Gang) (kept : List Nat) : Attempt :=
  match s.chainOf i.part i.region with
  | .error .damaged => .ended (s.failDomain i.fdom none)
  | .error _ => .held
  | .ok c =>
    let dom := s.bindDomain i c
    if s.domFailed dom then .ended (s.terminate i.id 2 0) else
    let s := s.redomain i c
    let dies := (s.diesFor i g).filter fun d => s.capsOk c i.gsize (if g.carveDie = some d then 0 else i.carve) d
    let clusters := (dies.flatMap fun d => (List.range 5).map fun k => 5 * d + k).filter fun cl =>
      !kept.contains cl && decide (i.gsize ≤ (s.freeIn cl).length)
    if dies = [] then .capped
    else match s.pickOne clusters with
      | (none, _) => .cores
      | (some cl, s) =>
        match s.pool (effective c 7) with
        | .error .edit => .held
        | .error .damaged => .ended (s.failDomain dom none)
        | .error .malformed => .ended (s.terminate i.id 1 8)
        | .ok p =>
          match (if g.saves = [] then s.assignSaves i p else some g.saves) with
          | none => .held
          | some v => .bound (s.bindAt i g c p.kib ((s.freeIn cl).take i.gsize) v)

/-- Gangs of an instance bound one after another in a trial state; all of them, or nothing. -/
def State.tryAll : List Gang → State → Nat → List Nat → Attempt
  | [], s, _, _ => .bound s
  | g :: r, s, id, kept =>
    match s.inst id with
    | none => .held
    | some i =>
      match s.tryOne i g kept with
      | .bound t => State.tryAll r t id kept
      | a => a

/-- An attempt to bind a gang; a co-resident instance binds all its gangs at once (R40). -/
def State.tryGang (s : State) (g : Gang) (kept : List Nat) : Attempt :=
  match s.inst g.inst with
  | none => .held
  | some i =>
    if !i.whole then s.tryOne i g kept
    else if s.gangs.any fun h => h.inst = i.id && h.st == .preempting then .held
    else State.tryAll (s.gangs.filter fun h => h.inst = i.id && h.waits) s i.id kept

/-- The cluster chosen for a head still has the cores for it: free, or of gangs that are stopping. -/
def State.wantHolds (s : State) (g : Gang) : Bool :=
  match g.want, s.inst g.inst with
  | some cl, some i => decide (i.gsize ≤ (((List.range 12).map fun p => 12 * cl + p).filter fun c => s.slotState c = 0 || s.slotState c = 5).length)
  | _, _ => false
/-- The cluster that is kept for a head. -/
def State.keptFor (s : State) (g : Gang) : List Nat := if s.wantHolds g then g.want.toList else []

/-- The gangs of one queue in order: the outcome (a binding, or an instance's end), or the clusters kept from then on, and the head that
lacks cores. -/
def State.bindQueue : List Gang → State → List Nat → Option (State × Bool) × List Nat × Option Gang
  | [], _, kept => (none, kept, none)
  | g :: r, s, kept =>
    match s.tryGang g kept with
    | .bound t => (some (t, false), kept, none)
    | .ended t => (some (t, true), kept, none)
    | .cores => (none, kept ++ s.keptFor g, some g)
    | .capped => State.bindQueue r s kept
    | .held => (none, kept, none)

/-- The queues of a partition in order: the first binding, and every head that lacks cores with what is kept from it. -/
def State.bindGo : List Nat → State → Nat → List Nat → Option (State × Bool) × List (Gang × List Nat)
  | [], _, _, _ => (none, [])
  | lv :: r, s, part, kept =>
    match State.bindQueue (s.queued part lv) s kept with
    | (some t, _, _) => (some t, [])
    | (none, kept', h) =>
      let rest := State.bindGo r s part kept'
      (rest.1, (match h with
        | some g => [(g, kept)]
        | none => []) ++ rest.2)

/-- GANG_BIND: the next gang of a partition that can be bound. -/
def execGangBind (part : Nat) (s : State) : Out :=
  if 8 ≤ part then .fault .noSuchUnit else
  match (State.bindGo (s.levels part) s part []).1 with
  | some (t, _) => .next t
  | none => .next s

/-! ## Pre-emption for priority (R466) -/

/-- Effective level of a bound gang. -/
def State.gangLevel (s : State) (part : Nat) (g : Gang) : Nat := (s.readyOf part g.level).eff

/-- The order of victims (R466): lowest level first, most recently bound first. -/
def State.sooner (s : State) (part : Nat) (a b : Gang) : Bool :=
  decide (s.gangLevel part a < s.gangLevel part b)
    || (s.gangLevel part a == s.gangLevel part b && decide (b.boundSeq ≤ a.boundSeq))

/-- The gangs of a cluster that a head of effective level L may pre-empt, in order: running, or bound and not started. -/
def State.victims (s : State) (part cl lv : Nat) : List Gang :=
  (s.gangs.filter fun g => g.st == .bound && decide (s.gangLevel part g < lv)
    && g.cores.any (fun c => decide (c / 12 = cl))
    && ((g.cores.all fun c => decide (s.slotState c = 2)) || g.cores.all fun c => decide (s.slotState c = 1))).mergeSort (s.sooner part)

/-- As many of some gangs as it takes to free `need` cores beside those free; none when they do not suffice. -/
def enough : List Gang → Nat → Nat → Option (List Gang)
  | [], free, need => if need ≤ free then some [] else none
  | g :: r, free, need => if need ≤ free then some [] else (enough r (free + g.cores.length) need).map (g :: ·)

/-- The cluster to pre-empt in, of those that can be freed far enough: the one whose first victim is first in the order. R466 does not say
which it is: the model's choice (log 61). -/
def State.pickVictims (s : State) (part : Nat) (opts : List (Nat × List Gang)) : Option (Nat × List Gang) :=
  opts.find? fun o => match o.2 with
    | [] => false
    | a :: _ => opts.all fun p => match p.2 with
      | [] => true
      | b :: _ => s.sooner part a b

/-- The pre-emption for a head that lacks cores, outside the clusters kept from it: a cluster, and the gangs to pre-empt there. -/
def State.preemption (s : State) (part : Nat) (g : Gang) (kept : List Nat) : Option (Nat × List Gang) :=
  match s.inst g.inst with
  | none => none
  | some i =>
    match s.chainOf i.part i.region with
    | .error _ => none
    | .ok c =>
      let lv := s.gangLevel part g
      let dies := (s.diesFor i g).filter fun d => s.capsOk c i.gsize (if g.carveDie = some d then 0 else i.carve) d
      let opts := ((dies.flatMap fun d => (List.range 5).map fun k => 5 * d + k).filter fun cl => !kept.contains cl).filterMap fun cl =>
        (enough (s.victims part cl lv) (s.freeIn cl).length i.gsize).map fun v => (cl, v)
      s.pickVictims part opts

/-- The first of some heads that lack cores, and have no cluster that will have them, for which a pre-emption can free them: it is made.
No cluster stays chosen for one for which none can. -/
def State.selectGo : List (Gang × List Nat) → State → Nat → State
  | [], s, _ => s
  | (g, kept) :: r, s, part =>
    if s.wantHolds g then State.selectGo r s part
    else match s.preemption part g kept with
      | some (cl, v) => v.foldl (fun s h => s.preempt h.uid) (s.modGang g.uid fun g => { g with want := some cl })
      | none => State.selectGo r (s.modGang g.uid fun g => { g with want := none }) part

/-- PREEMPT_SELECT: for the heads that lack cores, in the order of their queues. A bind that the keystone finds impossible on the way ends its
instance (R513). -/
def execPreemptSelect (part : Nat) (s : State) : Out :=
  if 8 ≤ part then .fault .noSuchUnit else
  let go := State.bindGo (s.levels part) s part []
  if go.2.all fun e => s.wantHolds e.1 then .next (match go.1 with
    | some (t, true) => t
    | _ => s)
  else .next (State.selectGo go.2 s part)

/-! ## Deadlines (R446, R469) -/

/-- DEADLINE_OVERRUN: a pre-emption has taken longer than its region's deadline. -/
def execDeadlineOverrun (core : Nat) (s : State) : Out :=
  if !coreOk core then .fault .noSuchUnit else
  match s.gangs.find? fun g => g.st == .preempting && g.cores.contains core with
  | none => .next s
  | some g =>
    match s.inst g.inst with
    | none => .next s
    | some i =>
      match s.chainOf i.part i.region with
      | .error .damaged => .next (s.failDomain i.fdom none)
      | .error _ => .next s
      | .ok c =>
        let dl := effective c 8
        if g.overrun ∨ dl = 0 ∨ (s.time - g.reqAt).toNat ≤ 1000 * dl then .next s
        else
          let w := vget s.sched i.part 0
          let s := { s with sched := vset s.sched i.part (setFld w 48 16 (satAdd 16 (fld w 48 16) 1)) }
          .next ((s.modGang g.uid fun g => { g with overrun := true }).postEvent i.part 11 (some core) [])

/-! ## Failed domains (R451) -/

/-- Terminations of a domain are under way. -/
def State.domEnding (s : State) (d : Nat) : Bool :=
  s.insts.any (fun i => i.fdom = d && i.ending.isSome && !i.ended) || s.ginsts.any fun g => g.fdom = d && g.ending.isSome && !g.ended

/-- The bits of FDSTAT whose clearing waits, and for which nothing is under way any more, clear. -/
def State.settleDomains (s : State) : State :=
  (List.range 4).foldl (fun s n =>
    let ready := (List.range 64).filter fun i => (vget s.fdclr n 0).getLsbD i && !s.domEnding (64 * n + i)
    let m : W64 := ready.foldl (fun m i => m ||| (1 <<< i)) 0
    { s with fdstat := vset s.fdstat n (vget s.fdstat n 0 &&& ~~~m), fdclr := vset s.fdclr n (vget s.fdclr n 0 &&& ~~~m) }) s

/-- A write of ones to FDSTAT.n. -/
def State.fdClear (s : State) (n : Nat) (data : W64) : State :=
  { s with fdclr := vset s.fdclr n (vget s.fdclr n 0 ||| (data &&& vget s.fdstat n 0)) }.settleDomains

/-- FDSTAT_CLEAR. -/
def execFdstatClear (n : Nat) (data : W64) (s : State) : Out :=
  if 4 ≤ n then .fault .noSuchUnit else .next (s.fdClear n data)

end Sys2Proof.Machine
end

