-- ==== Sys2Proof/Machine/Graphs.lean ====
section
/-! DEFINITION. Task graphs (20 R458-R463): sealing, launching, the nodes of every kind, storage transfers (24 R536, R537), and the end of
instances of kernels and graphs (20 R456). -/

namespace Sys2Proof.Machine

/-! ## Graph objects (R458, R459) -/

/-- n words of a partition's space; unreadable ones give a code. -/
def State.ksWords (s : State) (part va n code : Nat) : Except Refuse (List W64) :=
  if n = 0 then .ok []
  else match s.ioReach part permR va (8 * n) with
    | .error e => .error (refuseAcc code e)
    | .ok (sn, s) =>
      if (s.markedV sn va (8 * n)).isSome then .error (.code code)
      else .ok ((List.range n).map fun i => BitVec.ofNat 64 (ofBytes (s.rdV sn (va + 8 * i) 8)))

/-- A graph object is malformed (R458). -/
def goMalformed (w : List W64) : Bool :=
  fld (wd w 0) 13 19 ≠ 0 || goNnode w = 0 || decide (4096 < goNnode w) || fld (wd w 1) 52 12 ≠ 0 || fld (wd w 1) 0 6 ≠ 0
  || fld (wd w 2) 15 49 ≠ 0 || decide (16384 < goNedge w) || fld (wd w 3) 52 12 ≠ 0 || fld (wd w 3) 0 3 ≠ 0
  || fld (wd w 4) 52 12 ≠ 0 || fld (wd w 4) 0 3 ≠ 0 || fld (wd w 5) 32 32 ≠ 0 || fld (wd w 5) 0 3 ≠ 0 || wd w 6 ≠ 0 || wd w 7 ≠ 0

def nKind (w : Rec8) : Nat := fld w[0] 60 4
def nCoff (w : Rec8) : Nat := fld w[0] 0 32
def nSrc (w : Rec8) : Nat := fld w[2] 0 12
def nFirst (w : Rec8) : Nat := fld w[2] 0 12
def nLast (w : Rec8) : Nat := fld w[2] 16 12
def nMaxit (w : Rec8) : Nat := fld w[2] 32 32
def eFrom (e : W64) : Nat := fld e 0 16
def eTo (e : W64) : Nat := fld e 16 16
def eLabel (e : W64) : Nat := fld e 32 8

/-- Node i of nn is well formed for itself, and its loop body lies after it (R459, R462). -/
def nodeOk (nn i : Nat) (w : Rec8) : Bool :=
  let k := nKind w
  decide (1 ≤ k) && decide (k ≤ 8) && fld w[0] 32 28 = 0 && w.toList.drop 3 = [0, 0, 0, 0, 0]
  && (if 2 ≤ k ∧ k ≤ 4 then nCoff w % 8 = 0 else nCoff w = 0)
  && (k = 1 || k = 6 || k = 7 || k = 8 || w[1] = 0)
  && (match k with
    | 3 => fld w[2] 12 4 = 0 && fld w[2] 28 4 = 0 && decide (i < nFirst w) && decide (nFirst w ≤ nLast w) && decide (nLast w < nn)
    | 5 => decide (w[2].toNat < nn)
    | 6 => true
    | _ => w[2] = 0)

/-- Loop bodies of a graph: loop node, first, last. -/
def bodies (ns : List Rec8) : List (Nat × Nat × Nat) :=
  (List.range ns.length).filterMap fun i => (ns[i]?).bind fun w => if nKind w = 3 then some (i, nFirst w, nLast w) else none
def inBody (b : Nat × Nat × Nat) (n : Nat) : Bool := decide (b.2.1 ≤ n) && decide (n ≤ b.2.2)

/-- Nodes that remain when every node without an incoming edge from a remaining node is removed, again and again. -/
def peel : Nat → List W64 → List Nat → List Nat
  | 0, _, l => l
  | n + 1, es, l =>
    let es := es.filter fun e => l.contains (eFrom e)
    peel n es (l.filter fun i => es.any fun e => eTo e = i)

/-- A graph is well formed (R462); templates are judged apart. -/
def graphOk (ns : List Rec8) (es : List W64) : Bool :=
  let nn := ns.length
  let bs := bodies ns
  let kind (i : Nat) : Nat := match ns[i]? with
    | some w => nKind w
    | none => 0
  (List.range nn).all (fun i => match ns[i]? with
    | some w => nodeOk nn i w
    | none => false)
  && es.all (fun e => fld e 40 24 = 0 && decide (eFrom e < nn) && decide (eTo e < nn)
      && (match kind (eFrom e) with
        | 2 => decide (eLabel e ≤ 1)
        | 4 => true
        | _ => eLabel e = 255)
      && bs.all fun b => inBody b (eFrom e) == inBody b (eTo e))
  && peel nn es (List.range nn) = []
  && bs.all (fun a => bs.all fun b => decide (a.2.2 < b.2.1) || decide (b.2.2 < a.2.1)
      || (decide (b.2.1 ≤ a.2.1) && decide (a.2.2 ≤ b.2.2)) || (decide (a.2.1 ≤ b.2.1) && decide (b.2.2 ≤ a.2.2)))
  && (List.range nn).all fun i => match ns[i]? with
    | some w => nKind w ≠ 5 || (kind (nSrc w) = 1 && bs.all fun b => !inBody b (nSrc w) || inBody b i)
    | none => true

/-- The kernel templates of a graph. -/
def State.templates (s : State) (part : Nat) : List (Nat × Rec8) → Except Refuse (List (Nat × Vector W64 16))
  | [] => .ok []
  | (i, w) :: r =>
    if nKind w ≠ 1 then s.templates part r
    else match s.ksWords part w[1].toNat 16 11 with
      | .error e => .error e
      | .ok t => if recKind t ≠ 1 ∨ recMalformed t then .error (.code 11) else
          (s.templates part r).map fun l => (i, vecOf 16 (wd t)) :: l

/-- Versions that no instance runs and that are not current are freed (R460). -/
def State.freeVersions (s : State) : State :=
  { s with graphs := s.graphs.filter fun v => v.current || s.ginsts.any fun g => g.ver = v.uid && !g.ended }

/-- A seal that passes every check: the new version, and the object as it has been reached. -/
def State.checkSeal (s : State) (a : Answer) (w : List W64) : Except Refuse (GraphVer × Snap) := do
  if recMalformed w then throw (.code 1)
  let _ ← s.checkRegion a.part w
  let o ← s.ksWords a.part (recObj w) 8 10
  if goMalformed o then throw (.code 10)
  let sn ← (match s.ioReach a.part permRW (recObj w) 8 with
    | .ok (sn, s) => if (s.cantTake (sn.pieces (recObj w) 8)).isOk then .ok sn else .error .wait
    | .error e => .error (refuseAcc 10 e) : Except Refuse Snap)
  let nw ← s.ksWords a.part (fld (wd o 1) 0 52) (8 * goNnode o) 11
  let es ← s.ksWords a.part (fld (wd o 3) 0 52) (goNedge o) 11
  let ns : List Rec8 := (List.range (goNnode o)).map fun i => vecOf 8 fun j => wd nw (8 * i + j)
  if !graphOk ns es then throw (.code 11)
  let ts ← s.templates a.part ((List.range ns.length).zip ns)
  let mine := s.freeVersions.graphs.filter fun v => v.part = a.part
  if 64 ≤ mine.length ∨ 65536 < mine.foldl (fun n v => n + v.nodes.length) ns.length then throw (.code 12)
  s.checkWords a
  if s.answerHeld a then throw .wait
  pure ({ uid := s.instNext + 1, part := a.part, obj := BitVec.ofNat 52 (recObj w), version := BitVec.ofNat 32 (fld (wd o 0) 32 32 + 1),
          cbase := BitVec.ofNat 52 (fld (wd o 4) 0 52), cstride := BitVec.ofNat 32 (fld (wd o 5) 0 32), nodes := ns, edges := es,
          templates := ts, current := true, bad := false }, sn)

/-- GRAPH_SEAL: a kind-3 record. -/
def execGraphSeal (wq : Nat) (s : State) : Out :=
  if 1024 ≤ wq then .fault .noSuchUnit else
  match s.takeRecord wq with
  | .error s => .next s
  | .ok (w, a, t) =>
    if recKind w ≠ 3 then .next s
    else match t.checkSeal a w with
      | .error e => .next (t.refuseRecord a w e)
      | .ok (v, sn) =>
        let t := { t with instNext := v.uid,
                          graphs := t.graphs.map (fun (o : GraphVer) => if o.part = v.part ∧ o.obj = v.obj then { o with current := false } else o) ++ [v] }.freeVersions
        .next ((t.ioWrite a.part sn (recObj w + 4) (toBytes 4 v.version.toNat)).2.answer a 0)

/-- The current version of an object. -/
def State.currentVer (s : State) (part obj : Nat) : Option GraphVer :=
  s.graphs.find? fun v => v.part = part && v.obj.toNat = obj && v.current

/-- GRAPH_LAUNCH: a kind-2 record. -/
def execGraphLaunch (wq : Nat) (s : State) : Out :=
  if 1024 ≤ wq then .fault .noSuchUnit else
  match s.takeRecord wq with
  | .error s => .next s
  | .ok (w, a, t) =>
    if recKind w ≠ 2 then .next s
    else
      let r : Except Refuse (Chain × GraphVer) := do
        if recMalformed w then throw (.code 1)
        let c ← t.checkRegion a.part w
        let o ← t.ksWords a.part (recObj w) 8 10
        if goMalformed o then throw (.code 10)
        match t.currentVer a.part (recObj w) with
        | none => throw (.code 10)
        | some v =>
          if v.bad then throw (.damaged 10)
          t.checkWords a
          pure (c, v)
      match r with
      | .error e => .next (t.refuseRecord a w e)
      | .ok (c, v) =>
        let (serial, t) := t.nextSerial a.part
        let g : GraphInst :=
          { id := t.instNext + 1, ver := v.uid, part := a.part, wq := wq, recIdx := a.idx, lrec := vecOf 16 (wd w), serial := serial,
            fdom := effective c 6, slot := none, nodes := v.nodes.map fun _ => .waiting, edges := v.edges.map fun _ => none, insts := [],
            trips := [], regs := [], fails := [], ending := none, ended := false }
        .next { t with ginsts := t.ginsts ++ [g], instNext := t.instNext + 1 }

/-! ## Instances of a graph (R460, R461) -/

def State.gi (s : State) (id : Nat) : Option GraphInst := s.ginsts.find? fun g => g.id = id
def State.modGi (s : State) (id : Nat) (f : GraphInst → GraphInst) : State :=
  { s with ginsts := s.ginsts.map fun g => if g.id = id then f g else g }

/-- GRAPH_INSTANCE_START: the oldest waiting instance of a version takes the lowest free slot. -/
def execGraphInstanceStart (gi : Nat) (s : State) : Out :=
  match s.gi gi with
  | none => .next s
  | some g =>
    let mates := s.ginsts.filter fun h => h.ver = g.ver && !h.ended
    let used := mates.filterMap GraphInst.slot
    let first := mates.find? fun h => h.slot.isNone && h.ending.isNone
    if g.slot.isSome ∨ g.ended ∨ g.ending.isSome ∨ (first.map GraphInst.id) ≠ some gi then .next s
    else match (List.range 8).find? fun i => !used.contains (BitVec.ofNat 3 i) with
      | none => .next s
      | some i => .next (s.modGi gi fun g => { g with slot := some (BitVec.ofNat 3 i) })

def GraphInst.st (g : GraphInst) (n : Nat) : NodeSt := nth g.nodes n .waiting
def NodeSt.settled : NodeSt → Bool
  | .waiting | .running => false
  | .resolved | .skipped | .failed _ => true

/-- Edges with their state. -/
def GraphInst.edgeList (g : GraphInst) (v : GraphVer) : List (W64 × Option Bool) := v.edges.zip g.edges

/-- The loops around a node are all in a trip. -/
def GraphInst.inTrip (g : GraphInst) (v : GraphVer) (n : Nat) : Bool :=
  (bodies v.nodes).all fun b => !inBody b n || g.st b.1 == .running

/-- Every incoming edge of a waiting node has resolved. -/
def GraphInst.reached (g : GraphInst) (v : GraphVer) (n : Nat) : Bool :=
  g.st n == .waiting && g.inTrip v n && (g.edgeList v).all fun e => eTo e.1 ≠ n || e.2.isSome
/-- The node runs; or it is skipped (R461). -/
def GraphInst.runs (g : GraphInst) (v : GraphVer) (n : Nat) : Bool :=
  g.reached v n && (((g.edgeList v).all fun e => eTo e.1 ≠ n) || (g.edgeList v).any fun e => eTo e.1 = n && e.2 == some true)
def GraphInst.skips (g : GraphInst) (v : GraphVer) (n : Nat) : Bool := g.reached v n && !g.runs v n

/-- A node settles, with its outgoing edges. -/
def GraphInst.settle (g : GraphInst) (v : GraphVer) (n : Nat) (st : NodeSt) (taken : Nat → Bool) : GraphInst :=
  { g with nodes := listUpd g.nodes n fun _ => st,
           edges := (g.edgeList v).map fun e => if eFrom e.1 = n then some (taken (eLabel e.1)) else e.2,
           regs := g.regs.filter (fun r => r.1 ≠ n),
           fails := match st with
             | .failed e => if g.fails.any (fun f => f.1 = n) then g.fails else g.fails ++ [(n, e)]
             | _ => g.fails }

/-- Nodes that no taken edge reaches are skipped. -/
def GraphInst.skipAll : Nat → GraphInst → GraphVer → GraphInst
  | 0, g, _ => g
  | k + 1, g, v =>
    match (List.range v.nodes.length).find? fun n => g.skips v n with
    | none => g
    | some n => GraphInst.skipAll k (g.settle v n .skipped fun _ => false) v

/-- The instance ends when no node remains to run. -/
def GraphInst.close (g : GraphInst) (v : GraphVer) : GraphInst :=
  if g.ending.isNone && (List.range v.nodes.length).all fun n => (bodies v.nodes).any (fun b => inBody b n) || (g.st n).settled then
    { g with ending := some (if g.fails = [] then 0 else 5) }
  else g

/-- A node of an instance settles, with all that follows at once. -/
def State.settleNode (s : State) (gi n : Nat) (st : NodeSt) (taken : Nat → Bool) : State :=
  match s.gi gi with
  | none => s
  | some g =>
    match s.gver g with
    | none => s
    | some v => s.modGi gi fun g => (GraphInst.skipAll v.nodes.length (g.settle v n st taken) v).close v

def State.failNode (s : State) (gi n err : Nat) : State := s.settleNode gi n (.failed (BitVec.ofNat 8 err)) fun _ => false
def State.takeNode (s : State) (gi n : Nat) : State := s.settleNode gi n .resolved fun _ => true

/-- A node of a given kind that is due to run, or already runs: its instance, its version, its words, and whether it runs already. -/
def State.nodeDue (s : State) (gi n kind : Nat) : Option (GraphInst × GraphVer × Rec8 × Bool) :=
  (s.gi gi).bind fun g => (s.gver g).bind fun v => (v.nodes[n]?).bind fun w =>
    let on := g.st n == .running
    if nKind w = kind ∧ g.slot.isSome ∧ g.ending.isNone ∧ !g.ended ∧ (on || g.runs v n) then some (g, v, w, on) else none

/-- A node that is due acts; uncorrectable data in its version fail its domain (R513). -/
def State.onNode (s : State) (gi n kind : Nat) (f : GraphInst → GraphVer → Rec8 → Bool → Out) : Out :=
  match s.nodeDue gi n kind with
  | none => .next s
  | some (g, v, w, on) => if v.bad then .next (s.failDomain g.fdom none) else f g v w on

/-- A word that a node reads, with an acquire at device scope (R461): its place and value; or the state in which it cannot be read, none
where the read is held. -/
def State.nodeWord (s : State) (part va : Nat) : Except (Option State) (Nat × W64 × State) :=
  if va % 8 ≠ 0 then .error (some s)
  else match s.ioReach part permR va 8 with
    | .error none => .error none
    | .error (some f) => .error (some (s.ioMet part f))
    | .ok (sn, s) =>
      if (s.markedV sn va 8).isSome then .error (some s)
      else
        let (b, s) := s.readBytes sn va 8
        .ok (sn.place va, BitVec.ofNat 64 (ofBytes b), s)

/-- Address of a node's condition word (R460). -/
def condAddr (g : GraphInst) (v : GraphVer) (w : Rec8) : Nat :=
  v.cbase.toNat + v.cstride.toNat * (match g.slot with
    | some i => i.toNat
    | none => 0) + nCoff w

/-- What a node does with its condition word; one that cannot be read makes the node fail (R456). -/
def State.onWord (s : State) (gi n va part : Nat) (f : W64 → State → State) : Out :=
  match s.nodeWord part va with
  | .error none => .next s
  | .error (some s) => .next (s.failNode gi n 0x50)
  | .ok (_, w, s) => .next (f w s)

/-- NODE_KERNEL: the node's instance starts; its end settles the node. -/
def execNodeKernel (gi node : Nat) (s : State) : Out :=
  s.onNode gi node 1 fun g v _ on =>
    if on then .next s
    else match v.templates.find? fun t => t.1 = node with
      | none => .next s
      | some (_, t) =>
        let w := t.toList
        let a : Answer := { part := g.part, stat := fld (wd w 7) 0 52, done := fld (wd w 6) 0 52, wq := g.wq, idx := g.recIdx }
        let s := s.touchRecord g.part w
        match s.checkKernel a w with
        | .error .wait => .next s
        | .error (.code c) => .next (if c ≠ 13 && s.answerHeld a then s.answerWaits a else (s.refuse a c).failNode gi node c)
        | .error (.met c l) =>
          .next (if c ≠ 13 && s.answerHeld a then s.answerWaits a else ((s.postEvent a.part 4 none [ueEvent 2 l]).refuse a c).failNode gi node c)
        | .error (.damaged c) => .next (if s.answerHeld a then s.answerWaits a else ((s.refuse a c).failRegion (recRegion w)).failNode gi node c)
        | .ok x =>
          let s := s.startInst a w x (some (gi, node)) (g.slot.getD 0)
          .next (s.modGi gi fun g =>
            { g with nodes := listUpd g.nodes node fun _ => .running, insts := g.insts.filter (fun i => i.1 ≠ node) ++ [(node, s.instNext)] })

/-- NODE_CONDITIONAL. -/
def execNodeConditional (gi node : Nat) (s : State) : Out :=
  s.onNode gi node 2 fun g v w _ =>
    s.onWord gi node (condAddr g v w) g.part fun x s => s.settleNode gi node .resolved fun l => decide (l = if x ≠ 0 then 1 else 0)

/-- NODE_SWITCH. -/
def execNodeSwitch (gi node : Nat) (s : State) : Out :=
  s.onNode gi node 4 fun g v w _ =>
    s.onWord gi node (condAddr g v w) g.part fun x s =>
      let k := fld x 0 8
      let has := v.edges.any fun e => eFrom e = node && eLabel e = k
      s.settleNode gi node .resolved fun l => decide (l = if k < 255 ∧ has then k else 255)

/-- A trip of a loop begins: the state of its body is reset. -/
def GraphInst.trip (g : GraphInst) (v : GraphVer) (n : Nat) (w : Rec8) (k : Nat) : GraphInst :=
  let b := (n, nFirst w, nLast w)
  { g with nodes := ((List.range g.nodes.length).zip g.nodes).map fun e => if e.1 = n then .running else if inBody b e.1 then .waiting else e.2,
           edges := (g.edgeList v).map fun e => if inBody b (eFrom e.1) then none else e.2,
           insts := g.insts.filter (fun i => !inBody b i.1),
           trips := (g.trips.filter fun t => t.1 ≠ n && !inBody b t.1) ++ [(n, k)] }

/-- A node lies in the body of a loop and in that of no loop inside it: when each such node has settled, the trip is over. -/
def directIn (v : GraphVer) (b : Nat × Nat × Nat) (n : Nat) : Bool :=
  inBody b n && !(bodies v.nodes).any fun c => inBody b c.1 && inBody c n

/-- NODE_LOOP: before its first trip, and after each trip, the word is read. -/
def execNodeLoop (gi node : Nat) (s : State) : Out :=
  s.onNode gi node 3 fun g v w on =>
    let body := (List.range v.nodes.length).filter (directIn v (node, nFirst w, nLast w))
    if on && !body.all fun i => (g.st i).settled then .next s
    else
      let k := if on then (match g.trips.find? fun t => t.1 = node with
        | some t => t.2
        | none => 0) else 0
      s.onWord gi node (condAddr g v w) g.part fun x s =>
        if x ≠ 0 ∧ k < nMaxit w then s.modGi gi fun g => g.trip v node w (k + 1) else s.takeNode gi node

/-- NODE_BANK_COMPLETION: waits for the source's instance and every bank command that it queued. -/
def execNodeBankCompletion (gi node : Nat) (s : State) : Out :=
  s.onNode gi node 5 fun g _ w _ =>
    let reported := match g.insts.find? fun i => i.1 = nSrc w with
      | none => true
      | some i => match s.inst i.2 with
        | some x => x.ended && x.bkQueued == x.bkReported
        | none => true
    match g.st (nSrc w) with
    | .waiting | .running => .next s
    | .resolved => .next (if reported then s.takeNode gi node else s)
    | .skipped => .next (s.failNode gi node 0x30)
    | .failed _ => .next (if reported then s.failNode gi node 0x30 else s)

/-- NODE_COLLECTIVE_COMPLETION: registers on its word as AWAIT does (R288, R289); a registration that a shootdown has ended is made anew. -/
def execNodeCollectiveCompletion (gi node : Nat) (s : State) : Out :=
  s.onNode gi node 6 fun g _ w _ =>
    match g.regs.find? fun r => r.1 = node with
    | some r => .next (if r.2.2.2 then s.failNode gi node 0x50 else if w[2].toNat ≤ r.2.2.1.toNat then s.takeNode gi node else s)
    | none => match s.nodeWord g.part w[1].toNat with
      | .error none => .next s
      | .error (some s) => .next (s.failNode gi node 0x50)
      | .ok (l, x, s) =>
        if w[2].toNat ≤ x.toNat then .next (s.takeNode gi node)
        else .next (s.modGi gi fun g =>
          { g with nodes := listUpd g.nodes node fun _ => .running, regs := g.regs ++ [(node, l, x, false)] })

/-- NODE_HOST_SIGNAL: resolves once the message is sent, which waits for a connection and for stage 4 (R530). -/
def execNodeHostSignal (gi node : Nat) (s : State) : Out :=
  s.onNode gi node 8 fun g _ w _ =>
    if !s.mgmtUp ∨ fld s.boot 60 4 ≠ 4 then .next s
    else .next ((s.send { type := 4, status := 0, tag := 0, arg := w[1], data := g.serial.setWidth 64, payload := [] }).takeNode gi node)

/-! ## Storage transfers (R536, R537) -/

def cmdSize : Nat := 128 * 1024

/-- A transfer descriptor is malformed; lbas is the log2 of the target's block size. -/
def xferMalformed (d : Rec8) (lbas : Nat) : Bool :=
  fld d[0] 62 2 = 0 || fld d[0] 62 2 = 3 || fld d[0] 52 6 ≠ 0 || xferBuf d % 2 ^ lbas ≠ 0 || fld d[2] 21 43 ≠ 0 || fld d[2] 0 21 = 0
  || decide (2 ^ 20 < fld d[2] 0 21) || fld d[3] 52 12 ≠ 0 || fld d[3] 0 3 ≠ 0 || d.toList.drop 4 ≠ [0, 0, 0, 0]

/-- The status word of a transfer has to wait (R495, R496). -/
def State.xferHeld (s : State) (part : Nat) (d : Rec8) : Option (Option Nat) := s.wordHeld part (fld d[3] 0 52) permW
/-- The status word of a transfer is written, and its node settles. -/
def State.endXfer (s : State) (part gi n : Nat) (d : Rec8) (code nvme : Nat) : State :=
  let st := fld d[3] 0 52
  let s :=
    if st = 0 then s
    else match s.ksWord part st permW with
      | .error e => s.ksMet part e
      | .ok (sn, s) => (s.ioWrite part sn st (toBytes 8 (nvme <<< 8 ||| code))).2
  if code = 0 then s.takeNode gi n else s.failNode gi n (0x40 + code)

/-- The Read commands of a transfer from storage: target, first block, blocks; a Write command leaves when it has read its data (R537). -/
def xferAsks (d : Rec8) (lbas : Nat) (cmds : List Nat) : List (Nat × Nat × Nat) :=
  if fld d[0] 62 2 ≠ 1 then []
  else
    let per := cmdSize / 2 ^ lbas
    cmds.map fun c => (fld d[0] 58 4, d[1].toNat + c * per, Nat.min per (fld d[2] 0 21 - c * per))

/-- NODE_STORAGE_TRANSFER: the descriptor is read and the commands start. -/
def execNodeStorageTransfer (gi node : Nat) (s : State) : Out :=
  s.onNode gi node 7 fun g _ w on =>
    if on then .next s
    else
      let s := s.touch g.part permR w[1].toNat 64
      match s.ksWords g.part w[1].toNat 8 1 with
      | .error .wait => .next s
      | .error (.met _ l) => .next ((s.postEvent g.part 4 none [ueEvent 2 l]).failNode gi node 0x41)
      | .error _ => .next (s.failNode gi node 0x41)
      | .ok l =>
        let d : Rec8 := vecOf 8 (wd l)
        let t := vget s.stgt (fld d[0] 58 4) 0
        let bad := xferMalformed d (fld t 48 8)
        if bad || !t.getLsbD 63 then .next (match s.xferHeld g.part d with
          | some (some l) => s.overcommit l
          | some none => s
          | none => s.endXfer g.part gi node d (if bad then 1 else 2) 0)
        else
          let x : Xfer := { gi := gi, node := node, desc := d, left := List.range (cdiv (fld d[2] 0 21 * 2 ^ fld t 48 8) cmdSize),
                            code := 0, nvme := 0, spoiled := [] }
          let s := { s with xfers := s.xfers ++ [x], nvmeAsk := s.nvmeAsk ++ xferAsks d (fld t 48 8) x.left }
          .next (s.modGi gi fun g => { g with nodes := listUpd g.nodes node fun _ => .running })

/-- Each byte of a failed read is old or new. -/
def State.eitherBytes : List (Byte × Byte) → State → List Byte × State
  | [], s => ([], s)
  | (o, n) :: r, s =>
    let (b, s) := s.choose
    let (l, s) := State.eitherBytes r s
    ((if b then n else o) :: l, s)

/-- Uncorrectable data of a range that a transfer consumes are reported (R511). -/
def State.consumedIn (s : State) (part : Nat) (sn : Snap) (va n : Nat) : State :=
  match s.markedV sn va n with
  | some l => s.postEvent part 4 none [ueEvent 2 l]
  | none => s

/-- What one command moves: its code, or none while its pages are being moved or have no room (R495, R496). -/
def State.runCmd (s : State) (part : Nat) (x : Xfer) (cmd : Nat) (status : BitVec 16) (data : List Byte) : Option Nat × State :=
  let tgt := fld x.desc[0] 58 4
  let lbas := fld (vget s.stgt tgt 0) 48 8
  let n := Nat.min cmdSize (fld x.desc[2] 0 21 * 2 ^ lbas - cmd * cmdSize)
  let va := xferBuf x.desc + cmd * cmdSize
  let reads := fld x.desc[0] 62 2 = 1
  match s.ioReach part (if reads then permW else permR) va n with
  | .error none => (none, s)
  | .error (some f) => (some 3, s.ioMet part f)
  | .ok (sn, s) =>
    let places := (List.range n).map fun i => sn.place (va + i)
    if reads then
      let (old, s) := s.readBytes sn va n
      let (b, s) := if status = 0 ∧ data.length = n then (data, s) else State.eitherBytes (old.zip (data ++ old.drop data.length)) s
      let (ok, s) := s.ioWrite part sn va b
      if !ok then (none, s) else (some (if status = 0 then 0 else 4), s.undefine (places.filter x.spoiled.contains))
    else if (s.markedV sn va n).isSome then (some 5, s.consumedIn part sn va n)
    else
      let (b, s) := s.readBytes sn va n
      let (f, s) := s.freeBytes n
      let b := (List.range n).map fun i => if x.spoiled.contains (nth places i 0) then nth f i 0 else nth b i 0
      (some (if status = 0 then 0 else 4),
        { s with nvmeOut := s.nvmeOut ++ [(tgt, x.desc[1].toNat + cmd * (cmdSize / 2 ^ lbas), b)] })
/-- NVME_COMMAND_END: one command of a transfer ends, with its NVMe status and the data that it read. The last one ends the transfer, and is
taken up again later where the status word has to wait (R495, R496). -/
def execNvmeCommandEnd (xfer cmd : Nat) (status : BitVec 16) (data : List (BitVec 8)) (s : State) : Out :=
  match s.xfers[xfer]? with
  | none => .next s
  | some x =>
    if !x.left.contains cmd then .next s
    else
      let part := match s.gi x.gi with
        | some g => g.part
        | none => 0
      match { s with xfers := s.xfers.eraseIdx xfer }.runCmd part x cmd status data with
      | (none, t) => .next { t with xfers := s.xfers, retry := true }
      | (some c, t) =>
        let y := { x with left := x.left.filter (· ≠ cmd),
                          code := if x.code = 0 then BitVec.ofNat 8 c else x.code,
                          nvme := if x.code = 0 ∧ c = 4 then status else x.nvme }
        if y.left ≠ [] then .next { t with xfers := t.xfers.take xfer ++ [y] ++ t.xfers.drop xfer }
        else match t.xferHeld part x.desc with
          | some (some l) => .next { s.overcommit l with retry := true }
          | some none => .next { s with retry := true }
          | none => .next (t.endXfer part x.gi x.node x.desc y.code.toNat y.nvme.toNat)

/-! ## The end of an instance (R456) -/

/-- A kernel instance ends. -/
def State.endInst (s : State) (i : Inst) (fin err : Nat) : State :=
  let a : Answer := { part := i.part, stat := fld (vget i.lrec 7 0) 0 52, done := fld (vget i.lrec 6 0) 0 52,
                      wq := match i.wq with
                        | some q => q.1
                        | none => 0,
                      idx := match i.wq with
                        | some q => q.2
                        | none => 0 }
  let s := match i.gen with
    | none => s
    | some (grec, g) => match s.ioReach i.part permRW grec.toNat 64 with
      | .ok (sn, s) => s.modRc (sn.place grec.toNat) g (· - 1)
      | .error e => s.ksMet i.part e
  let s := s.answer a (statusWord fin err 0 i.serial.toNat)
  let s := s.modInst i.id fun i => { i with ended := true }
  let s := { s with gangs := s.gangs.filter fun g => g.inst ≠ i.id }.settleDomains
  match i.node with
  | none => s
  | some (gi, n) => if fin = 0 then s.takeNode gi n else s.failNode gi n (if fin = 1 then err else 0x20 + fin)

/-- A graph instance ends. -/
def State.endGraph (s : State) (g : GraphInst) (fin : Nat) : State :=
  let a : Answer := { part := g.part, stat := fld (vget g.lrec 7 0) 0 52, done := fld (vget g.lrec 6 0) 0 52, wq := g.wq, idx := g.recIdx }
  let first := g.fails.foldl (fun (b : Option (Nat × BitVec 8)) f => match b with
    | none => some f
    | some x => if f.1 < x.1 then some f else some x) none
  let word := match first with
    | some f => if fin = 5 then statusWord 5 f.2.toNat f.1 g.serial.toNat else statusWord fin 0 0 g.serial.toNat
    | none => statusWord fin 0 0 g.serial.toNat
  ((s.answer a word).modGi g.id fun g => { g with ended := true, slot := none }).freeVersions.settleDomains

/-- INSTANCE_END: all gangs of a kernel instance are done, or no node of a graph instance remains to run. -/
def execInstanceEnd (inst : Nat) (s : State) : Out :=
  match s.inst inst, s.gi inst with
  | some i, _ =>
    (match i.ending with
    | none => .next s
    | some (e, r) =>
      let a : Answer := { part := i.part, stat := fld (vget i.lrec 7 0) 0 52, done := fld (vget i.lrec 6 0) 0 52, wq := 0, idx := 0 }
      let held := match i.gen with
        | none => false
        | some (grec, _) => (match s.ioReach i.part permRW grec.toNat 64 with
          | .error none => true
          | _ => false)
      if i.ended || held || s.gangs.any (fun g => g.inst = inst && g.st != .done) then .next s
      else if s.answerHeld a then .next (s.answerWaits a)
      else .next (s.endInst i e.toNat r.toNat))
  | none, some g =>
    (match g.ending with
    | none => .next s
    | some e =>
      let a : Answer := { part := g.part, stat := fld (vget g.lrec 7 0) 0 52, done := fld (vget g.lrec 6 0) 0 52, wq := 0, idx := 0 }
      if g.ended then .next s else if s.answerHeld a then .next (s.answerWaits a) else .next (s.endGraph g e.toNat))
  | none, none => .next s

end Sys2Proof.Machine
end

