-- ==== Sys2Proof/Machine/Service.lean ====
section
/-! DEFINITION. Faults, errors and background work (22): deferred events (R503), service of stopped work (R508), write-backs and the
collision table (R132, R514), scrubs and other background work (R516, R517), and summaries of corrected errors (R510). -/

namespace Sys2Proof.Machine

/-- EVENT_POST_DEFERRED (R503): waiting stop events are written while their queue has room. -/
def execEventPostDeferred (queue : Nat) (s : State) : Out :=
  if 9 ≤ queue then .fault .noSuchUnit else .next (State.flushEvents (vget s.evq queue .none0).waiting.length s queue)

/-! ## SVC (R508) -/

def svcOp (w : W64) : Nat := fld w 52 4
def svcSel (w : W64) : Nat := fld w 48 4
def svcCore (w : W64) : Nat := fld w 39 9
def svcSerial (w : W64) : Nat := fld w 0 32

/-- OP 1: every stopped walker of a core issues its part again. Under a pre-emption request a walker resumed so still goes to its
stopping place (R77, R80). -/
def State.svcResume (s : State) (c : Nat) : Nat × State :=
  if !(s.core c).anyStopped then (1, s)
  else
    let s := s.resumeCore c
    (0, s.modCore c fun k =>
      if !k.preempt then k
      else k.modLive fun x =>
        if x.run != .running || x.pre != .no then x
        else { x with pre := if x.loops.any (fun l => l.cut ≠ []) then .cut else .now })

/-- OP 2 and OP 3: a halted channel goes on from its watermark (R142), active beside the other active ones (R143), or becomes idle. -/
def State.svcChannel (s : State) (c ch : Nat) (idle : Bool) : Nat × State :=
  let x := vget (s.core c).chans ch .reset
  if x.state ≠ .halted then (1, s)
  else
    let y : Chan := if idle then { x with state := .idle, cmd := none, written := [], underway := [], raced := [] }
      else { x with state := .active, written := [], underway := [] }
    let s := s.modCore c fun k => { k with chans := vset k.chans ch y }
    (0, if idle then s else s.chanMeets c ch)

/-- OP 4 and OP 5: a held collective goes on, or ends with code 5 on every participant (R397). -/
def State.svcColl (s : State) (c i : Nat) (abort : Bool) : Nat × State :=
  match s.collAt c i with
  | none => (1, s)
  | some x =>
    if x.held.isNone then (1, s)
    else if abort then
      (0, { s.setColl c i (some { x with held := none, code := some 5 }) with linkOut := s.linkOut ++ [{ s.linkMsg c i x with abort := true }] })
    else (0, s.setColl c i (some { x with held := none }))

/-- OP 6: the instance of a core is terminated with END 4. -/
def State.svcTerminate (s : State) (c : Nat) : Nat × State :=
  match s.gangAt c with
  | none => (1, s)
  | some g =>
    match s.inst g.inst with
    | some i => (0, s.terminate i.id 4 0)
    | none => (0, s.killGang g.uid)

/-- OP 7: the gang of a core is pre-empted. -/
def State.svcPreempt (s : State) (c : Nat) : Nat × State :=
  match s.gangAt c with
  | none => (1, s)
  | some g => if g.st = .bound ∧ s.slotState c = 2 then (0, s.preempt g.uid) else (1, s)

/-- An operation on a core must name the SERIAL of the instance bound there. -/
def State.svcMatches (s : State) (w : W64) : Bool :=
  let c := svcCore w
  decide (c < 480) && (s.core c).gangUid.isSome && fld (s.core c).id.inst 32 32 = svcSerial w

/-- The operation of a written SVC.W0: its STATUS, and the state after it. -/
def State.svcRun (s : State) (w : W64) : Nat × State :=
  let c := svcCore w
  let op := svcOp w
  if op = 0 ∨ 8 ≤ op ∨ ((op = 4 ∨ op = 5) ∧ 8 ≤ svcSel w) then (3, s)
  else if !s.svcMatches w then (2, s)
  else match op with
    | 1 => s.svcResume c
    | 2 => s.svcChannel c (svcSel w) false
    | 3 => s.svcChannel c (svcSel w) true
    | 4 => s.svcColl c (svcSel w) false
    | 5 => s.svcColl c (svcSel w) true
    | 6 => s.svcTerminate c
    | _ => s.svcPreempt c

/-- A write to SVC.W0. -/
def State.svcWrite (s : State) (w : W64) : State :=
  let kept : W64 := (w &&& (maskBits 55 39 ||| maskBits 31 0)) ||| (s.svc &&& maskBits 61 56)
  if !w.getLsbD 63 then { s with svc := kept }
  else
    let (st, s) := { s with svc := kept }.svcRun w
    { s with svc := setFld s.svc 56 6 st }

/-- W0 is written with GO and an OP. -/
def State.svcGo (s : State) (op : Nat) (w0 : W64) : State := s.svcWrite (setFld w0 52 4 op ||| (1 <<< 63))

/-- SVC_RESUME, OP 1. -/
def execSvcResume (w0 : W64) (s : State) : Out := .next (s.svcGo 1 w0)
/-- SVC_CHANNEL_RESUME, OP 2. -/
def execSvcChannelResume (w0 : W64) (s : State) : Out := .next (s.svcGo 2 w0)
/-- SVC_CHANNEL_IDLE, OP 3. -/
def execSvcChannelIdle (w0 : W64) (s : State) : Out := .next (s.svcGo 3 w0)
/-- SVC_COLL_CONTINUE, OP 4. -/
def execSvcCollContinue (w0 : W64) (s : State) : Out := .next (s.svcGo 4 w0)
/-- SVC_COLL_ABORT, OP 5. -/
def execSvcCollAbort (w0 : W64) (s : State) : Out := .next (s.svcGo 5 w0)
/-- SVC_TERMINATE, OP 6. -/
def execSvcTerminate (w0 : W64) (s : State) : Out := .next (s.svcGo 6 w0)
/-- SVC_PREEMPT, OP 7. -/
def execSvcPreempt (w0 : W64) (s : State) : Out := .next (s.svcGo 7 w0)

/-! ## Write-backs (R132, R514) -/

/-- Lines of a stack in its collision table. -/
def State.collisions (s : State) (stack : Nat) : Nat := s.collided.countP fun l => decide (stackOf (l * 128) = stack)

/-- A line stored raw would be taken for a compressed one: the marker word of one of its halves matches its stack's marker. R131 gives
neither the word's place nor the size of what is stored as one beyond its 64 bytes (log 81). -/
def State.markerHit (s : State) (ln : Nat) : Bool :=
  [0, 1].any fun h => s.rd64 (ln * 128 + 64 * h + 8 * (Config.markerWord % 8)) == vget s.markers (stackOf (ln * 128)) 0

/-- A page maps a line and carries the compressed attribute (R131, R133). -/
def State.compLine (s : State) (part va ln : Nat) : Bool :=
  match s.leafAt part va with
  | .ok l => l.pte.getLsbD 58 && lineOf (l.frame + va % lvSpan l.level) == ln
  | .error _ => false

/-- A line leaves the table of collisions, or was not in it: it is stored. -/
def State.storeLine (s : State) (ln : Nat) : State := { s with refused := setDel s.refused ln, collided := setDel s.collided ln }

/-- A line is offered for write-back: stored compressed or without a match; stored raw under an entry of the table; or refused for want of
one, kept and reported (R132). -/
def State.offerLine (s : State) (ln : Nat) (comp fits : Bool) : State :=
  let st := stackOf (ln * 128)
  if !comp || fits || !s.markerHit ln then s.storeLine ln
  else if s.collided.contains ln then { s with refused := setDel s.refused ln }
  else if s.collisions st < 256 then { s with refused := setDel s.refused ln, collided := setAdd s.collided ln }
  else
    let w := vget s.ctstat st 0
    { s with refused := setAdd s.refused ln,
             ctstat := vset s.ctstat st (setFld w 48 16 (satAdd 16 (fld w 48 16) 1)) }.postEvent 8 6 none
      [BitVec.ofNat 64 (st <<< 52 ||| ln * 128)]

/-- An entry of a stack has been freed: the refused lines of the stack are offered again (R514). Which of them the codec fits now is a free
choice. -/
def State.offerAgain (s : State) (st : Nat) : State :=
  (s.refused.filter fun l => decide (stackOf (l * 128) = st)).foldl (fun s l =>
    let (b, s) := s.choose
    s.offerLine l true b) s

/-- LINE_WRITEBACK: a dirty line goes to its stack, under the page of a partition that maps it. `fits`: its payload compresses. -/
def execLineWriteback (pa : Nat) (page : PageAddr) (fits : Bool) (s : State) : Out :=
  if !isHbm pa ∨ 8 ≤ page.part then .fault .noSuchUnit else
  let ln := pa / 128
  let t := s.offerLine ln (s.compLine page.part page.va ln) fits
  .next (if s.collided.contains ln && !t.collided.contains ln then t.offerAgain (stackOf pa) else t)

/-! ## Background work (R516, R517) -/

/-- The unit of protection at a place loses its data: it is marked, and its bytes are undefined (R511). -/
def State.damage (s : State) (l : Nat) : State :=
  let n := markUnit l
  let b := l / n * n
  (s.undefine ((List.range n).map fun i => b + i)).mark l

/-- A unit that counts its corrected errors (R510): by UNIT and STACK of R511, and the core whose unit it is. -/
def unitKey (unit stack : Nat) (core : Option Nat) : Nat := (unit * 16 + stack) * 512 + core.getD 0x1FF
/-- A unit counts a corrected error (R510). -/
def State.countCorrected (s : State) (unit stack : Nat) (core : Option Nat) : State :=
  let key := unitKey unit stack core
  { s with corrected := mapPut s.corrected key (mapGet s.corrected key 0 + 1) }
/-- A class-4 event to hart 2 about a unit: the header names the core whose unit it is, and what is bound there (R504). -/
def State.postUnit (s : State) (core : Option Nat) (w0 w1 : W64) : State :=
  match core with
  | none => s.postEvent 8 4 none [w0, w1]
  | some c => if (s.core c).gangUid.isSome then s.postEvent 8 4 (some c) [w0, w1] else s.postEventH 8 4 (s.headerOf 8 4 0 (some c) 0) [w0, w1]

/-- What a scrub does with the line it reads: a correction changes no value and is counted; uncorrectable data are marked and reported. -/
def State.scrub (s : State) (unit stack : Nat) (core : Option Nat) (l : Nat) (found : ScrubFinding) (w0 : W64) : State :=
  let was := s.marked l 1
  let s := if found = .uncorrectable && !was then s.damage l else s
  let s := if found = .corrected && !was then s.countCorrected unit stack core else s
  if was || found = .uncorrectable then s.postUnit core w0 0 else s

/-- HBM_SCRUB. -/
def execHbmScrub (pa : Nat) (found : ScrubFinding) (s : State) : Out :=
  if !isHbm pa then .fault .noSuchUnit else .next (s.scrub 1 (stackOf pa) none pa found (ueEvent 3 pa))

/-- W0 of a memory-error event of TYPE 3 without a place (R511). -/
def foundEvent (unit addr : Nat) : W64 := BitVec.ofNat 64 (unit <<< 60 ||| 3 <<< 58 ||| addr % 2 ^ 44)

/-- A unit of the accumulator loses its two elements. -/
def Core.damageAcc (k : Core) (row col : Nat) : Core :=
  let key := 256 * row + col / 2 * 2
  { k with mat := { k.mat with accBad := setAdd (setAdd k.mat.accBad key) (key + 1) } }
/-- A cell or a scale code of an array plane fails its parity. -/
def Core.damagePlane (k : Core) (shadow scale : Bool) (key : Nat) : Core :=
  let f (p : Plane) : Plane := if scale then { p with badScales := setAdd p.badScales key } else { p with badCells := setAdd p.badCells key }
  { k with mat := if shadow then { k.mat with shadow := f k.mat.shadow } else { k.mat with active := f k.mat.active } }
/-- A sector of a core's L1 fails its parity: a clean one is dropped, to be read again; that of a line held exclusively is damaged at its
home slice. -/
def State.damageL1 (s : State) (c l : Nat) : State :=
  if s.holdsExcl c l then (s.damage l).modCore c fun k => k.dropL1 (l / 32 * 32) 32
  else (s.modCore c fun k => k.dropL1 (l / 32 * 32) 32).countCorrected 5 0 (some c)
/-- A walker reads a queue, register or descriptor that holds uncorrectable data: it stops, and the domain of its instance fails (R510; R513
does not list the case: log 84). -/
def State.damageQueue (s : State) (c : Nat) (w : Walker) : State :=
  if ((s.core c).wk w).run != .running then s
  else
    let t := (s.beginIssue c w).dataError 1 0
    match (s.gangAt c).bind fun g => s.inst g.inst with
    | some i => t.failDomain i.fdom none
    | none => t

/-- SRAM_SCRUB: a line of the LLC, of a carve-out or of a cantilever page, or a unit of a scratchpad. The other storages of R510 are no
line that a patrol reads; the step brings their errors too (log 60). R511 has no UNIT for queues, registers and the graph store: their
corrected errors count under UNIT 0 (log 104). -/
def execSramScrub (core : Nat) (at' : SramAt) (found : ScrubFinding) (s : State) : Out :=
  let bad := decide (found = .uncorrectable)
  let count (unit : Nat) (c : Option Nat) (s : State) : State := if found = .corrected then s.countCorrected unit 0 c else s
  match at' with
  | .line l =>
    if isSpad l || (!isHbm l && decide (l < placeCant)) then .fault .noSuchUnit
    else
      let st := if isHbm l then stackOf l else 0
      .next (s.scrub 2 st none l found (if isHbm l then BitVec.ofNat 64 (2 <<< 60 ||| 3 <<< 58 ||| st <<< 52 ||| l) else ueEvent 3 l))
  | .spad o =>
    let l := spadPlace core o
    if !coreOk core ∨ spadSize ≤ o then .fault .noSuchUnit else .next (s.scrub 3 0 (some core) l found (ueEvent 3 l))
  | .acc row col =>
    if !coreOk core ∨ 512 ≤ row ∨ 256 ≤ col then .fault .noSuchUnit
    else .next (if bad then (s.modCore core fun k => k.damageAcc row col).postUnit (some core) (foundEvent 4 row) 0 else count 4 (some core) s)
  | .l1 l => if !coreOk core ∨ !isTranslated l then .fault .noSuchUnit else .next (if bad then s.damageL1 core l else count 5 (some core) s)
  | .cell sh key =>
    if !coreOk core then .fault .noSuchUnit else .next (if bad then s.modCore core fun k => k.damagePlane sh false key else count 6 (some core) s)
  | .scale sh key =>
    if !coreOk core then .fault .noSuchUnit else .next (if bad then s.modCore core fun k => k.damagePlane sh true key else count 6 (some core) s)
  | .queue w => if !coreOk core then .fault .noSuchUnit else .next (if bad then s.damageQueue core w else count 0 (some core) s)
  | .graph u => .next (if bad then { s with graphs := s.graphs.map fun v => if v.uid = u then { v with bad := true } else v } else count 0 none s)

/-- HBM_REFRESH: timing only. -/
def execHbmRefresh (stack : Nat) (s : State) : Out := if 16 ≤ stack then .fault .noSuchUnit else .next s
/-- HBM_RETRAIN: the stack's accesses wait, which is timing only. -/
def execHbmRetrain (stack : Nat) (s : State) : Out := if 16 ≤ stack then .fault .noSuchUnit else .next s
/-- LINK_RETRAIN: flits wait, none is lost; the link counts its retrains (R538). -/
def execLinkRetrain (link : Nat) (s : State) : Out :=
  if 12 ≤ link then .fault .noSuchUnit else
  let w := vget s.links link 0
  .next { s with links := vset s.links link (setFld w 0 16 (satAdd 16 (fld w 0 16) 1)) }

/-- A unit has posted no summary in the last second. -/
def State.summaryDue (s : State) (key : Nat) : Bool :=
  match s.summed.find? fun e => e.1 = key with
  | some e => decide (10 ^ 9 ≤ (s.time - e.2).toNat)
  | none => true

/-- CORRECTED_SUMMARY (R510): the corrected errors that a unit has counted since its last summary, with an address given as frame and offset; at most
one in a second. Of the cores' units of one kind, that of any core whose summary is due. -/
def execCorrectedSummary (unit : BitVec 4) (stack : BitVec 4) (frame : BitVec 28) (off : BitVec 16) (s : State) : Out :=
  match s.pickOne (s.corrected.filter fun e => e.1 / 512 = unit.toNat * 16 + stack.toNat ∧ e.2 ≠ 0 ∧ s.summaryDue e.1) with
  | (none, _) => .next s
  | (some e, t) =>
    let core := if e.1 % 512 < 480 then some (e.1 % 512) else none
    let t := { t with summed := mapPut t.summed e.1 t.time, corrected := t.corrected.filter fun x => x.1 ≠ e.1 }
    .next (t.postUnit core (BitVec.ofNat 64 (unit.toNat <<< 60 ||| 1 <<< 58 ||| stack.toNat <<< 52 ||| (frame ++ off).toNat)) (BitVec.ofNat 64 e.2))

end Sys2Proof.Machine
end

