-- ==== Sys2Proof/Machine/Registers.lean ====
section
/-! DEFINITION. The control space (19 R438): which register stands at an offset, what a read of it returns and clears, and what a write
to it does. -/

namespace Sys2Proof.Machine

/-- A register of the control space. -/
inductive CsReg where
  | part (n w : Nat)
  | fdstat (n : Nat)
  | sched (n : Nat)
  | xl (n w : Nat)
  | shoot (w : Nat)
  | pinq (w : Nat)
  | migr (w : Nat)
  | evq (n w : Nat)
  | svc
  | ctstat (s : Nat)
  | pwrcfg
  | zone (z : Nat)
  | cool (w : Nat)
  | drstat (c : Nat)
  | boot
  | link (l : Nat)
  | stgt (i : Nat)
  | wq (n w : Nat)
  | slot (c w : Nat)
  deriving DecidableEq, Repr

/-- Register w of unit n of a block: base, bytes between units, units, registers of a unit. -/
def inBlock (off base stride units regs : Nat) : Option (Nat × Nat) :=
  if off < base then none
  else
    let n := (off - base) / stride
    let w := (off - base) % stride / 8
    if n < units ∧ w < regs then some (n, w) else none

/-- The register at an offset; none where no chapter assigns one, or at an offset that is not a multiple of 8 (R438). -/
def csReg (off : Nat) : Option CsReg :=
  if off % 8 ≠ 0 then none
  else [(inBlock off 0x1000 0x20 8 3).map fun p => CsReg.part p.1 p.2,
    (inBlock off 0x2000 8 4 1).map fun p => CsReg.fdstat p.1,
    (inBlock off 0x3000 8 8 1).map fun p => CsReg.sched p.1,
    (inBlock off 0x4000 0x40 8 4).map fun p => CsReg.xl p.1 p.2,
    (inBlock off 0x5000 0x10 1 2).map fun p => CsReg.shoot p.2,
    (inBlock off 0x5010 0x10 1 2).map fun p => CsReg.pinq p.2,
    (inBlock off 0x5020 0x18 1 3).map fun p => CsReg.migr p.2,
    (inBlock off 0x6000 0x20 9 4).map fun p => CsReg.evq p.1 p.2,
    (inBlock off 0x6200 8 1 1).map fun _ => CsReg.svc,
    (inBlock off 0x6300 8 16 1).map fun p => CsReg.ctstat p.1,
    (inBlock off 0x7000 8 1 1).map fun _ => CsReg.pwrcfg,
    (inBlock off 0x7010 8 9 1).map fun p => CsReg.zone p.1,
    (inBlock off 0x7060 0x10 1 2).map fun p => CsReg.cool p.2,
    (inBlock off 0x7100 8 40 1).map fun p => CsReg.drstat p.1,
    (inBlock off 0x8000 8 1 1).map fun _ => CsReg.boot,
    (inBlock off 0x8100 8 12 1).map fun p => CsReg.link p.1,
    (inBlock off 0x8200 8 16 1).map fun p => CsReg.stgt p.1,
    (inBlock off 0x100000 0x20 1024 3).map fun p => CsReg.wq p.1 p.2,
    (inBlock off 0x200000 0x40 480 7).map fun p => CsReg.slot p.1 p.2].findSome? id

def SlotRegs.word (r : SlotRegs) (w : Nat) : W64 :=
  match w with
  | 0 => r.w0 | 1 => r.w1 | 2 => r.w2 | 3 => r.w3 | 4 => r.w4 | 5 => r.w5 | _ => r.w6

/-- ZONE.z (R521). -/
def ZoneSt.word (z : ZoneSt) : W64 :=
  BitVec.ofNat 64 (z.temp.toNat <<< 56 ||| z.valve.toNat <<< 48 ||| z.thr.toNat <<< 45 ||| b2n z.hot <<< 44 ||| z.flow.toNat <<< 32)

/-- What a read of a register returns. -/
def State.csValue (s : State) (r : CsReg) : W64 :=
  match r with
  | .part n w => let p := s.part n; (match w with | 0 => p.w0 | 1 => p.w1 | _ => p.w2)
  | .fdstat n => vget s.fdstat n 0
  | .sched n => vget s.sched n 0
  | .xl n w => let x := s.xlOf n; (match w with | 0 => x.w0 | 1 => x.w1 | 2 => x.w2 | _ => x.w3)
  | .shoot w => if w = 0 then setFld s.shootW0 62 1 (b2n s.shoot.isSome) else s.shootW1
  | .pinq w => if w = 0 then s.pinq else BitVec.ofNat 64 (s.pins (fld s.pinq 16 28))
  | .migr w => (match w with | 0 => s.migrW0 | 1 => s.migrW1 | _ => s.migrW2)
  | .evq n w => let e := vget s.evq n .none0; (match w with | 0 => e.w0 | 1 => e.tail | 2 => e.head | _ => BitVec.ofNat 64 (e.drop.toNat <<< 32))
  | .svc => s.svc
  | .ctstat i => setFld (vget s.ctstat i 0) 0 9 (s.collisions i)
  | .pwrcfg => s.pwrcfg
  | .zone z => (s.zone z).word
  | .cool w => if w = 0 then s.coolW0 else s.coolW1
  | .drstat c => vget s.drstat c 0
  | .boot => s.boot
  | .link l => vget s.links l 0
  | .stgt i => vget s.stgt i 0
  | .wq n w => let q := s.wq n; (match w with | 0 => q.w0 | 1 => q.w1 | _ => q.head)
  | .slot c w => (s.slot c).word w

/-- What a read clears (R10). -/
def State.csClear (s : State) (r : CsReg) : State :=
  match r with
  | .evq n 3 => { s with evq := vset s.evq n { vget s.evq n .none0 with drop := 0 } }
  | .ctstat i => { s with ctstat := vset s.ctstat i (setFld (vget s.ctstat i 0) 48 16 0) }
  | .drstat c => { s with drstat := vset s.drstat c 0 }
  | .link l => { s with links := vset s.links l (setFld (vget s.links l 0) 0 16 0) }
  | _ => s

/-- A read of the control space at an offset. -/
def State.csRead (s : State) (off : Nat) : W64 × State :=
  match csReg off with
  | some r => (s.csValue r, s.csClear r)
  | none => (0, s)

/-- A write to a register of a work queue (R452). -/
def State.wqWrite (s : State) (n w : Nat) (data : W64) : State :=
  let q := s.wq n
  match w with
  | 0 =>
    let err : W64 := if q.w0.getLsbD 62 && !data.getLsbD 62 then 1 <<< 62 else 0
    (s.setWq n { q with w0 := (data &&& (maskBits 63 63 ||| maskBits 55 52 ||| maskBits 51 0)) ||| err }).readTail n
  | 1 => (s.setWq n { q with w1 := data &&& (maskBits 63 61 ||| maskBits 51 0) }).readTail n
  | _ => s

/-- A write to a register of an event queue (R502). -/
def State.evqWrite (s : State) (n w : Nat) (data : W64) : State :=
  let e := vget s.evq n .none0
  match w with
  | 0 =>
    let ovf : W64 := if e.w0.getLsbD 62 && !data.getLsbD 62 then 1 <<< 62 else 0
    { s with evq := vset s.evq n { e with w0 := (data &&& (maskBits 63 63 ||| maskBits 55 52 ||| maskBits 43 12)) ||| ovf } }
  | 2 => { s with evq := vset s.evq n { e with head := data } }
  | _ => s

/-- A write to a word of the slot table: W0 with its STATE (R468), the other words in every state (R467). -/
def State.slotWrite (s : State) (c w : Nat) (data : W64) : State :=
  let r := s.slot c
  let put (q : SlotRegs) : State := { s with slots := vset s.slots c (r.keep q) }
  match w with
  | 0 => s.slotWrite0 c data
  | 1 => put { r with w1 := data }
  | 2 => put { r with w2 := data }
  | 3 => put { r with w3 := data }
  | 4 => put { r with w4 := data }
  | 5 => put { r with w5 := data }
  | _ => put { r with w6 := data }

/-- A write to a register; none while the check of a partition register waits (R440). -/
def State.csStore (s : State) (r : CsReg) (data : W64) : Option State :=
  match r with
  | .part n w => s.partWrite n w data
  | .fdstat n => some (s.fdClear n data)
  | .sched n => some { s with sched := vset s.sched n ((vget s.sched n 0 &&& maskBits 63 48 &&& ~~~data) ||| (data &&& 0xFFFF)) }
  | .xl n w => some (s.xlWrite n w data)
  | .shoot w => some (if w = 0 then s.shootWrite data else { s with shootW1 := data &&& maskBits 35 0 })
  | .pinq w => some (if w = 0 then { s with pinq := data &&& maskBits 43 16 } else s)
  | .migr w => some (match w with
      | 0 => s.migrWrite data
      | 1 => { s with migrW1 := data &&& maskBits 63 56 }
      | _ => { s with migrW2 := data &&& maskBits 43 16 })
  | .evq n w => some (s.evqWrite n w data)
  | .svc => some (s.svcWrite data)
  | .pwrcfg => some (s.pwrWrite data)
  | .cool w => some (if w = 0 then { s with coolW0 := data &&& maskBits 43 3 } else { s with coolW1 := data &&& maskBits 31 0 })
  | .stgt i => some { s with stgt := vset s.stgt i (setFld (vget s.stgt i 0) 0 32 (fld data 0 32)) }
  | .wq n w => some (s.wqWrite n w data)
  | .slot c w => some (s.slotWrite c w data)
  | .ctstat _ | .zone _ | .drstat _ | .boot | .link _ => some s

/-- A write to the control space at an offset. -/
def State.csWrite (s : State) (off : Nat) (data : W64) : Option State :=
  match csReg off with
  | some r => s.csStore r data
  | none => some s

/-- REGISTER_WRITE: a write by a hart of the keystone, or its load, which clears what a read clears; an access of another size than 8 bytes
reads 0 and writes nothing. -/
def execRegisterWrite (acc : CsAccess) (data : W64) (s : State) : Out :=
  if acc.size ≠ 8 then .next s
  else if acc.load then .next (s.csRead acc.off.toNat).2
  else match s.csWrite acc.off.toNat data with
    | some s => .next s
    | none => .next { s with retry := true }

end Sys2Proof.Machine
end

