-- ==== Sys2Proof/Machine/Host.lean ====
section
/-! DEFINITION. The host port (24 R528, R529), the management channel (R530), reset and boot (R531-R534), attestation (R535), storage
connections (R536) and version reports (R538). -/

namespace Sys2Proof.Machine

/-! ## RDMA (R528, R529, R453) -/

/-- A write to a registered tail word is signalled to the keystone. -/
def State.signalTails (s : State) (part va n : Nat) : State :=
  (List.range 1024).foldl (fun s i =>
    let q := s.wq i
    let t := fld q.w1 0 52
    if q.part = part ∧ t < va + n ∧ va < t + 8 then s.readTail i else s) s

/-- RDMA_WRITE of a queue pair: a held access is taken up again later (R495, R496), before the later writes of its queue pair (R529,
State.again); one that fails is answered with a remote access error, and a damaged entry that its walk met is reported (R511). -/
def execRdmaWrite (port : QueuePair) (va : BitVec 52) (data : List (BitVec 8)) (s : State) : Out :=
  let part := port.part
  if 8 ≤ part then .fault .noSuchUnit else
  match s.ioReach part permW va.toNat data.length with
  | .error none => .next { s with retry := true }
  | .error (some f) => .next { s.ioMet part f with rdmaOut := s.rdmaOut ++ [none] }
  | .ok (sn, s) =>
    let (ok, s) := s.ioWrite part sn va.toNat data
    if ok then .next (s.signalTails part va.toNat data.length) else .next { s with retry := true }

/-- RDMA_READ: served at the points of coherence. -/
def execRdmaRead (part : Nat) (va : BitVec 52) (len : Nat) (s : State) : Out :=
  if 8 ≤ part then .fault .noSuchUnit else
  match s.ioReach part permR va.toNat len with
  | .error none => .next { s with retry := true }
  | .error (some f) => .next { s.ioMet part f with rdmaOut := s.rdmaOut ++ [none] }
  | .ok (sn, s) =>
    let (b, s) := s.readBytes sn va.toNat len
    .next { s with rdmaOut := s.rdmaOut ++ [some b] }

/-! ## The management channel (R530) -/

def State.stage (s : State) : Nat := fld s.boot 60 4

/-- The answer to a request: TYPE, STATUS, TAG, ARG, DATA, payload. -/
def State.respond (s : State) (type status : Nat) (tag : W32) (arg data : W64) (payload : List Byte) : State :=
  s.send { type := BitVec.ofNat 8 type, status := BitVec.ofNat 8 status, tag := tag, arg := arg, data := data, payload := payload }

/-- A request of a TYPE that is permitted in some stages; it is taken only over a connection, and is malformed with a reserved bit. -/
def State.request (s : State) (type : Nat) (stages : List Nat) (rsv : Bool) (tag : W32) (arg : W64) (f : State → State) : Out :=
  if !s.mgmtUp then .next s
  else if rsv then .next (s.respond type 1 tag arg 0 [])
  else if !stages.contains s.stage then .next (s.respond type 2 tag arg 0 [])
  else .next (f s)

/-- MGMT_CONNECT: one connection at a time. -/
def execMgmtConnect (s : State) : Out := .next (if s.powered then { s with mgmtUp := true } else s)
/-- MGMT_CONNECTION_CLOSED. -/
def execMgmtConnectionClosed (s : State) : Out := .next { s with mgmtUp := false }

/-- TYPEs that have a row of their own. -/
def mgmtTypes : List Nat := [2, 5, 6, 7, 8, 9]

/-- MGMT_CS_READ, TYPE 1. A request of TYPE 3 or 4 or of none of the table is answered as malformed. -/
def execMgmtCsRead (head : RawHead) (off : BitVec 64) (s : State) : Out :=
  if mgmtTypes.contains head.type.toNat then .next s else
  s.request head.type.toNat [3, 4] (head.rsv || head.type != 1) head.tag off fun s =>
    let (v, s) := s.csRead off.toNat
    s.respond 1 0 head.tag off v []

/-- MGMT_CS_WRITE, TYPE 2: the answer comes once the write is complete (R440). -/
def execMgmtCsWrite (head : ReqHead) (off data : BitVec 64) (s : State) : Out :=
  s.request 2 [3, 4] head.rsv head.tag off fun s =>
    match s.csWrite off.toNat data with
    | some s => s.respond 2 0 head.tag off 0 []
    | none => { s with retry := true }

/-! ## The image (R532, R534) -/

/-- Erasures of sectors are counted, saturating (R533). -/
def State.countErase (s : State) : State := { s with boot := setFld s.boot 0 32 (satAdd 32 (fld s.boot 0 32) Config.slotSectors) }

/-- IMAGE_CHUNK, TYPE 5: the first one erases the image slot. -/
def execImageChunk (head : ReqHead) (off : BitVec 64) (data : List (BitVec 8)) (s : State) : Out :=
  s.request 5 [2] head.rsv head.tag off fun s =>
    if 4096 < data.length ∨ Config.flashSize < off.toNat + data.length then s.respond 5 1 head.tag off 0 []
    else
      let s := if s.flashErased then s else { s.countErase with flash := [], flashErased := true }
      { s with flash := s.flash.setN off.toNat data }.respond 5 0 head.tag off 0 []

def State.flashN (s : State) (a n : Nat) : Nat := ofBytes (s.flash.getN a n)
def zeros (b : List Byte) : Bool := b.all fun x => decide (x = 0)

/-- A list cut or padded to n bytes. -/
def fitBytes (n : Nat) (b : List Byte) : List Byte := (b ++ List.replicate n 0).take n

def State.imageLen (s : State) : Nat := s.flashN 8 4

/-- The check of the image: FAIL of R533, or 0. -/
def State.verify (s : State) (flashError : Bool) : Nat :=
  let f := s.flash
  if flashError then 5
  else if s.flashN 0 4 ≠ 0x374C5745 ∨ 2 ^ 26 - 256 < s.imageLen ∨ Config.flashSize < 256 + s.imageLen
      ∨ !zeros (f.getN 12 52) ∨ !zeros (f.getN 96 32) ∨ !zeros (f.getN 192 64) then 1
  else if fitBytes 64 (Config.sha512 (f.getN 64 32)) ≠ fitBytes 64 Config.keyHash then 2
  else if s.flashN 4 4 < Config.minSvn then 3
  else if !Config.edVerify (f.getN 128 64) (f.getN 64 32)
      (fitBytes 64 (Config.sha512 (f.getN 0 128 ++ f.getN 256 s.imageLen))) then 4
  else 0

/-- An image that was being replaced and is not committed fails the check (R534). -/
def spoilImage (m : Memory) : Memory := m.setN 0 [0, 0, 0, 0]

/-- A link leads to another device and trains: the extent of its dimension is above 1 (R541). -/
def linkTrains (env : BootEnv) (l : Nat) : Bool := env.links.getLsbD l && fld env.idDev (12 + 4 * (l / 4)) 4 ≠ 0

/-- The links that come up: those that train with a peer that shares a version; each adopts version 1 (R538). -/
def bootLinks (env : BootEnv) : Vector W64 12 :=
  vecOf 12 fun l => if linkTrains env l && !env.strange.getLsbD l then BitVec.ofNat 64 (1 <<< 63 ||| 1 <<< 32) else 0

/-- A link whose peer shares no version stays down and is reported (R538, R512). -/
def State.linkReports (s : State) (env : BootEnv) : State :=
  ((List.range 12).filter fun l => linkTrains env l && env.strange.getLsbD l).foldl (fun s l => s.postEvent 8 10 none [BitVec.ofNat 64 l]) s

/-- BOOT with its fields (R533). -/
def bootWord (stage fail stack svn wr : Nat) : W64 := BitVec.ofNat 64 (stage <<< 60 ||| fail <<< 56 ||| stack <<< 52 ||| svn <<< 32 ||| wr)

/-- The markers of a module reset: what the random source of each stack controller gives is free (R514). -/
def State.drawMarkers (s : State) : State :=
  let (b, s) := s.freeBytes 128
  { s with markers := vecOf 16 fun i => BitVec.ofNat 64 (ofBytes ((b.drop (8 * i)).take 8)) }

/-- A module reset (R531): every register at its reset value, memory zero, boot in stage 0; the flash, its erasure counter and what has left
the module stay. -/
def State.moduleReset (s : State) (env : BootEnv) (commit : Bool) : State :=
  { State.reset with flash := if s.flashErased && !commit then spoilImage s.flash else s.flash, outbox := s.outbox,
                     freeCtr := s.freeCtr, time := 0, turn := s.turn, agenda := s.agenda,
                     boot := bootWord 0 0 0 0 (fld s.boot 0 32), booting := some env }.drawMarkers

/-- Boot passes from its stage to the next (R531, R532): 0, 1, then 2 where a check fails, else 3, in which the firmware starts and hart 3
drives the pump (R523), then 4, or 5 where a stack fails its training. -/
def State.bootNext (s : State) : State :=
  match s.booting with
  | none => s
  | some env =>
    let wr := fld s.boot 0 32
    match s.stage with
    | 0 => { s with boot := bootWord 1 0 0 0 wr }
    | 1 =>
      let f := s.verify env.flashError
      if f ≠ 0 then { s with boot := bootWord 2 f 0 0 wr, booting := none }
      else { s with boot := bootWord 3 0 0 (s.flashN 4 2) wr, pump := BitVec.ofNat 8 (pumpMin s.pwrcfg) }
    | 3 =>
      let svn := fld s.boot 32 16
      (match env.failStack with
      | some st => { s with boot := bootWord 5 6 st.toNat svn wr, booting := none }
      | none =>
        { s with boot := bootWord 4 0 0 svn wr, ext := env.ext, links := bootLinks env, idDev := env.idDev, booting := none }.linkReports env)
    | _ => { s with booting := none }

/-- A boot under way passes to its next stage, or not yet: how long a stage takes is free. -/
def State.bootGoes (s : State) : State :=
  if s.booting.isNone then s
  else
    let (b, s) := s.choose
    if b then s.bootNext else s

/-- MODULE_RESET, from power-on or from the reset pin. -/
def execModuleReset (env : BootEnv) (s : State) : Out := .next (s.moduleReset env false)

/-- IMAGE_COMMIT, TYPE 6: the answer, then a module reset. -/
def execImageCommit (head : ReqHead) (env : BootEnv) (s : State) : Out :=
  s.request 6 [2] head.rsv head.tag 0 fun s => (s.respond 6 0 head.tag 0 0 []).moduleReset env true

/-- POWER_LOSS: nothing but the flash survives; a loss that tears an image being written leaves one that fails the check (R534). -/
def execPowerLoss (torn : Bool) (s : State) : Out :=
  let keep := BitVec.ofNat 64 (fld s.boot 0 32)
  .next { State.reset with flash := if torn || s.flashErased then spoilImage s.flash else s.flash, boot := keep, powered := false,
                           outbox := s.outbox, freeCtr := s.freeCtr, turn := s.turn, agenda := s.agenda }

/-! ## Reports (R535, R538) -/

/-- The version report. -/
def State.versionReport (s : State) : W64 :=
  BitVec.ofNat 64 (1 <<< 48 ||| 1 <<< 32 ||| s.ext.toNat <<< 16 |||
    (List.range 12).foldl (fun a l => a + b2n (s.linkUp l) <<< l) 0)

/-- VERSION_REPORT, TYPE 8: DATA holds the report, and ARG holds BOOT, which this request reads in every stage (R533). -/
def execVersionReport (head : ReqHead) (s : State) : Out :=
  s.request 8 [0, 1, 2, 3, 4, 5] head.rsv head.tag 0 fun s => s.respond 8 0 head.tag s.boot s.versionReport []

/-- The measurement log. -/
def State.measurements (s : State) : List Byte :=
  let record := toBytes 4 (s.flashN 4 4) ++ toBytes 2 (fld s.boot 32 16) ++ [0, 0] ++ toBytes 8 s.versionReport.toNat
  fitBytes 64 (Config.sha512 (s.flash.getN 0 (256 + s.imageLen))) ++ fitBytes 64 Config.keyHash ++ fitBytes 64 (Config.sha512 record)

/-- ATTESTATION, TYPE 7: the key and the log, then the signature over the nonce and the log. -/
def execAttestation (head : ReqHead) (nonce : List (BitVec 8)) (s : State) : Out :=
  s.request 7 [3, 4] head.rsv head.tag 0 fun s =>
    if nonce.length ≠ 32 then s.respond 7 1 head.tag 0 0 []
    else
      let log := s.measurements
      let s := s.respond 7 0 head.tag 0 0 (fitBytes 32 Config.identityKey ++ log ++ List.replicate 32 0)
      s.respond 7 0 head.tag 0 0 (fitBytes 64 (Config.edSign (fitBytes 64 (Config.sha512 (nonce ++ log)))))

/-! ## Storage targets (R530, R536) -/

/-- STORAGE_CONNECTION, TYPE 9: the target is UP, with blocks of 4 KiB where `big`, else of 512 bytes. -/
def execStorageConnection (head : ReqHead) (tgt : BitVec 64) (_ : List (BitVec 8)) (big : Bool) (s : State) : Out :=
  s.request 9 [4] head.rsv head.tag tgt fun s =>
    if 16 ≤ tgt.toNat then s.respond 9 1 head.tag tgt 0 []
    else
      let w := vget s.stgt tgt.toNat 0
      { s with stgt := vset s.stgt tgt.toNat (setFld (setFld w 63 1 1) 48 8 (if big then 12 else 9)) }.respond 9 0 head.tag tgt 0 []

/-- STORAGE_CONNECTION_LOST. -/
def execStorageConnectionLost (tgt : Nat) (s : State) : Out :=
  if 16 ≤ tgt then .fault .noSuchUnit else .next { s with stgt := vset s.stgt tgt (setFld (vget s.stgt tgt 0) 63 1 0) }

end Sys2Proof.Machine
end

