-- ==== Sys2Proof/Machine/Dispatch.lean ====
section
/-! DEFINITION. The dispatch: one arm for each row of the opcode table, one call of its meaning. -/

namespace Sys2Proof.Machine

/-- The meaning of one step. -/
def exec (i : Instr) (s : State) : Host.Outcome State Fault Refusal :=
  match i with
  | .nop st => Sys2Proof.Machine.execNop st s
  | .kset st d imm => Sys2Proof.Machine.execKset st d imm s
  | .kaddi st d a imm => Sys2Proof.Machine.execKaddi st d a imm s
  | .kadd st d a b => Sys2Proof.Machine.execKadd st d a b s
  | .ksub st d a b => Sys2Proof.Machine.execKsub st d a b s
  | .kand st d a b => Sys2Proof.Machine.execKand st d a b s
  | .kor st d a b => Sys2Proof.Machine.execKor st d a b s
  | .kxor st d a b => Sys2Proof.Machine.execKxor st d a b s
  | .kandn st d a b => Sys2Proof.Machine.execKandn st d a b s
  | .kshl st d a b => Sys2Proof.Machine.execKshl st d a b s
  | .kshr st d a b => Sys2Proof.Machine.execKshr st d a b s
  | .ksra st d a b => Sys2Proof.Machine.execKsra st d a b s
  | .kmin st d a b => Sys2Proof.Machine.execKmin st d a b s
  | .kmax st d a b => Sys2Proof.Machine.execKmax st d a b s
  | .kminu st d a b => Sys2Proof.Machine.execKminu st d a b s
  | .kmaxu st d a b => Sys2Proof.Machine.execKmaxu st d a b s
  | .kaddw st d a b => Sys2Proof.Machine.execKaddw st d a b s
  | .ksubw st d a b => Sys2Proof.Machine.execKsubw st d a b s
  | .kclz st d a => Sys2Proof.Machine.execKclz st d a s
  | .kmovq st d w => Sys2Proof.Machine.execKmovq st d w s
  | .loop st c imm l => Sys2Proof.Machine.execLoop st c imm l s
  | .ploop st c e imm l => Sys2Proof.Machine.execPloop st c e imm l s
  | .br st o => Sys2Proof.Machine.execBr st o s
  | .beqz st a o => Sys2Proof.Machine.execBeqz st a o s
  | .bnez st a o => Sys2Proof.Machine.execBnez st a o s
  | .bltz st a o => Sys2Proof.Machine.execBltz st a o s
  | .bgez st a o => Sys2Proof.Machine.execBgez st a o s
  | .bgtz st a o => Sys2Proof.Machine.execBgtz st a o s
  | .blez st a o => Sys2Proof.Machine.execBlez st a o s
  | .brq st w o => Sys2Proof.Machine.execBrq st w o s
  | .brqz st w o => Sys2Proof.Machine.execBrqz st w o s
  | .call st o => Sys2Proof.Machine.execCall st o s
  | .ret st => Sys2Proof.Machine.execRet st s
  | .mark st => Sys2Proof.Machine.execMark st s
  | .bara st w => Sys2Proof.Machine.execBara st w s
  | .barw st a w => Sys2Proof.Machine.execBarw st a w s
  | .bar st w => Sys2Proof.Machine.execBar st w s
  | .slipset st imm => Sys2Proof.Machine.execSlipset st imm s
  | .tdef st t a => Sys2Proof.Machine.execTdef st t a s
  | .tdefTable st t e u => Sys2Proof.Machine.execTdefTable st t e u s
  | .tundef st t => Sys2Proof.Machine.execTundef st t s
  | .budget st n imm => Sys2Proof.Machine.execBudget st n imm s
  | .phase st imm => Sys2Proof.Machine.execPhase st imm s
  | .kseed st a => Sys2Proof.Machine.execKseed st a s
  | .kseedx st a => Sys2Proof.Machine.execKseedx st a s
  | .endK st => Sys2Proof.Machine.execEndK st s
  | .limm t st e => Sys2Proof.Machine.execLimm t st e s
  | .aadd st d a b => Sys2Proof.Machine.execAadd st d a b s
  | .asub st d a b => Sys2Proof.Machine.execAsub st d a b s
  | .aand st d a b => Sys2Proof.Machine.execAand st d a b s
  | .aor st d a b => Sys2Proof.Machine.execAor st d a b s
  | .axor st d a b => Sys2Proof.Machine.execAxor st d a b s
  | .aandn st d a b => Sys2Proof.Machine.execAandn st d a b s
  | .ashl st d a b => Sys2Proof.Machine.execAshl st d a b s
  | .ashr st d a b => Sys2Proof.Machine.execAshr st d a b s
  | .asra st d a b => Sys2Proof.Machine.execAsra st d a b s
  | .amin st d a b => Sys2Proof.Machine.execAmin st d a b s
  | .amax st d a b => Sys2Proof.Machine.execAmax st d a b s
  | .aminu st d a b => Sys2Proof.Machine.execAminu st d a b s
  | .amaxu st d a b => Sys2Proof.Machine.execAmaxu st d a b s
  | .aaddw st d a b => Sys2Proof.Machine.execAaddw st d a b s
  | .asubw st d a b => Sys2Proof.Machine.execAsubw st d a b s
  | .aclz st d a => Sys2Proof.Machine.execAclz st d a s
  | .aaddi st d a imm => Sys2Proof.Machine.execAaddi st d a imm s
  | .ali st d imm => Sys2Proof.Machine.execAli st d imm s
  | .amovk st d a b h => Sys2Proof.Machine.execAmovk st d a b h s
  | .aqpop st d w => Sys2Proof.Machine.execAqpop st d w s
  | .ld st d a b z x c => Sys2Proof.Machine.execLd st d a b z x c s
  | .lds st a b z x c => Sys2Proof.Machine.execLds st a b z x c s
  | .tld st t g => Sys2Proof.Machine.execTld st t g s
  | .tldp st t g => Sys2Proof.Machine.execTldp st t g s
  | .tlds st t g => Sys2Proof.Machine.execTlds st t g s
  | .tldsc st t g => Sys2Proof.Machine.execTldsc st t g s
  | .tcopy st g w c => Sys2Proof.Machine.execTcopy st g w c s
  | .tgath st g w c => Sys2Proof.Machine.execTgath st g w c s
  | .tgathTile st t g w c => Sys2Proof.Machine.execTgathTile st t g w c s
  | .txp st g w c => Sys2Proof.Machine.execTxp st g w c s
  | .txpTile st t g w c => Sys2Proof.Machine.execTxpTile st t g w c s
  | .atomSwap st o a b z => Sys2Proof.Machine.execAtomSwap st o a b z s
  | .atomCas st o a b z => Sys2Proof.Machine.execAtomCas st o a b z s
  | .atomAdd st o a b z => Sys2Proof.Machine.execAtomAdd st o a b z s
  | .atomAnd st o a b z => Sys2Proof.Machine.execAtomAnd st o a b z s
  | .atomOr st o a b z => Sys2Proof.Machine.execAtomOr st o a b z s
  | .atomXor st o a b z => Sys2Proof.Machine.execAtomXor st o a b z s
  | .atomMin st o a b z => Sys2Proof.Machine.execAtomMin st o a b z s
  | .atomMax st o a b z => Sys2Proof.Machine.execAtomMax st o a b z s
  | .atomMinu st o a b z => Sys2Proof.Machine.execAtomMinu st o a b z s
  | .atomMaxu st o a b z => Sys2Proof.Machine.execAtomMaxu st o a b z s
  | .atomIncw st o a b z => Sys2Proof.Machine.execAtomIncw st o a b z s
  | .atomDecw st o a b z => Sys2Proof.Machine.execAtomDecw st o a b z s
  | .atomFaddb st o a b z => Sys2Proof.Machine.execAtomFaddb st o a b z s
  | .atomFaddt st o a b z => Sys2Proof.Machine.execAtomFaddt st o a b z s
  | .atomFaddF32 st o a b => Sys2Proof.Machine.execAtomFaddF32 st o a b s
  | .atomFmaxF32 st o a b => Sys2Proof.Machine.execAtomFmaxF32 st o a b s
  | .await st a t w z => Sys2Proof.Machine.execAwait st a t w z s
  | .pref st l a b z c => Sys2Proof.Machine.execPref st l a b z c s
  | .rinit x st c n => Sys2Proof.Machine.execRinit x st c n s
  | .rclaim x st d n w => Sys2Proof.Machine.execRclaim x st d n w s
  | .rpub x st h n => Sys2Proof.Machine.execRpub x st h n s
  | .rwaitf x st n w => Sys2Proof.Machine.execRwaitf x st n w s
  | .rrel x st n => Sys2Proof.Machine.execRrel x st n s
  | .nmred st t g => Sys2Proof.Machine.execNmred st t g s
  | .invl1 st => Sys2Proof.Machine.execInvl1 st s
  | .invl1r st a b => Sys2Proof.Machine.execInvl1r st a b s
  | .add st d a b => Sys2Proof.Machine.execAdd st d a b s
  | .sub st d a b => Sys2Proof.Machine.execSub st d a b s
  | .and st d a b => Sys2Proof.Machine.execAnd st d a b s
  | .or st d a b => Sys2Proof.Machine.execOr st d a b s
  | .xor st d a b => Sys2Proof.Machine.execXor st d a b s
  | .andn st d a b => Sys2Proof.Machine.execAndn st d a b s
  | .shl st d a b => Sys2Proof.Machine.execShl st d a b s
  | .shr st d a b => Sys2Proof.Machine.execShr st d a b s
  | .sra st d a b => Sys2Proof.Machine.execSra st d a b s
  | .min st d a b => Sys2Proof.Machine.execMin st d a b s
  | .max st d a b => Sys2Proof.Machine.execMax st d a b s
  | .minu st d a b => Sys2Proof.Machine.execMinu st d a b s
  | .maxu st d a b => Sys2Proof.Machine.execMaxu st d a b s
  | .addw st d a b => Sys2Proof.Machine.execAddw st d a b s
  | .subw st d a b => Sys2Proof.Machine.execSubw st d a b s
  | .clz st d a => Sys2Proof.Machine.execClz st d a s
  | .mul st d a b => Sys2Proof.Machine.execMul st d a b s
  | .mulh st d a b => Sys2Proof.Machine.execMulh st d a b s
  | .mulhu st d a b => Sys2Proof.Machine.execMulhu st d a b s
  | .mulhsu st d a b => Sys2Proof.Machine.execMulhsu st d a b s
  | .div st d a b => Sys2Proof.Machine.execDiv st d a b s
  | .divu st d a b => Sys2Proof.Machine.execDivu st d a b s
  | .rem st d a b => Sys2Proof.Machine.execRem st d a b s
  | .remu st d a b => Sys2Proof.Machine.execRemu st d a b s
  | .mulw st d a b => Sys2Proof.Machine.execMulw st d a b s
  | .divw st d a b => Sys2Proof.Machine.execDivw st d a b s
  | .divuw st d a b => Sys2Proof.Machine.execDivuw st d a b s
  | .remw st d a b => Sys2Proof.Machine.execRemw st d a b s
  | .remuw st d a b => Sys2Proof.Machine.execRemuw st d a b s
  | .addi st d a imm => Sys2Proof.Machine.execAddi st d a imm s
  | .andi st d imm => Sys2Proof.Machine.execAndi st d imm s
  | .ori st d imm => Sys2Proof.Machine.execOri st d imm s
  | .xori st d imm => Sys2Proof.Machine.execXori st d imm s
  | .andni st d imm => Sys2Proof.Machine.execAndni st d imm s
  | .shli st d imm => Sys2Proof.Machine.execShli st d imm s
  | .shri st d imm => Sys2Proof.Machine.execShri st d imm s
  | .srai st d imm => Sys2Proof.Machine.execSrai st d imm s
  | .rori st d imm => Sys2Proof.Machine.execRori st d imm s
  | .li st d imm => Sys2Proof.Machine.execLi st d imm s
  | .seq st d a b => Sys2Proof.Machine.execSeq st d a b s
  | .sne st d a b => Sys2Proof.Machine.execSne st d a b s
  | .slt st d a b => Sys2Proof.Machine.execSlt st d a b s
  | .sltu st d a b => Sys2Proof.Machine.execSltu st d a b s
  | .sle st d a b => Sys2Proof.Machine.execSle st d a b s
  | .sleu st d a b => Sys2Proof.Machine.execSleu st d a b s
  | .sel st d a b => Sys2Proof.Machine.execSel st d a b s
  | .pushs st g => Sys2Proof.Machine.execPushs st g s
  | .pusha st g => Sys2Proof.Machine.execPusha st g s
  | .pushb st g => Sys2Proof.Machine.execPushb st g s
  | .pushk st g => Sys2Proof.Machine.execPushk st g s
  | .popl st d w => Sys2Proof.Machine.execPopl st d w s
  | .qpopf st d b w => Sys2Proof.Machine.execQpopf st d b w s
  | .chk st g => Sys2Proof.Machine.execChk st g s
  | .chkt st t => Sys2Proof.Machine.execChkt st t s
  | .fadd st d a b => Sys2Proof.Machine.execFadd st d a b s
  | .fsub st d a b => Sys2Proof.Machine.execFsub st d a b s
  | .fmul st d a b => Sys2Proof.Machine.execFmul st d a b s
  | .fmac st d a b => Sys2Proof.Machine.execFmac st d a b s
  | .fmin st d a b => Sys2Proof.Machine.execFmin st d a b s
  | .fmax st d a b => Sys2Proof.Machine.execFmax st d a b s
  | .feq st d a b => Sys2Proof.Machine.execFeq st d a b s
  | .flt st d a b => Sys2Proof.Machine.execFlt st d a b s
  | .fle st d a b => Sys2Proof.Machine.execFle st d a b s
  | .fcvtif st d a => Sys2Proof.Machine.execFcvtif st d a s
  | .fcvtfi st d a => Sys2Proof.Machine.execFcvtfi st d a s
  | .fabs st d a => Sys2Proof.Machine.execFabs st d a s
  | .fneg st d a => Sys2Proof.Machine.execFneg st d a s
  | .rdsys st d n => Sys2Proof.Machine.execRdsys st d n s
  | .wrsys st a n => Sys2Proof.Machine.execWrsys st a n s
  | .trap st c => Sys2Proof.Machine.execTrap st c s
  | .ebreak st c => Sys2Proof.Machine.execEbreak st c s
  | .vfadd st d a b m => Sys2Proof.Machine.execVfadd st d a b m s
  | .vfsub st d a b m => Sys2Proof.Machine.execVfsub st d a b m s
  | .vfmul st d a b m => Sys2Proof.Machine.execVfmul st d a b m s
  | .vfmin st d a b m => Sys2Proof.Machine.execVfmin st d a b m s
  | .vfmax st d a b m => Sys2Proof.Machine.execVfmax st d a b m s
  | .vfabs st d a m => Sys2Proof.Machine.execVfabs st d a m s
  | .vfneg st d a m => Sys2Proof.Machine.execVfneg st d a m s
  | .vfma st d a b c => Sys2Proof.Machine.execVfma st d a b c s
  | .vfms st d a b c => Sys2Proof.Machine.execVfms st d a b c s
  | .vfnma st d a b c => Sys2Proof.Machine.execVfnma st d a b c s
  | .vfnms st d a b c => Sys2Proof.Machine.execVfnms st d a b c s
  | .vadd st d a b m => Sys2Proof.Machine.execVadd st d a b m s
  | .vsub st d a b m => Sys2Proof.Machine.execVsub st d a b m s
  | .vmul st d a b m => Sys2Proof.Machine.execVmul st d a b m s
  | .vmulh st d a b m => Sys2Proof.Machine.execVmulh st d a b m s
  | .vmin st d a b m => Sys2Proof.Machine.execVmin st d a b m s
  | .vmax st d a b m => Sys2Proof.Machine.execVmax st d a b m s
  | .vminu st d a b m => Sys2Proof.Machine.execVminu st d a b m s
  | .vmaxu st d a b m => Sys2Proof.Machine.execVmaxu st d a b m s
  | .vand st d a b m => Sys2Proof.Machine.execVand st d a b m s
  | .vor st d a b m => Sys2Proof.Machine.execVor st d a b m s
  | .vxor st d a b m => Sys2Proof.Machine.execVxor st d a b m s
  | .vandn st d a b m => Sys2Proof.Machine.execVandn st d a b m s
  | .vadds st d a b m => Sys2Proof.Machine.execVadds st d a b m s
  | .vsubs st d a b m => Sys2Proof.Machine.execVsubs st d a b m s
  | .vabs st d a m => Sys2Proof.Machine.execVabs st d a m s
  | .vpopc st d a m => Sys2Proof.Machine.execVpopc st d a m s
  | .vshl st d a b m => Sys2Proof.Machine.execVshl st d a b m s
  | .vshr st d a b m => Sys2Proof.Machine.execVshr st d a b m s
  | .vsra st d a b m => Sys2Proof.Machine.execVsra st d a b m s
  | .vrot st d a b m => Sys2Proof.Machine.execVrot st d a b m s
  | .vshli st d a n m => Sys2Proof.Machine.execVshli st d a n m s
  | .vshri st d a n m => Sys2Proof.Machine.execVshri st d a n m s
  | .vsrai st d a n m => Sys2Proof.Machine.execVsrai st d a n m s
  | .vfeq st d a b m => Sys2Proof.Machine.execVfeq st d a b m s
  | .vflt st d a b m => Sys2Proof.Machine.execVflt st d a b m s
  | .vfle st d a b m => Sys2Proof.Machine.execVfle st d a b m s
  | .vfunord st d a b m => Sys2Proof.Machine.execVfunord st d a b m s
  | .veq st d a b m => Sys2Proof.Machine.execVeq st d a b m s
  | .vne st d a b m => Sys2Proof.Machine.execVne st d a b m s
  | .vlt st d a b m => Sys2Proof.Machine.execVlt st d a b m s
  | .vltu st d a b m => Sys2Proof.Machine.execVltu st d a b m s
  | .vle st d a b m => Sys2Proof.Machine.execVle st d a b m s
  | .vleu st d a b m => Sys2Proof.Machine.execVleu st d a b m s
  | .vsel st d a b m => Sys2Proof.Machine.execVsel st d a b m s
  | .vexp2 st d a m => Sys2Proof.Machine.execVexp2 st d a m s
  | .vlog2 st d a m => Sys2Proof.Machine.execVlog2 st d a m s
  | .vrcp st d a m => Sys2Proof.Machine.execVrcp st d a m s
  | .vrsq st d a m => Sys2Proof.Machine.execVrsq st d a m s
  | .vsqrt st d a m => Sys2Proof.Machine.execVsqrt st d a m s
  | .vcvtF32Bf16 st d a m => Sys2Proof.Machine.execVcvtF32Bf16 st d a m s
  | .vcvtF32F16 st d a m => Sys2Proof.Machine.execVcvtF32F16 st d a m s
  | .vcvtF32E4m3 st d a m => Sys2Proof.Machine.execVcvtF32E4m3 st d a m s
  | .vcvtF32E5m2 st d a m => Sys2Proof.Machine.execVcvtF32E5m2 st d a m s
  | .vcvtF32E2m1 st d a m => Sys2Proof.Machine.execVcvtF32E2m1 st d a m s
  | .vcvtBf16F32 st d a m => Sys2Proof.Machine.execVcvtBf16F32 st d a m s
  | .vcvtF16F32 st d a m => Sys2Proof.Machine.execVcvtF16F32 st d a m s
  | .vcvtE4m3F32Sat st d a m => Sys2Proof.Machine.execVcvtE4m3F32Sat st d a m s
  | .vcvtE4m3F32 st d a m => Sys2Proof.Machine.execVcvtE4m3F32 st d a m s
  | .vcvtE5m2F32Sat st d a m => Sys2Proof.Machine.execVcvtE5m2F32Sat st d a m s
  | .vcvtE5m2F32 st d a m => Sys2Proof.Machine.execVcvtE5m2F32 st d a m s
  | .vcvtE2m1F32 st d a m => Sys2Proof.Machine.execVcvtE2m1F32 st d a m s
  | .vcvtF32I32 st d a m => Sys2Proof.Machine.execVcvtF32I32 st d a m s
  | .vcvtI32F32 st d a m => Sys2Proof.Machine.execVcvtI32F32 st d a m s
  | .vcvtF32E8m0 st d a m => Sys2Proof.Machine.execVcvtF32E8m0 st d a m s
  | .vcvtE8m0F32 st d a m => Sys2Proof.Machine.execVcvtE8m0F32 st d a m s
  | .vcvtsrBf16 st d a b m => Sys2Proof.Machine.execVcvtsrBf16 st d a b m s
  | .vcvtsrF16 st d a b m => Sys2Proof.Machine.execVcvtsrF16 st d a b m s
  | .vcvtsrE4m3Sat st d a b m => Sys2Proof.Machine.execVcvtsrE4m3Sat st d a b m s
  | .vcvtsrE4m3 st d a b m => Sys2Proof.Machine.execVcvtsrE4m3 st d a b m s
  | .vcvtsrE5m2Sat st d a b m => Sys2Proof.Machine.execVcvtsrE5m2Sat st d a b m s
  | .vcvtsrE5m2 st d a b m => Sys2Proof.Machine.execVcvtsrE5m2 st d a b m s
  | .vcvtsrE2m1 st d a b m => Sys2Proof.Machine.execVcvtsrE2m1 st d a b m s
  | .vredfadd st d a m => Sys2Proof.Machine.execVredfadd st d a m s
  | .vredfmax st d a m => Sys2Proof.Machine.execVredfmax st d a m s
  | .vredfmin st d a m => Sys2Proof.Machine.execVredfmin st d a m s
  | .vredadd st d a m => Sys2Proof.Machine.execVredadd st d a m s
  | .vredmax st d a m => Sys2Proof.Machine.execVredmax st d a m s
  | .vredmin st d a m => Sys2Proof.Machine.execVredmin st d a m s
  | .vredmaxu st d a m => Sys2Proof.Machine.execVredmaxu st d a m s
  | .vredminu st d a m => Sys2Proof.Machine.execVredminu st d a m s
  | .vredand st d a m => Sys2Proof.Machine.execVredand st d a m s
  | .vredor st d a m => Sys2Proof.Machine.execVredor st d a m s
  | .vredxor st d a m => Sys2Proof.Machine.execVredxor st d a m s
  | .vrowld st t g w r v => Sys2Proof.Machine.execVrowld st t g w r v s
  | .vrowst st t g r v => Sys2Proof.Machine.execVrowst st t g r v s
  | .vperm st d a b c => Sys2Proof.Machine.execVperm st d a b c s
  | .vxpose8 st d a => Sys2Proof.Machine.execVxpose8 st d a s
  | .vsrbits st d a b m => Sys2Proof.Machine.execVsrbits st d a b m s
  | .vlane st d m => Sys2Proof.Machine.execVlane st d m s
  | .mand st d a b => Sys2Proof.Machine.execMand st d a b s
  | .mor st d a b => Sys2Proof.Machine.execMor st d a b s
  | .mxor st d a b => Sys2Proof.Machine.execMxor st d a b s
  | .mandn st d a b => Sys2Proof.Machine.execMandn st d a b s
  | .mnot st d a => Sys2Proof.Machine.execMnot st d a s
  | .mfirst st d a => Sys2Proof.Machine.execMfirst st d a s
  | .mfromv st d a => Sys2Proof.Machine.execMfromv st d a s
  | .mtov st d a => Sys2Proof.Machine.execMtov st d a s
  | .vbcast st d a => Sys2Proof.Machine.execVbcast st d a s
  | .vext st d a b => Sys2Proof.Machine.execVext st d a b s
  | .vins st d a b => Sys2Proof.Machine.execVins st d a b s
  | .mcount st d a => Sys2Proof.Machine.execMcount st d a s
  | .mfind st d a => Sys2Proof.Machine.execMfind st d a s
  | .wld st t x w r => Sys2Proof.Machine.execWld st t x w r s
  | .wldx st t x w r => Sys2Proof.Machine.execWldx st t x w r s
  | .wswap st => Sys2Proof.Machine.execWswap st s
  | .ashape st k => Sys2Proof.Machine.execAshape st k s
  | .mm st q t x w r y z => Sys2Proof.Machine.execMm st q t x w r y z s
  | .mmt st q t x w r y z => Sys2Proof.Machine.execMmt st q t x w r y z s
  | .mmu st q t g w r z => Sys2Proof.Machine.execMmu st q t g w r z s
  | .mmus st q t g w r z => Sys2Proof.Machine.execMmus st q t g w r z s
  | .mmz st q => Sys2Proof.Machine.execMmz st q s
  | .mmzAll st => Sys2Proof.Machine.execMmzAll st s
  | .drnF32 st q t r => Sys2Proof.Machine.execDrnF32 st q t r s
  | .drnBf16 st q t r => Sys2Proof.Machine.execDrnBf16 st q t r s
  | .drnBf16Sr st q t g r => Sys2Proof.Machine.execDrnBf16Sr st q t g r s
  | .drnE4m3Sat st q t r => Sys2Proof.Machine.execDrnE4m3Sat st q t r s
  | .drnE4m3 st q t r => Sys2Proof.Machine.execDrnE4m3 st q t r s
  | .drnE4m3SrSat st q t g r => Sys2Proof.Machine.execDrnE4m3SrSat st q t g r s
  | .drnE4m3Sr st q t g r => Sys2Proof.Machine.execDrnE4m3Sr st q t g r s
  | .drnE5m2Sat st q t r => Sys2Proof.Machine.execDrnE5m2Sat st q t r s
  | .drnE5m2 st q t r => Sys2Proof.Machine.execDrnE5m2 st q t r s
  | .drnE5m2SrSat st q t g r => Sys2Proof.Machine.execDrnE5m2SrSat st q t g r s
  | .drnE5m2Sr st q t g r => Sys2Proof.Machine.execDrnE5m2Sr st q t g r s
  | .drnMx8e4 st q t r => Sys2Proof.Machine.execDrnMx8e4 st q t r s
  | .drnMx8e4Sr st q t g r => Sys2Proof.Machine.execDrnMx8e4Sr st q t g r s
  | .drnMx8e5 st q t r => Sys2Proof.Machine.execDrnMx8e5 st q t r s
  | .drnMx8e5Sr st q t g r => Sys2Proof.Machine.execDrnMx8e5Sr st q t g r s
  | .drnMx4 st q t r => Sys2Proof.Machine.execDrnMx4 st q t r s
  | .drnMx4Sr st q t g r => Sys2Proof.Machine.execDrnMx4Sr st q t g r s
  | .drnBx24 st q t r => Sys2Proof.Machine.execDrnBx24 st q t r s
  | .drna st q t w r => Sys2Proof.Machine.execDrna st q t w r s
  | .merrq st d => Sys2Proof.Machine.execMerrq st d s
  | .merrs st d => Sys2Proof.Machine.execMerrs st d s
  | .merrc st => Sys2Proof.Machine.execMerrc st s
  | .rinitX st c n => Sys2Proof.Machine.execRinitX st c n s
  | .rclaimX st d n w => Sys2Proof.Machine.execRclaimX st d n w s
  | .rpubX st h n => Sys2Proof.Machine.execRpubX st h n s
  | .rwaitfX st n w => Sys2Proof.Machine.execRwaitfX st n w s
  | .rrelX st n => Sys2Proof.Machine.execRrelX st n s
  | .semadd st m n => Sys2Proof.Machine.execSemadd st m n s
  | .semclr st m => Sys2Proof.Machine.execSemclr st m s
  | .gland v => Sys2Proof.Machine.execGland v s
  | .glrd v => Sys2Proof.Machine.execGlrd v s
  | .glst v => Sys2Proof.Machine.execGlst v s
  | .skipz => Sys2Proof.Machine.execSkipz s
  | .skipzAcc => Sys2Proof.Machine.execSkipzAcc s
  | .abend => Sys2Proof.Machine.execAbend s
  | .vrowldSlot n d => Sys2Proof.Machine.execVrowldSlot n d s
  | .vrowstSlot n d => Sys2Proof.Machine.execVrowstSlot n d s
  | .vbcastConst d n => Sys2Proof.Machine.execVbcastConst d n s
  | .sadd st d a b => Sys2Proof.Machine.execSadd st d a b s
  | .ssub st d a b => Sys2Proof.Machine.execSsub st d a b s
  | .sand st d a b => Sys2Proof.Machine.execSand st d a b s
  | .sor st d a b => Sys2Proof.Machine.execSor st d a b s
  | .sxor st d a b => Sys2Proof.Machine.execSxor st d a b s
  | .sandn st d a b => Sys2Proof.Machine.execSandn st d a b s
  | .sshl st d a b => Sys2Proof.Machine.execSshl st d a b s
  | .sshr st d a b => Sys2Proof.Machine.execSshr st d a b s
  | .ssra st d a b => Sys2Proof.Machine.execSsra st d a b s
  | .smin st d a b => Sys2Proof.Machine.execSmin st d a b s
  | .smax st d a b => Sys2Proof.Machine.execSmax st d a b s
  | .sminu st d a b => Sys2Proof.Machine.execSminu st d a b s
  | .smaxu st d a b => Sys2Proof.Machine.execSmaxu st d a b s
  | .saddw st d a b => Sys2Proof.Machine.execSaddw st d a b s
  | .ssubw st d a b => Sys2Proof.Machine.execSsubw st d a b s
  | .sclz st d a => Sys2Proof.Machine.execSclz st d a s
  | .saddi st d a imm => Sys2Proof.Machine.execSaddi st d a imm s
  | .sli st d imm => Sys2Proof.Machine.execSli st d imm s
  | .smovk st d a b h => Sys2Proof.Machine.execSmovk st d a b h s
  | .st st d a w z o => Sys2Proof.Machine.execSt st d a w z o s
  | .tst st t g w r => Sys2Proof.Machine.execTst st t g w r s
  | .tscat st t g w r => Sys2Proof.Machine.execTscat st t g w r s
  | .stash st t h w r => Sys2Proof.Machine.execStash st t h w r s
  | .stashdrop st h => Sys2Proof.Machine.execStashdrop st h s
  | .atomnrSwap st o a b z => Sys2Proof.Machine.execAtomnrSwap st o a b z s
  | .atomnrCas st o a b z => Sys2Proof.Machine.execAtomnrCas st o a b z s
  | .atomnrAdd st o a b z => Sys2Proof.Machine.execAtomnrAdd st o a b z s
  | .atomnrAnd st o a b z => Sys2Proof.Machine.execAtomnrAnd st o a b z s
  | .atomnrOr st o a b z => Sys2Proof.Machine.execAtomnrOr st o a b z s
  | .atomnrXor st o a b z => Sys2Proof.Machine.execAtomnrXor st o a b z s
  | .atomnrMin st o a b z => Sys2Proof.Machine.execAtomnrMin st o a b z s
  | .atomnrMax st o a b z => Sys2Proof.Machine.execAtomnrMax st o a b z s
  | .atomnrMinu st o a b z => Sys2Proof.Machine.execAtomnrMinu st o a b z s
  | .atomnrMaxu st o a b z => Sys2Proof.Machine.execAtomnrMaxu st o a b z s
  | .atomnrIncw st o a b z => Sys2Proof.Machine.execAtomnrIncw st o a b z s
  | .atomnrDecw st o a b z => Sys2Proof.Machine.execAtomnrDecw st o a b z s
  | .atomnrFaddb st o a b z => Sys2Proof.Machine.execAtomnrFaddb st o a b z s
  | .atomnrFaddt st o a b z => Sys2Proof.Machine.execAtomnrFaddt st o a b z s
  | .atomnrFaddF32 st o a b => Sys2Proof.Machine.execAtomnrFaddF32 st o a b s
  | .atomnrFmaxF32 st o a b => Sys2Proof.Machine.execAtomnrFmaxF32 st o a b s
  | .nmadd st d a w o => Sys2Proof.Machine.execNmadd st d a w o s
  | .nmfence st => Sys2Proof.Machine.execNmfence st s
  | .bkcopy st g => Sys2Proof.Machine.execBkcopy st g s
  | .bkfill st g => Sys2Proof.Machine.execBkfill st g s
  | .bkand st g => Sys2Proof.Machine.execBkand st g s
  | .bkor st g => Sys2Proof.Machine.execBkor st g s
  | .bknot st g => Sys2Proof.Machine.execBknot st g s
  | .bkmaj st g => Sys2Proof.Machine.execBkmaj st g s
  | .bkwait st m n w => Sys2Proof.Machine.execBkwait st m n w s
  | .semsig st m n => Sys2Proof.Machine.execSemsig st m n s
  | .discard st a b => Sys2Proof.Machine.execDiscard st a b s
  | .clean st a b => Sys2Proof.Machine.execClean st a b s
  | .crs st g w => Sys2Proof.Machine.execCrs st g w s
  | .crsl st g w => Sys2Proof.Machine.execCrsl st g w s
  | .cag st g w => Sys2Proof.Machine.execCag st g w s
  | .cput st g w => Sys2Proof.Machine.execCput st g w s
  | .cget st g w => Sys2Proof.Machine.execCget st g w s
  | .cwait st a t w => Sys2Proof.Machine.execCwait st a t w s
  | .bundleFetch core w => Sys2Proof.Machine.execBundleFetch core w s
  | .loadDataArrival core => Sys2Proof.Machine.execLoadDataArrival core s
  | .progressTrap core w => Sys2Proof.Machine.execProgressTrap core w s
  | .tileFill core => Sys2Proof.Machine.execTileFill core s
  | .scaleEntryVisible core => Sys2Proof.Machine.execScaleEntryVisible core s
  | .coreComplete core => Sys2Proof.Machine.execCoreComplete core s
  | .barrierArrivalSignal core => Sys2Proof.Machine.execBarrierArrivalSignal core s
  | .carveStepMoveDone gang => Sys2Proof.Machine.execCarveStepMoveDone gang s
  | .matrixDispatch core => Sys2Proof.Machine.execMatrixDispatch core s
  | .preloadComplete core => Sys2Proof.Machine.execPreloadComplete core s
  | .streamLastRow core => Sys2Proof.Machine.execStreamLastRow core s
  | .matrixComplete core => Sys2Proof.Machine.execMatrixComplete core s
  | .bandReady core => Sys2Proof.Machine.execBandReady core s
  | .channelGranuleWrite core ch gran => Sys2Proof.Machine.execChannelGranuleWrite core ch gran s
  | .channelComplete core ch => Sys2Proof.Machine.execChannelComplete core ch s
  | .channelHalt core ch => Sys2Proof.Machine.execChannelHalt core ch s
  | .nmaddAccept core => Sys2Proof.Machine.execNmaddAccept core s
  | .nmaddApply core => Sys2Proof.Machine.execNmaddApply core s
  | .bankCommandStart core => Sys2Proof.Machine.execBankCommandStart core s
  | .bankRow core row => Sys2Proof.Machine.execBankRow core row s
  | .bankCommandComplete core => Sys2Proof.Machine.execBankCommandComplete core s
  | .bankCompletionRecord core => Sys2Proof.Machine.execBankCompletionRecord core s
  | .landingShardArrive part recd mb vals src => Sys2Proof.Machine.execLandingShardArrive part recd mb vals src s
  | .landingShardApply idx => Sys2Proof.Machine.execLandingShardApply idx s
  | .abutmentRun idx blk => Sys2Proof.Machine.execAbutmentRun idx blk s
  | .genBegin idx => Sys2Proof.Machine.execGenBegin idx s
  | .updateEnd idx => Sys2Proof.Machine.execUpdateEnd idx s
  | .collParticipantsMeet core slot peers => Sys2Proof.Machine.execCollParticipantsMeet core slot peers s
  | .flitReceive core slot flit => Sys2Proof.Machine.execFlitReceive core slot flit s
  | .linkFailure link => Sys2Proof.Machine.execLinkFailure link s
  | .remoteWindowAccess fctx win off op => Sys2Proof.Machine.execRemoteWindowAccess fctx win off op s
  | .remoteSignalRaise fctx win off => Sys2Proof.Machine.execRemoteSignalRaise fctx win off s
  | .collComplete core slot => Sys2Proof.Machine.execCollComplete core slot s
  | .collHeld core slot => Sys2Proof.Machine.execCollHeld core slot s
  | .rdmaWrite port va data => Sys2Proof.Machine.execRdmaWrite port va data s
  | .rdmaRead part va len => Sys2Proof.Machine.execRdmaRead part va len s
  | .mgmtConnect => Sys2Proof.Machine.execMgmtConnect s
  | .mgmtCsRead head off => Sys2Proof.Machine.execMgmtCsRead head off s
  | .mgmtCsWrite head off data => Sys2Proof.Machine.execMgmtCsWrite head off data s
  | .imageChunk head off data => Sys2Proof.Machine.execImageChunk head off data s
  | .imageCommit head env => Sys2Proof.Machine.execImageCommit head env s
  | .attestation head nonce => Sys2Proof.Machine.execAttestation head nonce s
  | .versionReport head => Sys2Proof.Machine.execVersionReport head s
  | .storageConnection head tgt addr big => Sys2Proof.Machine.execStorageConnection head tgt addr big s
  | .moduleReset env => Sys2Proof.Machine.execModuleReset env s
  | .kernelLaunch wq => Sys2Proof.Machine.execKernelLaunch wq s
  | .graphLaunch wq => Sys2Proof.Machine.execGraphLaunch wq s
  | .graphSeal wq => Sys2Proof.Machine.execGraphSeal wq s
  | .instanceEnd inst => Sys2Proof.Machine.execInstanceEnd inst s
  | .graphInstanceStart gi => Sys2Proof.Machine.execGraphInstanceStart gi s
  | .nodeKernel gi node => Sys2Proof.Machine.execNodeKernel gi node s
  | .nodeConditional gi node => Sys2Proof.Machine.execNodeConditional gi node s
  | .nodeSwitch gi node => Sys2Proof.Machine.execNodeSwitch gi node s
  | .nodeLoop gi node => Sys2Proof.Machine.execNodeLoop gi node s
  | .nodeBankCompletion gi node => Sys2Proof.Machine.execNodeBankCompletion gi node s
  | .nodeCollectiveCompletion gi node => Sys2Proof.Machine.execNodeCollectiveCompletion gi node s
  | .nodeStorageTransfer gi node => Sys2Proof.Machine.execNodeStorageTransfer gi node s
  | .nodeHostSignal gi node => Sys2Proof.Machine.execNodeHostSignal gi node s
  | .nvmeCommandEnd xfer cmd status data => Sys2Proof.Machine.execNvmeCommandEnd xfer cmd status data s
  | .ageingTick part => Sys2Proof.Machine.execAgeingTick part s
  | .gangBind part => Sys2Proof.Machine.execGangBind part s
  | .preemptSelect part => Sys2Proof.Machine.execPreemptSelect part s
  | .slotBind core w0 w1 w2 w3 w4 w5 w6 => Sys2Proof.Machine.execSlotBind core w0 w1 w2 w3 w4 w5 w6 s
  | .slotFree core => Sys2Proof.Machine.execSlotFree core s
  | .slotPreempt core => Sys2Proof.Machine.execSlotPreempt core s
  | .slotKill core => Sys2Proof.Machine.execSlotKill core s
  | .gangStart core => Sys2Proof.Machine.execGangStart core s
  | .saveComplete core failed => Sys2Proof.Machine.execSaveComplete core failed s
  | .deadlineOverrun core => Sys2Proof.Machine.execDeadlineOverrun core s
  | .partWrite n w data => Sys2Proof.Machine.execPartWrite n w data s
  | .fdstatClear n data => Sys2Proof.Machine.execFdstatClear n data s
  | .xlWrite n w data => Sys2Proof.Machine.execXlWrite n w data s
  | .shootdownStart w0 => Sys2Proof.Machine.execShootdownStart w0 s
  | .shootdownComplete => Sys2Proof.Machine.execShootdownComplete s
  | .migrMoveFrame w0 => Sys2Proof.Machine.execMigrMoveFrame w0 s
  | .migrMoveCant w0 => Sys2Proof.Machine.execMigrMoveCant w0 s
  | .migrEvictCant w0 => Sys2Proof.Machine.execMigrEvictCant w0 s
  | .migrBackCant w0 => Sys2Proof.Machine.execMigrBackCant w0 s
  | .migrDropCant w0 => Sys2Proof.Machine.execMigrDropCant w0 s
  | .migrComplete => Sys2Proof.Machine.execMigrComplete s
  | .lineWriteback pa page fits => Sys2Proof.Machine.execLineWriteback pa page fits s
  | .eventPostDeferred queue => Sys2Proof.Machine.execEventPostDeferred queue s
  | .svcResume w0 => Sys2Proof.Machine.execSvcResume w0 s
  | .svcChannelResume w0 => Sys2Proof.Machine.execSvcChannelResume w0 s
  | .svcChannelIdle w0 => Sys2Proof.Machine.execSvcChannelIdle w0 s
  | .svcCollContinue w0 => Sys2Proof.Machine.execSvcCollContinue w0 s
  | .svcCollAbort w0 => Sys2Proof.Machine.execSvcCollAbort w0 s
  | .svcTerminate w0 => Sys2Proof.Machine.execSvcTerminate w0 s
  | .svcPreempt w0 => Sys2Proof.Machine.execSvcPreempt w0 s
  | .pwrcfgWrite data => Sys2Proof.Machine.execPwrcfgWrite data s
  | .droopDetect cluster => Sys2Proof.Machine.execDroopDetect cluster s
  | .thermalRefresh zones power => Sys2Proof.Machine.execThermalRefresh zones power s
  | .throttleDecay zone => Sys2Proof.Machine.execThrottleDecay zone s
  | .hotPageMove stack => Sys2Proof.Machine.execHotPageMove stack s
  | .hbmScrub pa found => Sys2Proof.Machine.execHbmScrub pa found s
  | .sramScrub core at' found => Sys2Proof.Machine.execSramScrub core at' found s
  | .hbmRefresh stack => Sys2Proof.Machine.execHbmRefresh stack s
  | .hbmRetrain stack => Sys2Proof.Machine.execHbmRetrain stack s
  | .linkRetrain link => Sys2Proof.Machine.execLinkRetrain link s
  | .correctedSummary unit stack frame off => Sys2Proof.Machine.execCorrectedSummary unit stack frame off s
  | .registerWrite acc data => Sys2Proof.Machine.execRegisterWrite acc data s
  | .storePerformed core => Sys2Proof.Machine.execStorePerformed core s
  | .supplyRecovered cluster stretched => Sys2Proof.Machine.execSupplyRecovered cluster stretched s
  | .mgmtConnectionClosed => Sys2Proof.Machine.execMgmtConnectionClosed s
  | .storageConnectionLost tgt => Sys2Proof.Machine.execStorageConnectionLost tgt s
  | .powerLoss torn => Sys2Proof.Machine.execPowerLoss torn s

end Sys2Proof.Machine
end

