-- ==== Sys2Proof/Machine/Part.lean ====
section
/-! DEFINITION. What a walker does with the bundle that it has fetched: the legality of the bundle and of its own syllables (06 R200-R205),
the issue of its part as a unit (02 R46, R47), the loop engine's turn (02 R64, R77-R79, 07 R227), the bundles of abutment programs
(11 R361-R366), and which step comes next (log 1). It stands after the dispatch, since a part is a row of executions. -/

namespace Sys2Proof.Machine

/-! ## Syllables of a bundle -/

/-- Stream tag (R44), STAGE (R182). -/
def tagOf (w : W32) : Nat := fld w 30 2
def stageOf (w : W32) : Nat := fld w 28 2
def streamTag : Walker → Nat
  | .A => 1 | .X => 2 | .S => 3
/-- A syllable that is not the pad (R177). -/
def isSyl (w : W32) : Bool := w != padWord
/-- A LIMM, of any stream (R199). -/
def isLimm (w : W32) : Bool := isSyl w && decide (sylMajor w = 0x3F)

/-- Slot of the base of the LIMM in slot i (R189). -/
def limmBase (ws : List W32) (i : Nat) : Option Nat :=
  ((List.range i).filter fun j =>
    let w := nth ws j padWord
    isSyl w && !isLimm w && decide (tagOf w = tagOf (nth ws i padWord))).getLast?

/-- ext22 values of the LIMMs whose base stands in slot b, in slot order (R189). -/
def extsOf (ws : List W32) (b : Nat) : List (BitVec 22) :=
  (List.range ws.length).filterMap fun i =>
    let w := nth ws i padWord
    if isLimm w && decide (limmBase ws i = some b) then some (BitVec.ofNat 22 (fld w 0 22)) else none

/-- The PLOOP whose body holds the walker's position (R65). -/
def WalkerSt.ploop (x : WalkerSt) : Option Loop :=
  x.loops.getLast?.filter fun l => l.pl && l.holds x.pc

/-! ## Legality (R200-R205) -/

/-- Causes that depend on the loop: the stage (R65), and control syllables inside a body. -/
def loopCauses (pl : Option Loop) (w : W32) (i : Option Instr) : Option Nat :=
  match pl with
  | none => if stageOf w = 0 then none else some 6
  | some l => minCause [if stageOf w < l.d then none else some 6, if i.any Instr.noPloop then some 7 else none]

/-- Cause 8: a LIMM without a base, or whose base cannot take it (R191). -/
noncomputable def limmCause (ws : List W32) (i : Nat) : Option Nat :=
  match limmBase ws i with
  | none => some 8
  | some b =>
    if stageOf (nth ws b padWord) ≠ stageOf (nth ws i padWord) then some 8
    else match decode (nth ws b padWord) with
      | .ok y => if y.immField.isSome then none else some 8
      | .error _ => none

/-- A syllable as it decodes: the stage of one that exists only in abutment programs is judged with the loop, as that of any other (R65, R182,
R205). -/
def unstaged (w : W32) : W32 :=
  if tagOf w = 2 ∧ 0x38 ≤ sylMajor w ∧ sylMajor w ≤ 0x3A then w &&& 0xCFFFFFFF else w

/-- The lowest cause that makes the syllable in slot i illegal. -/
noncomputable def sylCause (pl : Option Loop) (ws : List W32) (i : Nat) : Option Nat :=
  let w := nth ws i padWord
  if !isSyl w then none
  else if isLimm w then minCause [loopCauses pl w none, limmCause ws i]
  else match decode (unstaged w) with
    | .error c => minCause [some c, loopCauses pl w none]
    | .ok y => minCause [loopCauses pl w (some y), y.immCause (extsOf ws i), if y.abutOnly then some 10 else none]

/-- The limits of R48, and whether the syllable in slot i exceeds one. -/
def overLimit (ws : List W32) (i : Nat) : Bool :=
  let w := nth ws i padWord
  let here := (ws.take (i + 1)).filter fun v => isSyl v && decide (tagOf v = tagOf w)
  let matrix (v : W32) : Bool := decide (0x20 ≤ sylMajor v) && decide (sylMajor v ≤ 0x2F)
  let vector (v : W32) : Bool := decide (0x10 ≤ sylMajor v) && decide (sylMajor v ≤ 0x1F)
  isSyl w && (decide (nth [2, 3, 4, 2] (tagOf w) 0 < here.length)
    || (decide (tagOf w = 2) && matrix w && decide (1 < here.countP matrix))
    || (decide (tagOf w = 2) && vector w && decide (2 < here.countP vector)))

/-- Why the bundle is illegal: the lowest slot at which a reason applies, and its lowest cause (R200, R203). -/
noncomputable def bundleCause (pl : Option Loop) (ws : List W32) : Option (Nat × Nat) :=
  (List.range ws.length).findSome? fun i =>
    (minCause [if overLimit ws i then some 9 else none,
      if tagOf (nth ws i padWord) = 0 then sylCause pl ws i else none]).map fun c => (i, c)

/-- The walker's own syllable that is illegal, lowest slot first (R202, R203). -/
noncomputable def ownCause (w : Walker) (pl : Option Loop) (ws : List W32) : Option (Nat × Nat) :=
  (List.range ws.length).findSome? fun i =>
    if tagOf (nth ws i padWord) = streamTag w then (sylCause pl ws i).map fun c => (i, c) else none

/-! ## Issue of a part (R46, R47, R64, R74) -/

/-- Slots of the walker's part: K syllables and its own (R45, R46). -/
def ownSlots (w : Walker) (ws : List W32) : List Nat :=
  (List.range ws.length).filter fun i =>
    let v := nth ws i padWord
    isSyl v && (decide (tagOf v = 0) || decide (tagOf v = streamTag w))

/-- A stage-s syllable acts in the present trip (R64, R77, R78). -/
def acts (pl : Option Loop) (s : Nat) : Bool :=
  match pl with
  | none => true
  | some l => decide (l.lo + s ≤ l.j) && decide (l.j - s < l.bound)

/-- The syllable in slot i is at hand, with its LIMMs. -/
def State.atSlot (s : State) (ws : List W32) (i : Nat) : State :=
  { s with issue := { s.issue with slot := i, exts := extsOf ws i } }

/-- The syllables of a part one after another, lowest slot first, until one stops the walker. -/
noncomputable def issueSlots (ws : List W32) (pl : Option Loop) : List Nat → State → Out
  | [], s => .next s
  | i :: r, s =>
    match decode (nth ws i padWord) with
    | .error _ => issueSlots ws pl r s
    | .ok y =>
      if !acts pl (stageOf (nth ws i padWord)) then issueSlots ws pl r s
      else match exec y (s.atSlot ws i) with
        | .next t => if t.curW.run = .stopped then .next t else issueSlots ws pl r t
        | .fault f => .fault f
        | .refused f => .refused f

/-! ## Position (R49, R227, R77-R79) -/

/-- A walker that ends the last trip of a cut loop has reached its stopping place; one that was resumed meanwhile goes on. -/
def WalkerSt.atCut (x : WalkerSt) : WalkerSt := { x with pre := if x.pre = .no then .no else .now }

/-- Sequential advance past the Last of the innermost loops of the present call level (R227). -/
def loopEnds : Nat → WalkerSt → VA → WalkerSt
  | 0, x, nxt => { x with pc := nxt }
  | f + 1, x, nxt =>
    match x.loops.getLast? with
    | none => { x with pc := nxt }
    | some l =>
      let rest := x.loops.dropLast
      if x.loops.length ≤ x.callBase ∨ x.pc ≠ l.last then { x with pc := nxt }
      else if l.j + 1 < l.trips then { x with pc := l.first, loops := rest ++ [{ l with j := l.j + 1 }] }
      else
        let y : WalkerSt := { x with loops := rest, lc := vset x.lc rest.length (BitVec.ofNat 64 l.n) }
        match l.cut with
        | [] => loopEnds f y (l.last + 32)
        | c :: cs =>
          if c < l.n then
            { x with pc := l.first, loops := rest ++ [{ l with j := c, lo := c, cut := cs }] }.atCut
          else loopEnds f y.atCut (l.last + 32)

/-- The walker passes its bundle (R49): to the target that the part has set, or sequentially. -/
def WalkerSt.pass (x : WalkerSt) (next : Option VA) : WalkerSt :=
  let x := { x with walk := x.walk + 1, stalls := [], got := [] }
  match next with
  | some t => { x with pc := t }
  | none => loopEnds (x.loops.length + 1) x (x.pc + 32)

/-- Arrivals at bundles that all three walkers have passed are forgotten. -/
def Core.purge (k : Core) : Core :=
  { k with arrivals := k.arrivals.filter fun e => !([Walker.A, .X, .S].all fun o => (k.wk o).passed e.1) }

/-- Walker w of core k has issued its part of bundle n; its accesses of that bundle count as after a MARK of the bundle (R154). -/
def Core.commit (k : Core) (w : Walker) (n : W64) (next : Option VA) : Core :=
  let x := k.wk w
  let k := k.setWk w (if x.run = .ended then { x with stalls := [], got := [] } else x.pass next)
  let k : Core := match w with
    | .A => { k with loads := k.loads.map fun (l : LoadOp) => if l.walk = n then { l with epoch := x.marks } else l }
    | .S => { k with stores := k.stores.map fun (l : StoreOp) => if l.walk = n then { l with epoch := x.marks } else l }
    | .X => k
  k.trim.purge

/-- A part that stopped takes no effect but the stop (R74). -/
def State.partStop (s t : State) (rec' : Rec8) : State :=
  { s with freeCtr := t.freeCtr, issue := { s.issue with slot := t.issue.slot, errs := t.issue.errs } }.takeStop rec'

/-- A part that waits takes no effect (R46) but the arrival of its core at a BAR (R232), and the wait itself. -/
def State.partWait (s t : State) : State :=
  let k := t.cur
  ({ s with freeCtr := t.freeCtr,
            issue := { s.issue with waits := t.issue.waits, reg := t.issue.reg, overs := t.issue.overs } }.modCur
    fun x => { x with barPend := k.barPend, barCount := k.barCount }).takeWaits

/-- t: X's part after its syllables, s: before them. Of the units that its VROWSTs have written some may still be to come, by a free choice, and
then their fills are too (R148, R315). -/
def State.spread (s t : State) : State :=
  let us := unitsOf (t.issue.rows.map fun e => (e.1, 1))
  let (wait, t) := if us.length ≤ 1 then (false, t) else t.choose
  if !wait then t
  else
    let (l, t) := t.someOf us
    let back := t.issue.rows.filter fun e => l.contains (e.1 / 8)
    let late : Late := { walk := s.walk, cells := back.map fun e => (e.1, t.mem.get e.1, e.2), fills := t.issue.fills }
    let undo (k : Core) (r : TileRef) : Core :=
      let x := s.cur.tile r.t.toNat
      k.setTile r.t.toNat { k.tile r.t.toNat with fill := x.fill, psn := x.psn, idx := x.idx }
    { t with mem := back.foldl (fun (m : Memory) (e : Nat × Byte) => m.set e.1 ((m.get e.1 &&& ~~~e.2) ||| (s.mem.get e.1 &&& e.2))) t.mem,
             ue := l.foldl (fun u x => if s.ue.contains x then setAdd u x else u.erase x) t.ue }.modCur
      fun k => { late.fills.foldl undo k with lateRows := some late }

/-- X's part has read tile rows of several units: by a free choice it has read only some of them by now, and is issued again (R148, R156). -/
def State.rowsRead (s t : State) : Bool × State :=
  let us := unitsOf t.issue.reads
  let (part, t) := if us.length ≤ 1 then (false, t) else t.choose
  if !part then (false, t)
  else
    let (now, t) := t.someOf (us.filter fun u => !s.preW.got.any fun g => g.unit = u)
    (true, { s with freeCtr := t.freeCtr }.modW fun x =>
      { x with got := x.got ++ now.map fun u => ({ unit := u, bytes := s.rd (8 * u) 8, bad := s.marked (8 * u) 8 } : Got) })

/-- s: the part before its syllables; t: after them. A stop outranks a wait. -/
def State.settlePart (s t : State) : State :=
  match t.curW.run, t.curW.stop with
  | .stopped, some r => s.partStop t r
  | _, _ =>
    if t.issue.waits ≠ [] then s.partWait t
    else
      let (part, u) := s.rowsRead t
      if part then u else (s.spread u).modCur fun k => k.commit s.issue.w s.walk t.issue.next

/-- The walker that issues halts without a record (R201). -/
def State.haltHere (s : State) : State := s.modW fun x => { x with run := .halted, stalls := [], await := none, got := [] }

/-- The syllable in slot i opens a PLOOP of at least one iteration (R225, R226). -/
noncomputable def State.opensPloop (s : State) (ws : List W32) (i : Nat) : Bool :=
  match decode (nth ws i padWord) with
  | .ok (.ploop st c _ ic _) => loopCount st c ic (s.atSlot ws i) != 0
  | _ => false

/-- The walker is on its way to a stopping place of R80, and the bundle opens a PLOOP whose body it would enter. -/
noncomputable def State.beforePloop (s : State) (ws : List W32) : Bool :=
  (match s.curW.pre with
    | .upTo _ => true
    | _ => false) && (List.range ws.length).any fun i => isSyl (nth ws i padWord) && s.opensPloop ws i

/-- SEMCLRs of a part come first: an increment that reaches the semaphore in the same cycle counts from 0 (R146, R283). No other effect
depends on their place in the slot order. -/
def clearsFirst (ws : List W32) (l : List Nat) : List Nat :=
  let clr (i : Nat) : Bool := tagOf (nth ws i padWord) == 2 && sylMajor (nth ws i padWord) == 0x31 && fld (nth ws i padWord) 0 5 == 1
  l.filter clr ++ l.filter fun i => !clr i

/-- X's part reads or writes a g register that a MERRQ has still to write: the slot of the first such syllable (R218, R320). -/
noncomputable def State.gHeld (s : State) : Option Nat :=
  let pend := s.cur.mat.gPend
  if s.issue.w ≠ .X ∨ pend = [] then none
  else (ownSlots .X s.issue.words).find? fun i =>
    acts s.curW.ploop (stageOf (nth s.issue.words i padWord)) && (match decode (nth s.issue.words i padWord) with
      | .ok y => (gRegsOf y).any fun r => r ≠ 0 && pend.contains r
      | .error _ => false)

/-- The walker's part of the bundle at hand, with what it meets: it issues, waits or stops. -/
noncomputable def State.tryPart (s : State) : Out :=
  let ws := s.issue.words
  let pl := s.curW.ploop
  match s.gHeld with
  | some i => .next (s.settlePart (s.atSlot ws i).interlock)
  | none =>
  match issueSlots ws pl (clearsFirst ws (ownSlots s.issue.w ws)) s with
  | .next t => .next (s.settlePart t)
  | .fault f => .fault f
  | .refused f => .refused f

/-! ## MARK (R54) -/

/-- The slot of the MARK that A and S pass at this bundle, if they meet one. -/
def State.markSlot (s : State) : Option Nat :=
  if s.issue.w = .X then none
  else (List.range s.issue.words.length).find? fun i =>
    let w := nth s.issue.words i padWord
    isSyl w && tagOf w == 0 && sylMajor w == 0x0D && acts s.curW.ploop (stageOf w)

/-- The partner of A and S at a MARK. -/
def markPartner (w : Walker) : Walker := if w = .A then .S else .A

/-- The partner stands at the same bundle, at t, and may issue its part there now. -/
def State.partnerReady (t : State) (w : Walker) (n : W64) : Bool :=
  let x := t.cur.wk w
  x.run == .running && x.walk == n && x.due.isNone && !x.atPoint

/-- The issuing walker waits for its partner at the MARK in slot i; the part takes no effect. -/
def State.markWait (s : State) (i : Nat) (ctr : Nat) : State :=
  { s with freeCtr := ctr, issue := { s.issue with slot := i } }.waitOn 13 0 0 |>.takeWaits

/-- t: the issuing walker has passed the bundle of a MARK in slot i, at s. Its partner passes it in the same cycle; where the partner's
part cannot issue, neither passes (R46, R54). -/
noncomputable def State.passMark (s t : State) (i : Nat) : Out :=
  let w := markPartner s.issue.w
  if (t.cur.wk w).passed s.walk then .next t
  else if !t.partnerReady w s.walk then .next (s.markWait i t.freeCtr)
  else
    let p := { t with issue := { s.issue with w := w, pre := t.cur } }
    if (ownCause w p.curW.ploop s.issue.words).isSome then .next (s.markWait i t.freeCtr)
    else match p.tryPart with
      | .next u => .next (if (u.cur.wk w).passed s.walk then u else s.markWait i u.freeCtr)
      | .fault f => .fault f
      | .refused f => .refused f

/-- X issues a VROW: what it has passed of earlier VROWSTs is written first (R315). -/
def State.rowsFirst (s : State) : State :=
  let vrow (w : W32) : Bool := isSyl w && tagOf w == 2 && sylMajor w == 0x1A
  if s.issue.w = .X ∧ s.cur.lateRows.isSome ∧ s.issue.words.any vrow then
    let s := s.allRows s.issue.core
    { s with issue := { s.issue with pre := s.cur, preMem := s.mem } }
  else s

/-- What the walker does with the bundle that it has fetched (R200-R203, R46, R54). A walker that drains under R80 is held at a bundle that opens a
PLOOP after the checks of the bundle and before those of its own syllables; no rule says which comes first (log 95). -/
noncomputable def State.issuePart (s : State) : Out :=
  let s := s.rowsFirst
  let ws := s.issue.words
  let pl := s.curW.ploop
  match bundleCause pl ws with
  | some (i, c) => .next (if s.isFirst then (s.atSlot ws i).illegal c else s.haltHere)
  | none =>
    if s.beforePloop ws then .next s.hold
    else match ownCause s.issue.w pl ws with
      | some (i, c) => .next ((s.atSlot ws i).illegal c)
      | none =>
        match s.tryPart, s.markSlot with
        | .next t, some i => if t.curW.passed s.walk then s.passMark t i else .next t
        | r, _ => r

/-! ## Abutment programs (R361, R365, R366) -/

/-- An abutment engine takes its next bundle up: no core issues. -/
def State.beginAbut (s : State) : State :=
  { s with issue := { Issue.reset with core := 480, abut := true, preMem := s.mem, preAbut := s.abut } }

/-- The syllables of a bundle of an abutment program, lowest slot first. -/
noncomputable def runAbut : List Instr → State → Out
  | [], s => .next s
  | y :: r, s =>
    match exec y s with
    | .next t => runAbut r t
    | .fault f => .fault f
    | .refused f => .refused f

/-- A SKIPZ that ends the run (R365). -/
def State.skips (s : State) (a : AbutRun) : Instr → Bool
  | .skipz => a.absent
  | .skipzAcc => s.accZero a
  | _ => false

/-- The engine issues the bundle that its run stands at, once all is written that the bundle before has still to write: alone the SKIPZ that ends the
run, else every syllable; then the run goes on. A bundle that meets a page under migration takes no effect, and is issued again (R495). The
adds that its lines have accepted come first (R169). -/
noncomputable def State.abutStep (s : State) : Out :=
  match s.abut with
  | none => .next s
  | some a =>
    let ys := (a.prog.getD a.pc (.replicate 8 padWord)).toList.filterMap fun w => if isSyl w then decodeAbut w else none
    if a.late ≠ [] then .next (s.lateRun a) else
    if a.skipped || a.ended then .next s.abutEnd else
    let s := (a.pieces.foldl (fun s p => s.recall p.1 p.2) (s.serve a.pieces)).beginAbut
    match runAbut (match ys.find? (s.skips a) with
      | some y => [y]
      | none => ys) s with
    | .next t => .next (if t.retry then { s with retry := true, freeCtr := t.freeCtr } else (s.delayRun t).abutNext)
    | .fault f => .fault f
    | .refused f => .refused f

/-! ## Which step comes next (log 1) -/

/-- n nanoseconds pass for a core whose cluster's clock is stretched: up to half of its cycles are lost (R518). -/
def Core.droops (k : Core) (n ctr : Nat) : Core := { k with lost := k.lost + Config.droop ctr % (17 * n / 2 + 1) }

/-- Time passes: TIME by a free number of nanoseconds below 2^32; the clocks follow it, but where droop stretches them (R252, R518). -/
def State.tick (s : State) : State :=
  let n := s.freeCtr
  let dt := ((Config.timeTick n).setWidth 32).setWidth 64
  let s := { s with time := s.time + dt, freeCtr := n + 1 }
  s.stretched.foldl (fun s c => (List.range 12).foldl (fun s i => s.modCore (12 * c + i) fun k => k.droops dt.toNat n) s) s

/-- The unwritten granule nearest the watermark of a channel. -/
def Chan.nextGranule (x : Chan) : Nat :=
  x.wmark + ((List.range 64).find? fun i => !x.written.contains (x.wmark + i)).getD 0

/-- The engine steps of core c, in round n. -/
noncomputable def coreStep (s : State) (c n : Nat) : Nat → Instr
  | 0 => .bundleFetch c .A
  | 1 => .bundleFetch c .X
  | 2 => .bundleFetch c .S
  | 3 => .loadDataArrival c
  | 4 => .storePerformed c
  | 5 => .tileFill c
  | 6 => .scaleEntryVisible c
  | 7 => .nmaddAccept c
  | 8 => .nmaddApply c
  | 9 => .matrixDispatch c
  | 10 => .preloadComplete c
  | 11 => .streamLastRow c
  | 12 => .matrixComplete c
  | 13 => .bandReady c
  | 14 => .channelHalt c (n % 16)
  | 15 => .channelGranuleWrite c (n % 16) (vget (s.core c).chans (n % 16) .reset).nextGranule
  | 16 => .channelComplete c (n % 16)
  | 17 => .bankCommandStart c
  | 18 => .bankRow c (match (s.core c).bankQ with
    | b :: _ => b.rows.length
    | [] => 0)
  | 19 => .bankCommandComplete c
  | 20 => .bankCompletionRecord c
  | 21 => .collParticipantsMeet c (n % 8) []
  | 22 => .collHeld c (n % 8)
  | 23 => .collComplete c (n % 8)
  | 24 => .barrierArrivalSignal c
  | 25 => .coreComplete c
  | 26 => .gangStart c
  | 27 => .deadlineOverrun c
  | _ => .saveComplete c false

/-- The n-th of a list of numbers, taken in turn; 0 of an empty list. -/
def inTurn (l : List Nat) (n : Nat) : Nat := nth l (n % Nat.max 1 l.length) 0

/-- The keystone's own steps, in round n. -/
noncomputable def keystoneStep (s : State) (n : Nat) : Nat → Instr
  | 0 => .kernelLaunch (n % 1024)
  | 1 => .graphLaunch (n % 1024)
  | 2 => .graphSeal (n % 1024)
  | 3 => .gangBind (n % 8)
  | 4 => .preemptSelect (n % 8)
  | 5 => .instanceEnd (inTurn (s.insts.map Inst.id ++ s.ginsts.map GraphInst.id) n)
  | 6 => .carveStepMoveDone (inTurn (s.gangs.map Gang.uid) n)
  | 7 => .shootdownComplete
  | 8 => .migrComplete
  | 9 => .eventPostDeferred (n % 9)
  | 10 => .landingShardApply (n % Nat.max 1 s.shards.length)
  | 11 => .genBegin (n % Nat.max 1 s.landings.length)
  | 12 =>
    let i := n % Nat.max 1 s.landings.length
    .abutmentRun i (match s.landings[i]? with
      | some l => nth l.todo 0 0
      | none => 0)
  | 13 => .updateEnd (n % Nat.max 1 s.landings.length)
  | 14 => .graphInstanceStart (inTurn (s.ginsts.map GraphInst.id) n)
  | 15 =>
    (match s.rsigs[n % Nat.max 1 s.rsigs.length]? with
    | some r => .remoteSignalRaise r.1 r.2.1 r.2.2
    | none => .shootdownComplete)
  | k =>
    let l := s.ginsts.flatMap fun g => (List.range g.nodes.length).map fun i => (g.id, i)
    let g := nth l (n % Nat.max 1 l.length) (0, 0)
    match k with
    | 16 => .nodeKernel g.1 g.2
    | 17 => .nodeConditional g.1 g.2
    | 18 => .nodeSwitch g.1 g.2
    | 19 => .nodeLoop g.1 g.2
    | 20 => .nodeBankCompletion g.1 g.2
    | 21 => .nodeCollectiveCompletion g.1 g.2
    | 22 => .nodeStorageTransfer g.1 g.2
    | _ => .nodeHostSignal g.1 g.2

/-- The step taken when no agenda says otherwise: each unit of the module in turn. -/
noncomputable def State.defaultStep (s : State) : Instr :=
  let p := s.turn % 30
  let r := s.turn / 30
  if p = 29 then keystoneStep s (r / 24) (r % 24) else coreStep s (r % 480) (r / 480) p

/-- One event: its meaning, and after a fetch the part. A syllable is no event: it is issued only as part of a bundle. -/
noncomputable def State.runEvent (s : State) (i : Instr) : Out :=
  if (encode i).isSome then .next s
  else match exec i s.tick with
    | .next t => (match i with
      | .bundleFetch _ _ => if t.issue.words = [] then .next t else t.issuePart
      | _ => .next t)
    | .fault f => .fault f
    | .refused f => .refused f

/-- What follows every step: signals and publications that wait for nothing more take effect, a boot under way goes on (R531), and
nothing is at hand. -/
def State.rest (s : State) : State := { s.settleAll.bootGoes with issue := .reset }

/-- The queue whose order an event keeps: the management channel (R530), or a queue pair whose writes are performed in order (R529). -/
def instrLine : Instr → Option Nat
  | .mgmtCsRead .. | .mgmtCsWrite .. | .imageChunk .. | .imageCommit .. | .attestation .. | .versionReport .. | .storageConnection .. => some 0
  | .rdmaWrite port _ _ => some (port.qp + 1)
  | _ => none

/-- An event that the module could not take up yet comes back later (R440, R447), ahead of what follows it in its queue. -/
def State.again (s : State) (i : Instr) : State :=
  if !s.retry then s
  else
    let mine (j : Instr) : Bool := (instrLine i).isSome && instrLine j == instrLine i
    { s with agenda := (s.agenda.filter fun j => !mine j) ++ i :: s.agenda.filter mine }

/-- An abutment run at hand goes on; where the agenda holds an event too, which of them is next is a free choice (log 41). -/
def State.abutNow (s : State) : Bool := s.abut.isSome && !s.retry && (s.agenda.isEmpty || !Config.choice s.freeCtr)

/-- Where the next step comes from: an abutment run at hand, the agenda, or the turn; after an event that had to wait, another source
has its turn. -/
noncomputable def State.nextStep (s : State) : Out :=
  let t := { s with retry := false, freeCtr := if s.abut.isSome then s.freeCtr + 1 else s.freeCtr }
  if s.abutNow then
    match t.abutStep with
    | .next u => .next u.rest
    | .fault f => .fault f
    | .refused f => .refused f
  else match s.agenda, s.retry && s.abut.isNone with
    | i :: r, false =>
      (match { t with agenda := r }.runEvent i with
      | .next u => .next (u.rest.again i)
      | .fault f => .fault f
      | .refused f => .refused f)
    | _, _ =>
      match { t with turn := t.turn + 1 }.runEvent t.defaultStep with
      | .next u => .next { u.rest with retry := false }
      | .fault f => .fault f
      | .refused f => .refused f

/-! ## A program put in place -/

/-- The syllable before a LIMM that stands alone: one that takes it (R191). -/
def limmHost (w : W32) : W32 :=
  (nth [0x00800000#32, 0x41000000#32, 0x81C00000#32, 0xC1000000#32] (tagOf w) 0) ||| BitVec.ofNat 32 (stageOf w <<< 28)

/-- The bundle that holds a syllable, and nothing else that acts. -/
def bundleFor (w : W32) : List W32 :=
  if isLimm w then [limmHost w, w] ++ List.replicate 6 padWord else w :: List.replicate 7 padWord

/-- Where the program stands: virtual and physical address. -/
def progAt : Nat := 0x40000
/-- A root table at 0x10000, one table below it at 0x20000, and a leaf of 1 GiB there that maps its addresses to themselves. -/
def progTables : List (Nat × W64) := [(0x10000, 0x8000000000020000), (0x20000, 0xF800000000000000)]

/-- The walker that runs a syllable; a K syllable is run by all, and shown on A. -/
def walkerFor (w : W32) : Walker :=
  match tagOf w with
  | 2 => .X
  | 3 => .S
  | _ => .A

/-- The loop state under which a syllable acts: its stage in a body of its own (R64). -/
def loopsFor (w : W32) : List Loop :=
  if stageOf w = 0 then []
  else [{ first := BitVec.ofNat 52 progAt, last := BitVec.ofNat 52 progAt, n := 1, d := 4, pl := true, opened := 0, j := stageOf w,
          lo := 0, cut := [] }]

/-- The walker of core 0 stands at the bundle, which is mapped, readable and executable. -/
noncomputable def State.placeCore (s : State) (w : W32) : State :=
  let v := walkerFor w
  let stand (x : WalkerSt) : WalkerSt :=
    { x with run := .running, pc := BitVec.ofNat 52 progAt, loops := loopsFor w, calls := [], stalls := [], pre := .no, await := none, got := [] }
  let s := s.modCore 0 fun k => { k.modWk v stand with acqHold := [], arrivals := [], lateRows := none }
  let s := s.modCore 0 fun k => if k.slipOk then k else { k with wS := { k.wS with walk := k.wA.walk } }
  let p := (s.core 0).part
  let x := vget s.xl p .none0
  let s := { s with xl := vset s.xl p { x with w0 := x.w0 ||| (1 <<< 63), root := 1 }, tlb := [],
                    ue := s.ue.filter fun u => !(decide (0x2000 ≤ u) && decide (u < 0xA000)) }
  let s := progTables.foldl (fun s e => s.wr64 e.1 e.2) s
  let s := s.wr progAt ((bundleFor w).flatMap fun x => toBytes 4 x.toNat)
  { s with agenda := [.bundleFetch 0 v], abut := none, retry := false }

/-- A run of an abutment engine on a block of memory at 0, whose program is the bundle. -/
def State.placeAbut (s : State) (w : W32) : State :=
  let run : AbutRun :=
    { lrec := 0, part := 0, blk := 0, key := 0, prog := [vecOf 8 fun i => nth (bundleFor w) i padWord], pc := 0,
      v := .replicate 32 (.replicate 64 0), m := .replicate 8 0, p := .replicate 16 0, acc := 0, rows := 8, cols := 8, bi := 0, bj := 0,
      slots := [], snap := [(0, 0)], isLanding := false, sparse := none, undo := none, late := [], closed := false, skipped := false, ended := false }
  { s with retry := false, abut := some run, agenda := [] }

/-- A syllable placed where the next step issues it: on core 0, or on an abutment engine where only those have it (R197). -/
noncomputable def State.place (s : State) (w : W32) : State :=
  if tagOf w = 2 ∧ 0x38 ≤ sylMajor w ∧ sylMajor w ≤ 0x3A then s.placeAbut w else s.placeCore w

end Sys2Proof.Machine
end

