-- ==== Sys2Proof/Machine/Step.lean ====
section
/-! DEFINITION. The step of the module, and a word placed where the next step issues it. -/

namespace Sys2Proof.Machine

/-- One step of the module (log 1). -/
noncomputable def step (s : State) : Out := s.nextStep

/-- s with an instruction placed where the next step fetches and issues it (log 9): every row that has an encoding has one syllable. -/
noncomputable def State.withFetchWord (s : State) (_nbits w : Nat) : State := s.place (BitVec.ofNat 32 w)

end Sys2Proof.Machine
end

