-- ==== Sys2Proof/Safety.lean ====
section
/-! DEFINITION. The terms in which claims are stated: what an instruction leaves alone, the registers as they stand after it, and the lists of
instructions of one shape with the results that the spec's tables give them. -/

namespace Sys2Proof.Machine

/-! ## Frames -/

/-- Every byte of every storage reads as before. -/
def sameMem (s t : State) : Prop := ∀ l, t.mem.get l = s.mem.get l

/-- A core issues, not an abutment engine. -/
def onCore (s : State) : Prop := s.issue.core < 480 ∧ s.issue.abut = false
/-- The unit that issues exists: a core, or an abutment engine with a run at hand. -/
def hasUnit (s : State) : Prop := (s.issue.abut = false → s.issue.core < 480) ∧ (s.issue.abut = true → s.abut.isSome)

/-- t is s but for the k registers in ds of the issuing walker. -/
def onlyK (s t : State) (ds : List Nat) : Prop :=
  t = s.modW (fun x => { x with k := t.curW.k }) ∧ (∀ j, j ∉ ds → vget t.curW.k j 0 = vget s.curW.k j 0) ∧ sameMem s t
/-- t is s but for the a registers in ds of the issuing core, which wait for no load any more. -/
def onlyA (s t : State) (ds : List Nat) : Prop :=
  t = s.modCur (fun k => { k with a := t.cur.a, aPend := t.cur.aPend, aBad := t.cur.aBad, loads := t.cur.loads })
  ∧ (∀ j, j ∉ ds → vget t.cur.a j 0 = vget s.cur.a j 0 ∧ t.cur.aPend.getLsbD j = s.cur.aPend.getLsbD j
      ∧ (t.cur.aBad.find? fun e => e.1 = j) = (s.cur.aBad.find? fun e => e.1 = j))
  ∧ t.cur.loads.length = s.cur.loads.length ∧ sameMem s t
/-- t is s but for the s registers in ds of the issuing core. -/
def onlyS (s t : State) (ds : List Nat) : Prop :=
  t = s.modCur (fun k => { k with s := t.cur.s }) ∧ (∀ j, j ∉ ds → vget t.cur.s j 0 = vget s.cur.s j 0) ∧ sameMem s t
/-- t is s but for the g registers in ds of the issuing core. -/
def onlyG (s t : State) (ds : List Nat) : Prop :=
  t = s.modCur (fun k => { k with g := t.cur.g })
  ∧ (∀ j, j ∉ ds → vget t.cur.g j ⟨0, false⟩ = vget s.cur.g j ⟨0, false⟩) ∧ sameMem s t

/-! ## Registers as they stand -/

def State.kNow (s : State) (d : BitVec 6) : W64 := if d = 0 then 0 else vget s.curW.k d.toNat 0
def State.aNow (s : State) (d : BitVec 6) : W64 := if d = 0 then 0 else vget s.cur.a d.toNat 0
def State.sNow (s : State) (d : BitVec 6) : W64 := if d = 0 then 0 else vget s.cur.s d.toNat 0
def State.gNow (s : State) (d : BitVec 6) : GReg := if d = 0 then ⟨0, false⟩ else vget s.cur.g d.toNat ⟨0, false⟩
/-- Lane i of v register r, of the unit that issues. -/
def State.vNow (s : State) (r i : Nat) : W32 :=
  if s.issue.abut then (match s.abut with
    | some a => vget (vget a.v r (.replicate 64 0)) i 0
    | none => 0)
  else vget (vget s.cur.v r (.replicate 256 0)) i 0
/-- Bit i of mask register r, of the unit that issues; m0 is all ones (R293). -/
def State.mNow (s : State) (r i : Nat) : Bool :=
  r = 0 || if s.issue.abut then (match s.abut with
    | some a => (vget a.m r 0).getLsbD i
    | none => false)
  else (vget s.cur.m r 0).getLsbD i

/-- t is s but for v register d of the unit that issues. -/
def onlyV (s t : State) (d : BitVec 5) : Prop :=
  (s.issue.abut = false → t = s.modCur fun k => { k with v := t.cur.v })
  ∧ (s.issue.abut = true → ∃ f : AbutRun → Vector (Vector W32 64) 32, t = { s with abut := s.abut.map fun a => { a with v := f a } })
  ∧ (∀ r i, r ≠ d.toNat → t.vNow r i = s.vNow r i) ∧ sameMem s t
/-- t is s but for mask register d of the unit that issues. -/
def onlyM (s t : State) (d : BitVec 3) : Prop :=
  (s.issue.abut = false → t = s.modCur fun k => { k with m := t.cur.m })
  ∧ (s.issue.abut = true → ∃ f : AbutRun → Vector (BitVec 64) 8, t = { s with abut := s.abut.map fun a => { a with m := f a } })
  ∧ (∀ r i, r ≠ d.toNat → t.mNow r i = s.mNow r i) ∧ sameMem s t

/-- What a source of an S syllable reads when SQ holds q, and what SQ holds after it: an s register, a k register or a loop counter as
the part found it, or the oldest entry of SQ, which leaves (R58, R186, R255); none: the entry is poisoned, or SQ is empty. -/
def State.sSource (s : State) (st : BitVec 2) (c : BitVec 6) (q : List QEnt) : Option (W64 × List QEnt) :=
  if c = 63 then (match q with
    | e :: r => if e.psn then none else some (e.value, r)
    | [] => none)
  else some (if c = 0 then 0 else if c.toNat < 16 then vget s.issue.pre.s c.toNat 0 else if c.toNat < 48 then s.rdK (c.toNat - 32)
    else s.rdLc st (c.toNat - 48), q)
/-- The issuing core with SQ holding q. -/
def State.withSQ (s : State) (q : List QEnt) : State := s.modCur fun k => { k with sq := q }

/-! ## Tables of results -/

/-- R219, rows 0 to 14: the results of the two-source integer operations. -/
def aluTable (x y : W64) : List W64 :=
  [x + y, x - y, x &&& y, x ||| y, x ^^^ y, x &&& ~~~y,
   BitVec.ofNat 64 (x.toNat * 2 ^ (y.toNat % 64)), BitVec.ofNat 64 (x.toNat / 2 ^ (y.toNat % 64)),
   BitVec.ofInt 64 (x.toInt / 2 ^ (y.toNat % 64)),
   if x.toInt ≤ y.toInt then x else y, if x.toInt ≤ y.toInt then y else x,
   if x.toNat ≤ y.toNat then x else y, if x.toNat ≤ y.toNat then y else x,
   BitVec.ofInt 64 ((x + y).setWidth 32).toInt, BitVec.ofInt 64 ((x - y).setWidth 32).toInt]
/-- R219, row 15: the number of leading zero bits of x is n. -/
def leadingZeros (x : W64) (n : Nat) : Prop := n ≤ 64 ∧ x.toNat < 2 ^ (64 - n) ∧ (n < 64 → 2 ^ (63 - n) ≤ x.toNat)

noncomputable def kAluOps (st : BitVec 2) (d a b : BitVec 6) : List Instr :=
  [.kadd st d a b, .ksub st d a b, .kand st d a b, .kor st d a b, .kxor st d a b, .kandn st d a b, .kshl st d a b, .kshr st d a b,
   .ksra st d a b, .kmin st d a b, .kmax st d a b, .kminu st d a b, .kmaxu st d a b, .kaddw st d a b, .ksubw st d a b]
noncomputable def aAluOps (st : BitVec 2) (d a b : BitVec 6) : List Instr :=
  [.aadd st d a b, .asub st d a b, .aand st d a b, .aor st d a b, .axor st d a b, .aandn st d a b, .ashl st d a b, .ashr st d a b,
   .asra st d a b, .amin st d a b, .amax st d a b, .aminu st d a b, .amaxu st d a b, .aaddw st d a b, .asubw st d a b]
noncomputable def sAluOps (st : BitVec 2) (d a b : BitVec 6) : List Instr :=
  [.sadd st d a b, .ssub st d a b, .sand st d a b, .sor st d a b, .sxor st d a b, .sandn st d a b, .sshl st d a b, .sshr st d a b,
   .ssra st d a b, .smin st d a b, .smax st d a b, .sminu st d a b, .smaxu st d a b, .saddw st d a b, .ssubw st d a b]
noncomputable def xAluOps (st : BitVec 2) (d a b : BitVec 6) : List Instr :=
  [.add st d a b, .sub st d a b, .and st d a b, .or st d a b, .xor st d a b, .andn st d a b, .shl st d a b, .shr st d a b,
   .sra st d a b, .min st d a b, .max st d a b, .minu st d a b, .maxu st d a b, .addw st d a b, .subw st d a b]

/-- R244: quotient and remainder of w-bit operands, read as signed, toward zero; a divisor of 0 gives −1 and the dividend. -/
def quoS {w : Nat} (x y : BitVec w) : BitVec w := if y.toInt = 0 then BitVec.ofInt w (-1) else BitVec.ofInt w (x.toInt.tdiv y.toInt)
def modS {w : Nat} (x y : BitVec w) : BitVec w := if y.toInt = 0 then x else BitVec.ofInt w (x.toInt - y.toInt * x.toInt.tdiv y.toInt)
/-- R244: the same, read as unsigned; a divisor of 0 gives all ones and the dividend. -/
def quoU {w : Nat} (x y : BitVec w) : BitVec w := if y.toNat = 0 then BitVec.ofNat w (2 ^ w - 1) else BitVec.ofNat w (x.toNat / y.toNat)
def modU {w : Nat} (x y : BitVec w) : BitVec w := if y.toNat = 0 then x else BitVec.ofNat w (x.toNat - y.toNat * (x.toNat / y.toNat))
/-- A 32-bit result, sign-extended. -/
def sext32 (x : W32) : W64 := BitVec.ofInt 64 x.toInt
def lowW (x : W64) : W32 := x.setWidth 32

/-- The products and quotients of R244. -/
noncomputable def mulDiv (st : BitVec 2) (d a b : BitVec 6) (x y : W64) : List (Instr × W64) :=
  [(.mul st d a b, BitVec.ofNat 64 (x.toNat * y.toNat)),
   (.mulh st d a b, BitVec.ofInt 64 (x.toInt * y.toInt / 2 ^ 64)),
   (.mulhu st d a b, BitVec.ofNat 64 (x.toNat * y.toNat / 2 ^ 64)),
   (.mulhsu st d a b, BitVec.ofInt 64 (x.toInt * y.toNat / 2 ^ 64)),
   (.div st d a b, quoS x y), (.divu st d a b, quoU x y), (.rem st d a b, modS x y), (.remu st d a b, modU x y),
   (.mulw st d a b, sext32 (BitVec.ofNat 32 (x.toNat * y.toNat))),
   (.divw st d a b, sext32 (quoS (lowW x) (lowW y))), (.divuw st d a b, sext32 (quoU (lowW x) (lowW y))),
   (.remw st d a b, sext32 (modS (lowW x) (lowW y))), (.remuw st d a b, sext32 (modU (lowW x) (lowW y)))]

/-- The compares of R245. -/
noncomputable def compares (st : BitVec 2) (d a b : BitVec 6) (x y : W64) : List (Instr × Prop) :=
  [(.seq st d a b, x = y), (.sne st d a b, x ≠ y), (.slt st d a b, x.toInt < y.toInt), (.sltu st d a b, x.toNat < y.toNat),
   (.sle st d a b, x.toInt ≤ y.toInt), (.sleu st d a b, x.toNat ≤ y.toNat)]

/-- The FP32 operations of R249 on two operands. -/
noncomputable def fp32Ops (st : BitVec 2) (d a b : BitVec 6) (x y : W32) : List (Instr × W64) :=
  [(.fadd st d a b, hi0 (addF32 x y)), (.fsub st d a b, hi0 (subF32 x y)), (.fmul st d a b, hi0 (mulF32 x y)),
   (.fmin st d a b, hi0 (minF32 x y)), (.fmax st d a b, hi0 (maxF32 x y)),
   (.feq st d a b, if eqF32 x y then 1 else 0), (.flt st d a b, if ltF32 x y then 1 else 0), (.fle st d a b, if leF32 x y then 1 else 0)]
/-- The FP32 operations of R249 on one operand. -/
noncomputable def fp32Uns (st : BitVec 2) (d a : BitVec 6) (x : W64) : List (Instr × W64) :=
  [(.fcvtif st d a, hi0 (to32 (intVal x.toInt))), (.fcvtfi st d a, BitVec.ofInt 64 (truncInt 64 (decode32 (lo32 x)))),
   (.fabs st d a, hi0 (absF32 (lo32 x))), (.fneg st d a, hi0 (negF32 (lo32 x)))]

/-- The operands of an X operation in operand order: a poisoned one makes the result poisoned with its value (R72). -/
def spread : List GReg → W64 → GReg
  | [], v => ⟨v, false⟩
  | g :: r, v => if g.psn then ⟨g.value, true⟩ else spread r v

/-! ## Lanes -/

/-- Masked lane operations on two sources (R298, R300, R301, R308, R309). -/
noncomputable def laneBins (st : BitVec 2) (d a b : BitVec 5) (m : BitVec 3) (key : W64) : List (Instr × (W32 → W32 → W32)) :=
  [(.vfadd st d a b m, addF32), (.vfsub st d a b m, subF32), (.vfmul st d a b m, mulF32), (.vfmin st d a b m, minF32),
   (.vfmax st d a b m, maxF32),
   (.vadd st d a b m, fun x y => x + y), (.vsub st d a b m, fun x y => x - y), (.vmul st d a b m, fun x y => x * y),
   (.vmulh st d a b m, fun x y => BitVec.ofInt 32 (x.toInt * y.toInt / 2 ^ 32)),
   (.vmin st d a b m, fun x y => if x.toInt ≤ y.toInt then x else y), (.vmax st d a b m, fun x y => if x.toInt ≤ y.toInt then y else x),
   (.vminu st d a b m, fun x y => if x.toNat ≤ y.toNat then x else y), (.vmaxu st d a b m, fun x y => if x.toNat ≤ y.toNat then y else x),
   (.vand st d a b m, fun x y => x &&& y), (.vor st d a b m, fun x y => x ||| y), (.vxor st d a b m, fun x y => x ^^^ y),
   (.vandn st d a b m, fun x y => x &&& ~~~y),
   (.vadds st d a b m, fun x y => satI32 (x.toInt + y.toInt)), (.vsubs st d a b m, fun x y => satI32 (x.toInt - y.toInt)),
   (.vshl st d a b m, fun x y => BitVec.ofNat 32 (x.toNat * 2 ^ (y.toNat % 32))),
   (.vshr st d a b m, fun x y => BitVec.ofNat 32 (x.toNat / 2 ^ (y.toNat % 32))),
   (.vsra st d a b m, fun x y => BitVec.ofInt 32 (x.toInt / 2 ^ (y.toNat % 32))),
   (.vrot st d a b m, fun x y => BitVec.ofNat 32 (x.toNat / 2 ^ (y.toNat % 32)) ||| x <<< (32 - y.toNat % 32)),
   (.vsrbits st d a b m, fun x y => srBits key (fld x 24 8 * 256 + fld y 24 8) (fld x 0 24) (fld y 0 24)),
   (.vcvtsrBf16 st d a b m, toNarrowSr .bf16 false), (.vcvtsrF16 st d a b m, toNarrowSr .fp16 false),
   (.vcvtsrE4m3Sat st d a b m, toNarrowSr .e4m3 true), (.vcvtsrE4m3 st d a b m, toNarrowSr .e4m3 false),
   (.vcvtsrE5m2Sat st d a b m, toNarrowSr .e5m2 true), (.vcvtsrE5m2 st d a b m, toNarrowSr .e5m2 false),
   (.vcvtsrE2m1 st d a b m, toNarrowSr .e2m1 true)]
/-- Masked lane operations on one source, and one amount (R298, R300, R301, R305-R307, R313). -/
noncomputable def laneUns (st : BitVec 2) (d a n : BitVec 5) (m : BitVec 3) : List (Instr × (W32 → W32)) :=
  [(.vfabs st d a m, absF32), (.vfneg st d a m, negF32), (.vabs st d a m, fun x => satI32 x.toInt.natAbs),
   (.vpopc st d a m, fun x => BitVec.ofNat 32 (popcount 32 x.toNat)),
   (.vshli st d a n m, fun x => BitVec.ofNat 32 (x.toNat * 2 ^ n.toNat)), (.vshri st d a n m, fun x => BitVec.ofNat 32 (x.toNat / 2 ^ n.toNat)),
   (.vsrai st d a n m, fun x => BitVec.ofInt 32 (x.toInt / 2 ^ n.toNat)),
   (.vexp2 st d a m, fun x => to32 (Machine.vexp2 (decode32 x))), (.vlog2 st d a m, fun x => to32 (Machine.vlog2 (decode32 x))),
   (.vrcp st d a m, fun x => to32 (Machine.vrcp (decode32 x))), (.vrsq st d a m, fun x => to32 (Machine.vrsq (decode32 x))),
   (.vsqrt st d a m, fun x => to32 (Machine.vsqrt (decode32 x))),
   (.vcvtF32Bf16 st d a m, fromNarrow .bf16), (.vcvtF32F16 st d a m, fromNarrow .fp16), (.vcvtF32E4m3 st d a m, fromNarrow .e4m3),
   (.vcvtF32E5m2 st d a m, fromNarrow .e5m2), (.vcvtF32E2m1 st d a m, fromNarrow .e2m1),
   (.vcvtBf16F32 st d a m, toNarrow .bf16 false), (.vcvtF16F32 st d a m, toNarrow .fp16 false),
   (.vcvtE4m3F32Sat st d a m, toNarrow .e4m3 true), (.vcvtE4m3F32 st d a m, toNarrow .e4m3 false),
   (.vcvtE5m2F32Sat st d a m, toNarrow .e5m2 true), (.vcvtE5m2F32 st d a m, toNarrow .e5m2 false),
   (.vcvtE2m1F32 st d a m, toNarrow .e2m1 true),
   (.vcvtF32I32 st d a m, fun x => to32 (intVal x.toInt)), (.vcvtI32F32 st d a m, fun x => BitVec.ofInt 32 (truncInt 32 (decode32 x))),
   (.vcvtF32E8m0 st d a m, fun x => to32 (decodeE8 (x.toNat % 256))), (.vcvtE8m0F32 st d a m, toE8)]
/-- The fused multiply-adds of R299: (±(a × b)) ± c. -/
noncomputable def laneFmas (st : BitVec 2) (d a b c : BitVec 5) : List (Instr × (W32 → W32 → W32 → W32)) :=
  [(.vfma st d a b c, fun x y z => fmaF32 x y z false false), (.vfms st d a b c, fun x y z => fmaF32 x y z false true),
   (.vfnma st d a b c, fun x y z => fmaF32 x y z true false), (.vfnms st d a b c, fun x y z => fmaF32 x y z true true)]
/-- The compares of R302. -/
noncomputable def laneCmps (st : BitVec 2) (d : BitVec 3) (a b : BitVec 5) (m : BitVec 3) : List (Instr × (W32 → W32 → Bool)) :=
  [(.vfeq st d a b m, eqF32), (.vflt st d a b m, ltF32), (.vfle st d a b m, leF32),
   (.vfunord st d a b m, fun x y => (decode32 x).isNan || (decode32 y).isNan),
   (.veq st d a b m, fun x y => decide (x = y)), (.vne st d a b m, fun x y => decide (x ≠ y)),
   (.vlt st d a b m, fun x y => decide (x.toInt < y.toInt)), (.vltu st d a b m, fun x y => decide (x.toNat < y.toNat)),
   (.vle st d a b m, fun x y => decide (x.toInt ≤ y.toInt)), (.vleu st d a b m, fun x y => decide (x.toNat ≤ y.toNat))]
/-- The mask logic of R304 on two masks. -/
noncomputable def maskBins (st : BitVec 2) (d a b : BitVec 3) : List (Instr × (Bool → Bool → Bool)) :=
  [(.mand st d a b, fun x y => x && y), (.mor st d a b, fun x y => x || y), (.mxor st d a b, fun x y => x != y),
   (.mandn st d a b, fun x y => x && !y)]
/-- The reductions of R310, with their identities. -/
noncomputable def laneReds (st : BitVec 2) (d a : BitVec 5) (m : BitVec 3) : List (Instr × (W32 → W32 → W32) × W32) :=
  [(.vredfadd st d a m, addF32, 0x80000000), (.vredfmax st d a m, maxF32, 0xFF800000), (.vredfmin st d a m, minF32, 0x7F800000),
   (.vredadd st d a m, fun x y => x + y, 0), (.vredmax st d a m, fun x y => if x.toInt ≤ y.toInt then y else x, 0x80000000),
   (.vredmin st d a m, fun x y => if x.toInt ≤ y.toInt then x else y, 0x7FFFFFFF),
   (.vredmaxu st d a m, fun x y => if x.toNat ≤ y.toNat then y else x, 0),
   (.vredminu st d a m, fun x y => if x.toNat ≤ y.toNat then x else y, 0xFFFFFFFF),
   (.vredand st d a m, fun x y => x &&& y, 0xFFFFFFFF), (.vredor st d a m, fun x y => x ||| y, 0), (.vredxor st d a m, fun x y => x ^^^ y, 0)]

/-! ## Accesses issued -/

/-- t is s but for one access more at the end of walker A's order, with the bundle's walk count and the MARKs that A has passed (R151,
R154). -/
def issuesLoad (s t : State) (kind : LoadKind) (sn : Snap) : Prop :=
  t = (s.modCur fun k => { k with loads := k.loads ++ [⟨kind, s.walk, s.cur.wA.marks, sn, [], []⟩] }) ∧ sameMem s t
/-- The same of walker S's order (R152). -/
def issuesStore (s t : State) (kind : StoreKind) (sn : Snap) : Prop :=
  t = (s.modCur fun k => { k with stores := k.stores ++ [⟨kind, s.walk, s.cur.wS.marks, sn, [], []⟩] }) ∧ sameMem s t
/-- The core with one LQ entry reserved, whose data have not arrived (R56). -/
def Core.reserved (k : Core) : Core := { k with lqTag := k.lqTag + 1, lq := k.lq ++ [⟨k.lqTag, false, 0, false, false⟩] }
/-- t is s but for the L1 sectors of the issuing core, the lines that an L1 holds exclusively, and the free values drawn. -/
def onlyL1 (s t : State) : Prop := t = { s.modCur fun k => { k with l1 := t.cur.l1 } with excl := t.excl, freeCtr := t.freeCtr }

/-- No engine's work is under way that an access of a core could meet: no NMADD, bank command, collective, channel, transfer or landing. -/
def quiet (s : State) : Prop :=
  (s.xfers = [] ∧ s.landOk = []) ∧ ∀ c, c < 480 → (s.core c).nm = [] ∧ (s.core c).bankQ = [] ∧ (∀ i, i < 8 → vget (s.core c).colls i none = none)
    ∧ ∀ n, n < 16 → (vget (s.core c).chans n .reset).state ≠ .active

/-- The atomics of A and of S: operation code and SZ (R284). -/
noncomputable def atomOps (st o : BitVec 2) (a b : BitVec 6) (z : BitVec 1) : List (Instr × Nat × BitVec 1) :=
  [(.atomSwap st o a b z, 0, z), (.atomCas st o a b z, 1, z), (.atomAdd st o a b z, 2, z), (.atomAnd st o a b z, 3, z),
   (.atomOr st o a b z, 4, z), (.atomXor st o a b z, 5, z), (.atomMin st o a b z, 6, z), (.atomMax st o a b z, 7, z),
   (.atomMinu st o a b z, 8, z), (.atomMaxu st o a b z, 9, z), (.atomIncw st o a b z, 10, z), (.atomDecw st o a b z, 11, z),
   (.atomFaddb st o a b z, 12, z), (.atomFaddt st o a b z, 13, z), (.atomFaddF32 st o a b, 14, 0), (.atomFmaxF32 st o a b, 15, 0)]
noncomputable def atomnrOps (st : BitVec 2) (o : BitVec 1) (a b : BitVec 6) (z : BitVec 1) : List (Instr × Nat × BitVec 1) :=
  [(.atomnrSwap st o a b z, 0, z), (.atomnrCas st o a b z, 1, z), (.atomnrAdd st o a b z, 2, z), (.atomnrAnd st o a b z, 3, z),
   (.atomnrOr st o a b z, 4, z), (.atomnrXor st o a b z, 5, z), (.atomnrMin st o a b z, 6, z), (.atomnrMax st o a b z, 7, z),
   (.atomnrMinu st o a b z, 8, z), (.atomnrMaxu st o a b z, 9, z), (.atomnrIncw st o a b z, 10, z), (.atomnrDecw st o a b z, 11, z),
   (.atomnrFaddb st o a b z, 12, z), (.atomnrFaddt st o a b z, 13, z), (.atomnrFaddF32 st o a b, 14, 0), (.atomnrFmaxF32 st o a b, 15, 0)]
/-- R285: what each operation leaves in a word of n bits that held x, with operands v and w. -/
def atomTable (n x v w : Nat) : List Nat :=
  let sx := toSigned n x
  let sv := toSigned n v
  [v, if x = v then w else x, (x + v) % 2 ^ n, x &&& v, x ||| v, x ^^^ v, if sv < sx then v else x, if sx < sv then v else x,
   if v < x then v else x, if x < v then v else x, if x < v then x + 1 else 0, if x = 0 ∨ v < x then v else x - 1,
   if x + v ≤ w then x + v else x, (x + v) % 2 ^ n, (addF32 (BitVec.ofNat 32 x) (BitVec.ofNat 32 v)).toNat,
   (maxF32 (BitVec.ofNat 32 x) (BitVec.ofNat 32 v)).toNat]

/-! ## The matrix unit -/

/-- t is s but for one syllable more in the matrix queue, with the next SEQ (R320). -/
def queues (s t : State) (op : MatOp) : Prop :=
  (∃ m : Matrix, t = (s.modCur fun k => { k with mat := m }) ∧ m = { s.cur.mat with seq := m.seq, queue := m.queue }
    ∧ m.seq = s.cur.mat.seq + 1 ∧ m.queue = s.cur.mat.queue ++ [{ op with seq := m.seq }])
  ∧ sameMem s t

/-- The drains of R334 that write no FP32 tile by adding: kind, tile format, whether they round with random bits, and whether they write a
scale tile. -/
noncomputable def drains (st q : BitVec 2) (t g : BitVec 6) (r : BitVec 1) : List (Instr × MatKind × Nat × Bool × Bool) :=
  [(.drnF32 st q t r, .drn 0, 0, false, false), (.drnBf16 st q t r, .drn 1, 1, false, false), (.drnBf16Sr st q t g r, .drn 2, 1, true, false),
   (.drnE4m3Sat st q t r, .drn8 0, 3, false, false), (.drnE4m3 st q t r, .drn8 1, 3, false, false),
   (.drnE4m3SrSat st q t g r, .drn8 2, 3, true, false), (.drnE4m3Sr st q t g r, .drn8 3, 3, true, false),
   (.drnE5m2Sat st q t r, .drn8 4, 4, false, false), (.drnE5m2 st q t r, .drn8 5, 4, false, false),
   (.drnE5m2SrSat st q t g r, .drn8 6, 4, true, false), (.drnE5m2Sr st q t g r, .drn8 7, 4, true, false),
   (.drnMx8e4 st q t r, .drnmx 0, 3, false, true), (.drnMx8e4Sr st q t g r, .drnmx 1, 3, true, true),
   (.drnMx8e5 st q t r, .drnmx 2, 4, false, true), (.drnMx8e5Sr st q t g r, .drnmx 3, 4, true, true),
   (.drnMx4 st q t r, .drnmx 4, 5, false, true), (.drnMx4Sr st q t g r, .drnmx 5, 5, true, true),
   (.drnBx24 st q t r, .drnmx 6, 9, false, false)]

/-! ## Graph instances -/

/-- The instance's nodes and edges are those of its version. -/
def GraphInst.fits (g : GraphInst) (v : GraphVer) : Prop := g.nodes.length = v.nodes.length ∧ g.edges.length = v.edges.length
/-- In t, node n of a graph instance has settled as st, and its outgoing edges have resolved, taken as told by their labels. -/
def nodeRan (s t : State) (gi n : Nat) (st : NodeSt) (takes : Nat → Bool) : Prop :=
  ∃ g v h, s.gi gi = some g ∧ s.gver g = some v ∧ t.gi gi = some h ∧ h.st n = st
    ∧ ∀ (j : Nat) (e : W64), v.edges[j]? = some e → eFrom e = n → h.edges[j]? = some (some (takes (eLabel e)))

/-! ## Scheduling and moving pages -/

/-- The clusters that a head g may have cleared for it, each with the gangs to pre-empt there (R466). -/
def State.clearings (s : State) (part : Nat) (g : Gang) (i : Inst) (c : Chain) (kept : List Nat) : List (Nat × List Gang) :=
  let dies := (s.diesFor i g).filter fun d => s.capsOk c i.gsize (if g.carveDie = some d then 0 else i.carve) d
  (((dies.flatMap fun d => (List.range 5).map fun k => 5 * d + k).filter fun cl => !kept.contains cl).filterMap fun cl =>
    (enough (s.victims part cl (s.gangLevel part g)) (s.freeIn cl).length i.gsize).map fun v => (cl, v)).filter fun o => o.2 ≠ []
/-- No two gangs have one identity or one core. -/
def gangsApart (s : State) : Prop :=
  (s.gangs.map Gang.uid).Nodup ∧ ∀ g h, g ∈ s.gangs → h ∈ s.gangs → g.uid ≠ h.uid → ∀ c, c ∈ g.cores → c ∉ h.cores

/-! ## Translation and issue -/

/-- The entry of a level that a walk of va meets: a table entry names the next table by bits [43:8] (R474, R475). -/
def State.entryAt (s : State) (root va : Nat) : Nat → W64
  | 0 => s.rd64 (root + 8 * (va / 2 ^ 39 % 8192))
  | 1 => s.rd64 (fld (s.entryAt root va 0) 8 36 * 256 + 8 * (va / 2 ^ 30 % 512))
  | 2 => s.rd64 (fld (s.entryAt root va 1) 8 36 * 256 + 8 * (va / 2 ^ 21 % 512))
  | _ + 3 => s.rd64 (fld (s.rd64 (fld (s.rd64 (fld (s.rd64 (root + 8 * (va / 2 ^ 39 % 8192))) 8 36 * 256 + 8 * (va / 2 ^ 30 % 512))) 8 36 * 256
      + 8 * (va / 2 ^ 21 % 512))) 8 36 * 256 + 8 * (va / 2 ^ 16 % 32))
/-- The syllables of a part, executed one after another in slot order until one stops the walker (R46, R74). -/
inductive Ran (ws : List W32) : List (Nat × Instr) → State → State → Prop where
  | nil (s : State) : Ran ws [] s s
  | stop (j : Nat) (i : Instr) (r : List (Nat × Instr)) (s t : State) :
      exec i (s.atSlot ws j) = .next t → t.curW.run = .stopped → Ran ws ((j, i) :: r) s t
  | step (j : Nat) (i : Instr) (r : List (Nat × Instr)) (s t u : State) :
      exec i (s.atSlot ws j) = .next t → t.curW.run ≠ .stopped → Ran ws r t u → Ran ws ((j, i) :: r) s u

end Sys2Proof.Machine
end

