-- ==== Sys2Proof/Certificates/Slice0/Obligations.lean ====
section
/-! DEFINITION. The statements, from the spec's rules. -/

open Sys2Proof Sys2Proof.Machine

/-! ## K, A, S and X registers -/

/-- R219, R223, R60: the two-source integer operations of the K stream write their result of R219 to kd (k0 discards it), read the part's
values (R47), and change nothing else. R219 (clz), R223, R189: KCLZ counts leading zeros; KSET writes its immediate, KADDI the sum with
its immediate, both modulo 2^64. -/
def Obligations.KRegisterResults : Prop :=
  (∀ (s : State) (st : BitVec 2) (d a b : BitVec 6) (i : Instr) (v : W64), s.issue.core < 480 → d.toNat < 16 →
     (i, v) ∈ (kAluOps st d a b).zip (aluTable (s.srcK st a) (s.srcK st b)) →
     ∃ t, exec i s = .next t ∧ t.kNow d = (if d = 0 then 0 else v) ∧ onlyK s t [d.toNat] ∧ (d = 0 → t = s))
  ∧ (∀ (s : State) (st : BitVec 2) (d a : BitVec 6), s.issue.core < 480 → d.toNat < 16 →
       (∃ t n, exec (.kclz st d a) s = .next t ∧ leadingZeros (s.srcK st a) n
         ∧ t.kNow d = (if d = 0 then 0 else BitVec.ofNat 64 n) ∧ onlyK s t [d.toNat])
       ∧ (∀ i, ∃ t, exec (.kset st d i) s = .next t
         ∧ t.kNow d = (if d = 0 then 0 else BitVec.ofInt 64 (immVal i.toNat 16 true s.issue.exts)) ∧ onlyK s t [d.toNat])
       ∧ (∀ i, ∃ t, exec (.kaddi st d a i) s = .next t
         ∧ t.kNow d = (if d = 0 then 0 else BitVec.ofInt 64 ((s.srcK st a).toInt + immVal i.toNat 10 true s.issue.exts)) ∧ onlyK s t [d.toNat]))

/-- R186, R187, R256: the two-source operations of the A stream, and AAX's other forms, on readable operands. R259, R260, R255: AMOVK and
SMOVK add a source and a source shifted left by their count; AQPOP takes the oldest entry of AQ. -/
def Obligations.ARegisterResults : Prop :=
  (∀ (s : State) (st : BitVec 2) (d a b : BitVec 6) (x y : W64), s.issue.core < 480 → d.toNat < 32 → s.srcA st a = .ok x →
     (s.srcA st b = .ok y → ∀ i v, (i, v) ∈ (aAluOps st d a b).zip (aluTable x y) →
       ∃ t, exec i s = .next t ∧ t.aNow d = (if d = 0 then 0 else v) ∧ onlyA s t [d.toNat] ∧ (d = 0 → t = s)
         ∧ t.cur.aPend.getLsbD d.toNat = (decide (d = 0) && s.cur.aPend.getLsbD 0))
     ∧ (∃ t n, exec (.aclz st d a) s = .next t ∧ leadingZeros x n ∧ t.aNow d = (if d = 0 then 0 else BitVec.ofNat 64 n) ∧ onlyA s t [d.toNat])
     ∧ (∀ i, ∃ t, exec (.aaddi st d a i) s = .next t
         ∧ t.aNow d = (if d = 0 then 0 else BitVec.ofInt 64 (x.toInt + immVal i.toNat 10 true s.issue.exts)) ∧ onlyA s t [d.toNat])
     ∧ (∀ i, ∃ t, exec (.ali st d i) s = .next t
         ∧ t.aNow d = (if d = 0 then 0 else BitVec.ofInt 64 (immVal i.toNat 16 true s.issue.exts)) ∧ onlyA s t [d.toNat]))
  ∧ (∀ (s : State) (st : BitVec 2) (d a b : BitVec 6) (h w : BitVec 4) (x y : W64) (q p : List QEnt), s.issue.core < 480 →
       let v := BitVec.ofNat 64 (x.toNat + y.toNat * 2 ^ h.toNat)
       (d.toNat < 32 → s.srcA st a = .ok x → s.srcA st b = .ok y →
         ∃ t, exec (.amovk st d a b h) s = .next t ∧ t.aNow d = (if d = 0 then 0 else v) ∧ onlyA s t [d.toNat])
       ∧ (d.toNat < 16 → s.sSource st a s.cur.sq = some (x, q) → s.sSource st b q = some (y, p) →
         ∃ t, exec (.smovk st d a b h) s = .next t ∧ t.sNow d = (if d = 0 then 0 else v) ∧ onlyS (s.withSQ p) t [d.toNat])
       ∧ (∀ r, d.toNat < 32 → s.cur.aq = ⟨x, false⟩ :: r → ∃ t, exec (.aqpop st d w) s = .next t
           ∧ t.aNow d = (if d = 0 then 0 else x) ∧ t.cur.aq = r ∧ onlyA (s.modCur fun k => { k with aq := r }) t [d.toNat])
       ∧ (∀ r, s.cur.aq = ⟨x, true⟩ :: r → exec (.aqpop st d w) s = .next (s.poisonTrap (x.toNat % 256)))
       ∧ (s.cur.aq = [] → exec (.aqpop st d w) s = .next (s.waitOn 2 0 w.toNat)))

/-- R186, R187, R58, R255: the operations of the S stream write their result of R219 to sd (s0 discards it) and change nothing else; each
source named SQ takes the oldest entry of SQ, in operand order. R58, R61, R73, R186, R255: where a source of an S operation of R219,
the first or the second, finds SQ empty the syllable waits under wb0, and a part that waits takes nothing (R46); where it finds the
oldest entry that is left poisoned the walker takes the poison trap of that entry's index. The source of SCLZ and of SADDI does the
same. -/
def Obligations.SRegisterResults : Prop :=
  (∀ (s : State) (st : BitVec 2) (d a b : BitVec 6) (x y : W64) (q r : List QEnt), s.issue.core < 480 → d.toNat < 16 →
     s.sSource st a s.cur.sq = some (x, q) →
     (s.sSource st b q = some (y, r) → ∀ i v, (i, v) ∈ (sAluOps st d a b).zip (aluTable x y) →
       ∃ t, exec i s = .next t ∧ t.sNow d = (if d = 0 then 0 else v) ∧ onlyS (s.withSQ r) t [d.toNat])
     ∧ (∃ t n, exec (.sclz st d a) s = .next t ∧ leadingZeros x n ∧ t.sNow d = (if d = 0 then 0 else BitVec.ofNat 64 n)
         ∧ onlyS (s.withSQ q) t [d.toNat])
     ∧ (∀ i, ∃ t, exec (.saddi st d a i) s = .next t
         ∧ t.sNow d = (if d = 0 then 0 else BitVec.ofInt 64 (x.toInt + immVal i.toNat 10 true s.issue.exts)) ∧ onlyS (s.withSQ q) t [d.toNat])
     ∧ (∀ i, ∃ t, exec (.sli st d i) s = .next t
         ∧ t.sNow d = (if d = 0 then 0 else BitVec.ofInt 64 (immVal i.toNat 16 true s.issue.exts)) ∧ onlyS s t [d.toNat]))
  ∧ (∀ (s : State) (st : BitVec 2) (w : Nat) (d a b : BitVec 6) (i : BitVec 10), s.issue.core < 480 →
       (a = 63 → s.cur.sq = [] → exec (.sclz st d a) s = .next (s.waitOn 1 0 0) ∧ exec (.saddi st d a i) s = .next (s.waitOn 1 0 0)
         ∧ ∀ y, y ∈ sAluOps st d a b → exec y s = .next (s.waitOn 1 0 0))
       ∧ (∀ v r, a = 63 → s.cur.sq = ⟨v, true⟩ :: r → exec (.sclz st d a) s = .next (s.poisonTrap (v.toNat % 256))
           ∧ exec (.saddi st d a i) s = .next (s.poisonTrap (v.toNat % 256))
           ∧ ∀ y, y ∈ sAluOps st d a b → exec y s = .next (s.poisonTrap (v.toNat % 256)))
       ∧ (∀ x q, b = 63 → s.sSource st a s.cur.sq = some (x, q) →
           let u := if a = 63 then s.withSQ q else s
           (q = [] → ∀ y, y ∈ sAluOps st d a b → exec y s = .next (u.waitOn 1 0 0))
           ∧ (∀ v r, q = ⟨v, true⟩ :: r → ∀ y, y ∈ sAluOps st d a b → exec y s = .next (u.poisonTrap (v.toNat % 256))))
       ∧ (∀ x q, s.srcS st w a = .ok (x, q) ↔ ∃ r, s.sSource st a s.cur.sq = some (x, r) ∧ q = (if a = 63 then s.withSQ r else s)))

/-- R219, R242, R72: IALU writes its result of R219 to gd; a poisoned operand makes the result poisoned, with its value. R245, R72: the
compares write 1 or 0; SEL copies ga or gb with its poison under a clean selector gd, and keeps a poisoned selector. R242, R243, R189,
R249: the forms of X with an immediate, CLZ, the one-source FP32 operations, and FMAC, whose gd counts last. -/
def Obligations.XRegisterResults : Prop :=
  (∀ (s : State) (st : BitVec 2) (d a b : BitVec 6) (i : Instr) (v : W64), s.issue.core < 480 →
     ((i, v) ∈ (xAluOps st d a b).zip (aluTable (s.rdG a).value (s.rdG b).value) ∨ (i, v) ∈ mulDiv st d a b (s.rdG a).value (s.rdG b).value
       ∨ (i, v) ∈ fp32Ops st d a b (lowW (s.rdG a).value) (lowW (s.rdG b).value)) →
     ∃ t, exec i s = .next t ∧ t.gNow d = (if d = 0 then ⟨0, false⟩ else spread [s.rdG a, s.rdG b] v) ∧ onlyG s t [d.toNat] ∧ (d = 0 → t = s))
  ∧ (∀ (s : State) (st : BitVec 2) (d a b : BitVec 6), s.issue.core < 480 →
       (∀ i p, (i, p) ∈ compares st d a b (s.rdG a).value (s.rdG b).value →
         ∃ t v, exec i s = .next t ∧ (p → v = 1) ∧ (¬ p → v = 0)
           ∧ t.gNow d = (if d = 0 then ⟨0, false⟩ else spread [s.rdG a, s.rdG b] v) ∧ onlyG s t [d.toNat])
       ∧ ∃ t, exec (.sel st d a b) s = .next t ∧ onlyG s t [d.toNat]
           ∧ ((s.rdG d).psn = false → t.gNow d = if d = 0 then ⟨0, false⟩ else if (s.rdG d).value ≠ 0 then s.rdG a else s.rdG b)
           ∧ ((s.rdG d).psn = true → t.gNow d = s.rdG d))
  ∧ (∀ (s : State) (st : BitVec 2) (d a b : BitVec 6), s.issue.core < 480 →
       let put (t : State) (g : GReg) : Prop := t.gNow d = (if d = 0 then ⟨0, false⟩ else g) ∧ onlyG s t [d.toNat]
       let im (i : BitVec 10) : Int := immVal i.toNat 10 true s.issue.exts
       let x := s.rdG d
       (∀ i, ∃ t, exec (.addi st d a i) s = .next t ∧ put t (spread [s.rdG a] (BitVec.ofInt 64 ((s.rdG a).value.toInt + im i))))
       ∧ (∀ i, ∃ t, exec (.li st d i) s = .next t ∧ put t ⟨BitVec.ofInt 64 (immVal i.toNat 16 true s.issue.exts), false⟩)
       ∧ (∀ i, ∃ t, exec (.andi st d i) s = .next t ∧ put t (spread [x] (x.value &&& BitVec.ofInt 64 (im i))))
       ∧ (∀ i, ∃ t, exec (.ori st d i) s = .next t ∧ put t (spread [x] (x.value ||| BitVec.ofInt 64 (im i))))
       ∧ (∀ i, ∃ t, exec (.xori st d i) s = .next t ∧ put t (spread [x] (x.value ^^^ BitVec.ofInt 64 (im i))))
       ∧ (∀ i, ∃ t, exec (.andni st d i) s = .next t ∧ put t (spread [x] (x.value &&& ~~~BitVec.ofInt 64 (im i))))
       ∧ (∀ i n, immVal i.toNat 10 false s.issue.exts = (n : Nat) → n < 64 →
           (∃ t, exec (.shli st d i) s = .next t ∧ put t (spread [x] (BitVec.ofNat 64 (x.value.toNat * 2 ^ n))))
           ∧ (∃ t, exec (.shri st d i) s = .next t ∧ put t (spread [x] (BitVec.ofNat 64 (x.value.toNat / 2 ^ n))))
           ∧ (∃ t, exec (.srai st d i) s = .next t ∧ put t (spread [x] (BitVec.ofInt 64 (x.value.toInt / 2 ^ n))))
           ∧ (∃ t, exec (.rori st d i) s = .next t ∧ put t (spread [x] (BitVec.ofNat 64 (x.value.toNat / 2 ^ n) ||| x.value <<< (64 - n)))))
       ∧ (∃ t n, exec (.clz st d a) s = .next t ∧ leadingZeros (s.rdG a).value n ∧ put t (spread [s.rdG a] (BitVec.ofNat 64 n)))
       ∧ (∀ i v, (i, v) ∈ fp32Uns st d a (s.rdG a).value → ∃ t, exec i s = .next t ∧ put t (spread [s.rdG a] v))
       ∧ (∃ t, exec (.fmac st d a b) s = .next t ∧ put t (spread [s.rdG a, s.rdG b, x]
           (hi0 (fmaF32 (lowW (s.rdG a).value) (lowW (s.rdG b).value) (lowW x.value) false false)))))

/-! ## Lanes and masks -/

/-- R294, R298, R300, R301, R305 to R309, R313: in each active lane the result of the lane's operands; an inactive lane keeps its value;
the same on 256 lanes of a core and on 64 of an abutment engine (R317). -/
def Obligations.LaneResults : Prop :=
  ∀ (s : State) (st : BitVec 2) (d a b c n : BitVec 5) (m : BitVec 3), hasUnit s →
    (∀ i f, (i, f) ∈ laneBins st d a b m s.vKey → ∃ t, exec i s = .next t ∧ onlyV s t d
      ∧ ∀ l, l < s.lanes → t.vNow d.toNat l = if s.rdM m l then f (s.rdV32 a l) (s.rdV32 b l) else s.rdV32 d l)
    ∧ (∀ i f, (i, f) ∈ laneUns st d a n m → ∃ t, exec i s = .next t ∧ onlyV s t d
      ∧ ∀ l, l < s.lanes → t.vNow d.toNat l = if s.rdM m l then f (s.rdV32 a l) else s.rdV32 d l)
    ∧ (∀ i f, (i, f) ∈ laneFmas st d a b c → ∃ t, exec i s = .next t ∧ onlyV s t d
      ∧ ∀ l, l < s.lanes → t.vNow d.toNat l = f (s.rdV32 a l) (s.rdV32 b l) (s.rdV32 c l))

/-- R302, R304: compares give 0 in an inactive lane; mask logic acts on every lane; m0 discards a write. R303, R304, R310, R311: selection,
masks to lanes, reductions over the active lanes by a balanced tree, and permutes; every lane of vd is written. R312, R73: moves
between g registers and lanes; a poisoned g operand traps instead. -/
def Obligations.MasksAndLanes : Prop :=
  (∀ (s : State) (st : BitVec 2) (d x y : BitVec 3) (a b : BitVec 5) (m : BitVec 3), hasUnit s →
     let put (t : State) (f : Nat → Bool) : Prop := onlyM s t d ∧ (d = 0 → t = s) ∧ ∀ l, l < s.lanes → d ≠ 0 → t.mNow d.toNat l = f l
     (∀ i f, (i, f) ∈ laneCmps st d a b m → ∃ t, exec i s = .next t ∧ put t fun l => s.rdM m l && f (s.rdV32 a l) (s.rdV32 b l))
     ∧ (∀ i f, (i, f) ∈ maskBins st d x y → ∃ t, exec i s = .next t ∧ put t fun l => f (s.rdM x l) (s.rdM y l))
     ∧ (∃ t, exec (.mnot st d x) s = .next t ∧ put t fun l => !s.rdM x l)
     ∧ (∃ t, exec (.mfirst st d x) s = .next t ∧ put t fun l => s.rdM x l && decide (∀ k, k < l → s.rdM x k = false))
     ∧ (∃ t, exec (.mfromv st d a) s = .next t ∧ put t fun l => decide (s.rdV32 a l ≠ 0)))
  ∧ (∀ (s : State) (st : BitVec 2) (d a b c : BitVec 5) (m : BitVec 3), hasUnit s →
       let put (t : State) (f : Nat → W32) : Prop := onlyV s t d ∧ ∀ l, l < s.lanes → t.vNow d.toNat l = f l
       (∃ t, exec (.vsel st d a b m) s = .next t ∧ put t fun l => if s.rdM m l then s.rdV32 a l else s.rdV32 b l)
       ∧ (∃ t, exec (.mtov st d m) s = .next t ∧ put t fun l => if s.rdM m l then 0xFFFFFFFF else 0)
       ∧ (∃ t, exec (.vlane st d m) s = .next t ∧ put t fun l => if s.rdM m l then BitVec.ofNat 32 l else s.rdV32 d l)
       ∧ (∀ i f e, (i, f, e) ∈ laneReds st d a m → ∃ t, exec i s = .next t
           ∧ put t fun _ => redTree f 9 ((List.range s.lanes).map fun l => if s.rdM m l then s.rdV32 a l else e))
       ∧ (∃ t, exec (.vperm st d a b c) s = .next t ∧ put t fun l =>
           let k := (s.rdV32 c l).toNat % (2 * s.lanes)
           if k < s.lanes then s.rdV32 a k else s.rdV32 b (k - s.lanes))
       ∧ (∃ t, exec (.vxpose8 st d a) s = .next t ∧ put t fun l => s.rdV32 a (64 * (l / 64) + 8 * (l % 8) + l / 8 % 8)))
  ∧ (∀ (s : State) (st : BitVec 2) (v : BitVec 5) (g a b : BitVec 6) (m : BitVec 3), onCore s →
       ((s.rdG a).psn = false → ∃ t, exec (.vbcast st v a) s = .next t ∧ onlyV s t v ∧ ∀ l, l < 256 → t.vNow v.toNat l = lowW (s.rdG a).value)
       ∧ ((s.rdG b).psn = false → ∃ t, exec (.vext st g v b) s = .next t ∧ onlyG s t [g.toNat]
           ∧ t.gNow g = if g = 0 then ⟨0, false⟩ else ⟨hi0 (s.rdV32 v ((s.rdG b).value.toNat % 256)), false⟩)
       ∧ ((s.rdG a).psn = false → (s.rdG b).psn = false → ∃ t, exec (.vins st v a b) s = .next t ∧ onlyV s t v
           ∧ ∀ l, l < 256 → t.vNow v.toNat l = if l = (s.rdG b).value.toNat % 256 then lowW (s.rdG a).value else s.rdV32 v l)
       ∧ (∃ t, exec (.mcount st g m) s = .next t ∧ onlyG s t [g.toNat]
           ∧ t.gNow g = if g = 0 then ⟨0, false⟩ else ⟨BitVec.ofNat 64 ((List.range 256).countP (s.rdM m)), false⟩)
       ∧ (∃ t n, exec (.mfind st g m) s = .next t ∧ onlyG s t [g.toNat] ∧ t.gNow g = (if g = 0 then ⟨0, false⟩ else ⟨BitVec.ofNat 64 n, false⟩)
           ∧ n ≤ 256 ∧ (∀ l, l < n → s.rdM m l = false) ∧ (n < 256 → s.rdM m n = true))
       ∧ ((s.rdG a).psn = true → ∃ t, exec (.vbcast st v a) s = .next t ∧ t = s.poisonTrap ((s.rdG a).value.toNat % 256)))

/-! ## Control -/

/-- R221, R189, R54: NOP, a LIMM by itself, and MARK on walker X do nothing. R54, R68, R154: A and S pass a MARK, counting it, once both
have reached it, and wait there under wb0 (RES 13) until then. R232 to R234, R158: BARA passes and BAR waits for the phase of its own
arrival, then acquires; BARW passes at once on a complete phase (setting LATE unless it has waited: that a wait under the 2^14 rule
counts is the model's choice, log 71) and waits on the next one; a number out of range is schedule fault 6. -/
def Obligations.MarksAndBarriers : Prop :=
  (∀ (s : State) (st tag : BitVec 2) (e : BitVec 22), exec (.nop st) s = .next s ∧ exec (.limm tag st e) s = .next s
     ∧ (s.issue.w = .X → exec (.mark st) s = .next s))
  ∧ (∀ (s : State) (st : BitVec 2) (o : Walker), s.issue.core < 480 → (s.issue.w = .A ∧ o = .S ∨ s.issue.w = .S ∧ o = .A) →
       (s.cur.hasReached s.walk o = true → ∃ t, exec (.mark st) s = .next t ∧ t.curW.marks = s.curW.marks + 1
         ∧ t = s.modW (fun x => { x with marks := t.curW.marks }) ∧ sameMem s t)
       ∧ (s.cur.hasReached s.walk o = false → ∃ t, exec (.mark st) s = .next t ∧ t.cores = s.cores
         ∧ ∃ y, t.issue.waits = s.issue.waits ++ [y] ∧ y.res = 13 ∧ y.bidx = 0 ∧ y.budget = 2 ^ 32))
  ∧ (∀ (s : State) (st : BitVec 2) (a : BitVec 6) (w : BitVec 4), s.issue.core < 480 →
       let b := s.reachBar
       let d := ((s.srcK st a).toNat % 0x10000 + 0x10000 - s.lastPhase s.issue.core) % 0x10000
       (b.barHeld = false → exec (.bara st w) s = .next (b.modW fun x => { x with bars := x.bars + 1 }))
       ∧ (∀ g, b.barHeld = false → b.gangAt s.issue.core = some g → b.curW.bars < nth g.arr b.cur.rank 0 → g.complete b.curW.bars = true →
           ∃ t, exec (.bar st w) s = .next t ∧ t.curW.bars = b.curW.bars + 1 ∧ t.cur.l1 = [] ∧ t.gangs = b.gangs ∧ sameMem s t)
       ∧ (∀ g, b.gangAt s.issue.core = some g → g.complete b.curW.bars = false → exec (.bar st w) s = .next (b.waitOn 8 0 w.toNat))
       ∧ (s.barHeld = false → (d = 0 ∨ 0x8000 < d) → ∃ t, exec (.barw st a w) s = .next t ∧ t.cur.l1 = []
           ∧ t.cur.late = (s.cur.late || !s.waitedFor 8) ∧ t = s.modCur fun k => { k with l1 := [], late := t.cur.late })
       ∧ (s.barHeld = false → d = 1 → exec (.barw st a w) s = .next (s.waitOn 8 0 w.toNat))
       ∧ (s.barHeld = false → 2 ≤ d → d ≤ 0x8000 → exec (.barw st a w) s = .next (s.schedFault 6)))

/-- R51, R53, R236, R237, R241, R66: SLIPSET is performed by A, to the nearer bound of [4, 4096]; KSEED and KSEEDX by X, which reads SRKEY
as the part found it (R47); BUDGET changes the walker's own copy; the other walkers pass. R57, R224, R230: KMOVQ and BRQ take the entry
at the walker's own read position, which moves on; a KMOVQ without one waits under RES 4; the other walkers' positions and the queues
stay; KMOVQ writes kd, and a branch not taken does nothing more. -/
def Obligations.SharedControl : Prop :=
  (∀ (s : State) (st : BitVec 2) (a : BitVec 6) (n : BitVec 4) (i : BitVec 16) (v : Nat), s.issue.core < 480 → n ≠ 0 →
     immVal i.toNat 16 false s.issue.exts = v →
     (s.issue.w = .A → ∃ t, exec (.slipset st i) s = .next t ∧ t.cur.slip.toNat = max 4 (min 4096 v)
       ∧ t = s.modCur fun k => { k with slip := t.cur.slip })
     ∧ (s.issue.w ≠ .A → exec (.slipset st i) s = .next s)
     ∧ (s.issue.w = .X → exec (.kseed st a) s = .next (s.modCur fun k => { k with srkey := s.srcK st a })
         ∧ exec (.kseedx st a) s = .next (s.modCur fun k => { k with srkey := s.issue.pre.srkey ^^^ s.srcK st a }))
     ∧ (s.issue.w ≠ .X → exec (.kseed st a) s = .next s ∧ exec (.kseedx st a) s = .next s)
     ∧ (∃ t, exec (.budget st n i) s = .next t ∧ (vget t.curW.wb n.toNat 0).toNat = min v 0xFFFFFFFF
         ∧ (∀ m, m ≠ n.toNat → vget t.curW.wb m 0 = vget s.curW.wb m 0) ∧ t = s.modW fun x => { x with wb := t.curW.wb }))
  ∧ (∀ (s : State) (st : BitVec 2) (d : BitVec 6) (w : BitVec 4) (o : BitVec 17), s.issue.core < 480 →
       (∀ v, d.toNat < 16 → s.issue.pre.kq[s.curW.kqPos]? = some v →
         ∃ t, exec (.kmovq st d w) s = .next t ∧ t.kNow d = (if d = 0 then 0 else v) ∧ t.cur.kq = s.cur.kq
           ∧ onlyK (s.modW fun x => { x with kqPos := x.kqPos + 1 }) t [d.toNat])
       ∧ (s.issue.pre.kq[s.curW.kqPos]? = none → exec (.kmovq st d w) s = .next (s.waitOn 4 0 w.toNat))
       ∧ (s.issue.pre.bq[s.curW.bqPos]? = some false → exec (.brq st w o) s = .next (s.modW fun x => { x with bqPos := x.bqPos + 1 }))
       ∧ (s.issue.pre.bq[s.curW.bqPos]? = some true → exec (.brqz st w o) s = .next (s.modW fun x => { x with bqPos := x.bqPos + 1 }))
       ∧ (∀ b, s.issue.pre.bq[s.curW.bqPos]? = some b → ∀ g, 0 ≤ s.issue.addr.toNat + 32 * immVal o.toNat 17 true s.issue.exts →
           s.issue.addr.toNat + 32 * immVal o.toNat 17 true s.issue.exts = (g : Nat) → g < 0xE * 2 ^ 48 →
           ∃ t, exec (if b then .brq st w o else .brqz st w o) s = .next t ∧ t.issue.next = some (BitVec.ofNat 52 g)
             ∧ t.curW.bqPos = s.curW.bqPos + 1 ∧ sameMem s t))

/-- R225, R226, R63: a loop opens at the walker's present depth with trip 0 and goes on at its First; a count of 0 skips the body, with lc
at 0 (that it ends no trip of the loop around it, even where both have one Last, is the model's choice: log 68); a fifth loop, and a
loop that reaches past the Last of the loop around it, trap. -/
def Obligations.LoopsOpen : Prop :=
  ∀ (s : State) (st e : BitVec 2) (c : BitVec 6) (ic : BitVec 1) (len : BitVec 13), s.issue.core < 480 →
    let n := if ic = 1 then (immVal c.toNat 6 false s.issue.exts).toNat else Nat.min (s.srcK st c).toNat 0xFFFFFFFF
    let first := s.issue.addr + 32
    let last := s.issue.addr + BitVec.ofNat 52 (32 * (len.toNat + 1))
    let depth := s.curW.loops.length
    let fits := ∀ l, s.curW.loops.getLast? = some l → s.curW.callBase < depth → last ≤ l.last
    ∀ i pl d, (i, pl, d) ∈ [(Instr.loop st c ic len, false, 1), (Instr.ploop st c e ic len, true, e.toNat + 1)] →
      (depth = 4 → exec i s = .next (s.loopOverflow 1))
      ∧ (depth < 4 → ¬ fits → exec i s = .next (s.loopOverflow 4))
      ∧ (depth < 4 → fits → n = 0 → ∃ t, exec i s = .next t ∧ t.issue.next = some (last + 32) ∧ t.curW.loops = s.curW.loops
          ∧ vget t.curW.lc depth 0 = 0 ∧ sameMem s t)
      ∧ (depth < 4 → fits → n ≠ 0 → ∃ t l, exec i s = .next t ∧ t.issue.next = some first ∧ t.curW.loops = s.curW.loops ++ [l]
          ∧ l.first = first ∧ l.last = last ∧ l.n = n ∧ l.d = d ∧ l.pl = pl ∧ l.j = 0 ∧ l.lo = 0 ∧ t.curW.lc = s.curW.lc ∧ sameMem s t)

/-- R181, R228, R229: a taken branch goes to its target, closing the innermost loops of the present call level until one holds the target;
a closed loop leaves its trip in lc; a target outside translated space is an access fault (R181 names no cause for it: that it is 3 is
the model's choice, log 69), and a branch not taken does nothing. R229, R181: CALL with eight entries traps, whatever its target;
otherwise it saves the return address and the loop depth; a target outside translated space is an access fault (its cause 3 is the
model's choice: log 69). RET takes the top entry, closes the loops opened since, and goes back; an empty stack traps. -/
def Obligations.BranchesAndCalls : Prop :=
  (∀ (s : State) (st : BitVec 2) (a : BitVec 6) (o : BitVec 10) (o2 : BitVec 22), s.issue.core < 480 →
     ∀ (i : Instr) (p : Int → Prop) (v : Int) (off : Int), (i, p, v, off) ∈ [(Instr.br st o2, (fun _ => True), 0, immVal o2.toNat 22 true s.issue.exts),
       (.beqz st a o, (fun x => x = 0), (s.srcK st a).toInt, immVal o.toNat 10 true s.issue.exts),
       (.bnez st a o, (fun x => x ≠ 0), (s.srcK st a).toInt, immVal o.toNat 10 true s.issue.exts),
       (.bltz st a o, (fun x => x < 0), (s.srcK st a).toInt, immVal o.toNat 10 true s.issue.exts),
       (.bgez st a o, (fun x => 0 ≤ x), (s.srcK st a).toInt, immVal o.toNat 10 true s.issue.exts),
       (.bgtz st a o, (fun x => 0 < x), (s.srcK st a).toInt, immVal o.toNat 10 true s.issue.exts),
       (.blez st a o, (fun x => x ≤ 0), (s.srcK st a).toInt, immVal o.toNat 10 true s.issue.exts)] →
     let t52 := (s.issue.addr.toNat : Int) + 32 * off
     (¬ p v → exec i s = .next s)
     ∧ (p v → (t52 < 0 ∨ 0xE * 2 ^ 48 ≤ t52) → ∃ f, exec i s = .next (s.accessFault f) ∧ f.cause = 3)
     ∧ (p v → ∀ g : Nat, t52 = g → g < 0xE * 2 ^ 48 → ∃ t n, exec i s = .next t ∧ t.issue.next = some (BitVec.ofNat 52 g)
         ∧ t.curW.loops = s.curW.loops.take n ∧ n ≤ s.curW.loops.length
         ∧ (∀ l, t.curW.loops.getLast? = some l → n ≤ s.curW.callBase ∨ l.holds (BitVec.ofNat 52 g) = true)
         ∧ (∀ k l, n ≤ k → s.curW.loops[k]? = some l → s.curW.callBase ≤ k ∧ l.holds (BitVec.ofNat 52 g) = false
             ∧ (k < 4 → vget t.curW.lc k 0 = BitVec.ofNat 64 l.j))
         ∧ t.curW.calls = s.curW.calls ∧ t.curW.k = s.curW.k ∧ sameMem s t))
  ∧ (∀ (s : State) (st : BitVec 2) (o : BitVec 22), s.issue.core < 480 →
       let t52 := (s.issue.addr.toNat : Int) + 32 * immVal o.toNat 22 true s.issue.exts
       (8 ≤ s.curW.calls.length → exec (.call st o) s = .next (s.loopOverflow 2))
       ∧ (s.curW.calls.length < 8 → (t52 < 0 ∨ 0xE * 2 ^ 48 ≤ t52) → ∃ f, exec (.call st o) s = .next (s.accessFault f) ∧ f.cause = 3)
       ∧ (s.curW.calls.length < 8 → ∀ g : Nat, t52 = g → g < 0xE * 2 ^ 48 → ∃ t, exec (.call st o) s = .next t
           ∧ t.issue.next = some (BitVec.ofNat 52 g)
           ∧ t.curW.calls = s.curW.calls ++ [⟨s.issue.addr + 32, s.curW.loops.length⟩] ∧ t.curW.loops = s.curW.loops ∧ sameMem s t)
       ∧ (s.curW.calls = [] → exec (.ret st) s = .next (s.loopOverflow 3))
       ∧ (∀ r c, s.curW.calls = r ++ [c] → ∃ t, exec (.ret st) s = .next t ∧ t.issue.next = some c.ret ∧ t.curW.calls = r
           ∧ t.curW.loops = s.curW.loops.take c.depth ∧ sameMem s t
           ∧ ∀ k l, c.depth ≤ k → k < 4 → s.curW.loops[k]? = some l → vget t.curW.lc k 0 = BitVec.ofNat 64 l.j))

/-- R222, R233: END ends its walker, which keeps its position; the third of a core to end makes the core count as arrived to every phase.
R240, R130: the last walker to reach a PHASE gives the gang's carve-out its new size, within the kernel's declaration (else schedule
fault 5); the others wait until it has. -/
def Obligations.EndsAndPhases : Prop :=
  (∀ (s : State) (st : BitVec 2), s.issue.core < 480 → ∃ t, exec (.endK st) s = .next t ∧ t.curW.run = .ended ∧ t.curW.pc = s.curW.pc
     ∧ t.curW.walk = s.curW.walk ∧ t.cores = (s.modW fun x => { x with run := .ended }).cores ∧ sameMem s t
     ∧ ((otherWalkers s.issue.w).all (fun o => (s.cur.wk o).run == .ended) = true → ∀ u g, s.cur.gangUid = some u → g ∈ t.gangs →
         g.uid = u → s.cur.rank ∈ g.endedRanks)
     ∧ ((otherWalkers s.issue.w).any (fun o => (s.cur.wk o).run != .ended) = true → t.gangs = s.gangs))
  ∧ (∀ (s : State) (st : BitVec 2) (i : BitVec 16), s.issue.core < 480 → s.mem.wf = true →
       let n := (immVal i.toNat 16 false s.issue.exts).toNat
       let all := (otherWalkers s.issue.w).all (fun o => s.cur.hasReached s.walk o) && (s.cur.reached s.walk).getLast? == some s.issue.w
       let passed := (otherWalkers s.issue.w).any fun o => (s.cur.wk o).passed s.walk
       (passed = true → exec (.phase st i) s = .next s)
       ∧ (passed = false → all = false → exec (.phase st i) s = .next (s.waitOn 15 0 0))
       ∧ (∀ g, passed = false → all = true → s.gangAt s.issue.core = some g → s.carveDecl g < n → exec (.phase st i) s = .next (s.schedFault 5))
       ∧ (∀ g, passed = false → all = true → s.gangAt s.issue.core = some g → n ≤ s.carveDecl g →
           ∃ t, exec (.phase st i) s = .next t ∧ t.cores = s.cores ∧ (∀ h ∈ t.gangs, h.uid = g.uid → h.carve = n)
             ∧ (∀ l, (l < carvePlace g.uid (g.carve * 2 ^ 25) ∨ carvePlace g.uid (g.carve * 2 ^ 25) + (n - g.carve) * 2 ^ 25 ≤ l) →
                 t.mem.get l = s.mem.get l)))

/-- R51, R115, R118, R238, R239: the first walker to reach a TDEF performs it once its tile is undefined, and faults (schedule fault 4) on
an image that R115 refuses; the last to reach a TUNDEF performs it, and faults (3) when the tile is not defined; the others pass, and
one that passes before the last has is kept as a pending TUNDEF (R70). The tile's poison mark goes with its definition (R71). -/
def Obligations.TileDefinitions : Prop :=
  ∀ (s : State) (st : BitVec 2) (t a e : BitVec 6) (u : BitVec 3), s.issue.core < 480 → u ≠ 0 →
    let td := s.cur.tile t.toNat
    (∀ i img, (i, img) ∈ [(Instr.tdef st t a, some (s.srcK st a)), (.tdefTable st t e u, s.cur.tileTable[64 * (u.toNat - 1) + e.toNat]?)] →
      (s.isFirst = false → exec i s = .next s)
      ∧ (s.isFirst = true → td.defd = true → exec i s = .next (s.waitOn 14 t.toNat 0))
      ∧ (s.isFirst = true → td.defd = false → (img = none ∨ ∃ w, img = some w ∧ tileOk w = false) → exec i s = .next (s.schedFault 4))
      ∧ (∀ w, s.isFirst = true → td.defd = false → img = some w → tileOk w = true → ∃ r x, exec i s = .next r
          ∧ r = s.modCur (fun k => k.setTile t.toNat x) ∧ x.w0 = w ∧ x.defd = true ∧ x.psn = false ∧ x.fill = 0 ∧ x.use = 0))
    ∧ (s.isLast = false → ∃ r, exec (.tundef st t) s = .next r ∧ r = s.modCur (fun k => { k with undefs := r.cur.undefs })
        ∧ (s.cur.lastPassed s.walk = false → (t.toNat, s.walk) ∈ r.cur.undefs))
    ∧ (s.isLast = true → td.defd = false → exec (.tundef st t) s = .next (s.schedFault 3))
    ∧ (s.isLast = true → td.defd = true → ∃ r, exec (.tundef st t) s = .next r
        ∧ r = s.modCur fun k => { k.setTile t.toNat { td with defd := false, psn := false, idx := 0xFF } with undefs := r.cur.undefs })

/-! ## Addresses, loads and stores -/

/-- R262, R56, R256, R263, R71, R265: LD enters A's order with its destination, an a register that then waits, or an LQ entry; a full LQ
waits. LDS always takes an LQ entry, and one that may not reach its bytes enters A's order all the same, with the cause and address
that it will record. PREF faults in the gang window only, and changes no value. R262, R266, R56, R256, R511, R148, R150: an LD or LDS
at the head of A's order reads some of the 8-byte units of its bytes and stays, where it has several, or reads the rest: its bytes,
zero- or sign-extended, come to its a register, which then waits for nothing more, or to its LQ entry; data that carry an error mark
leave the register bad, or poison the entry. R71, R263, R506: an LDS that could not reach its bytes poisons its entry with the lowest
free deferred-fault record, or with index 0xFF. That it takes its record only now, when it is performed, is the model's choice (log
27). -/
def Obligations.LoadsWhole : Prop :=
  (∀ (s s1 : State) (st z : BitVec 2) (d a b : BitVec 6) (x c : BitVec 1) (va : Int) (sn : Snap), s.issue.core < 480 →
     mrAddr st a b z c s = .ok va →
     (s.access 2 permR va (2 ^ z.toNat) = .ok (sn, s1) →
       (d.toNat < 32 → ∃ t u, exec (.ld st d a b z x c) s = .next t
         ∧ u = (s1.modCur fun k => { k with aPend := if d = 0 then k.aPend else k.aPend ||| (1 <<< d.toNat) })
         ∧ issuesLoad u t (.ld (BitVec.ofInt 52 va) z (x == 1) (some (d.setWidth 5)) 0 false) sn)
       ∧ (d = 63 → s1.cur.lq.length < 64 → ∃ t, exec (.ld st d a b z x c) s = .next t
         ∧ issuesLoad (s1.modCur Core.reserved) t (.ld (BitVec.ofInt 52 va) z (x == 1) none s1.cur.lqTag false) sn)
       ∧ (s1.cur.lq.length < 64 → ∃ t, exec (.lds st a b z x c) s = .next t
         ∧ issuesLoad (s1.modCur Core.reserved) t (.ld (BitVec.ofInt 52 va) z (x == 1) none s1.cur.lqTag true) sn)
       ∧ (d = 63 → 64 ≤ s1.cur.lq.length → exec (.ld st d a b z x c) s = .next (s1.waitOn 0 0 0)
         ∧ exec (.lds st a b z x c) s = .next (s1.waitOn 0 0 0)))
     ∧ (∀ f, s.reach (s.xctx 2) permR va (2 ^ z.toNat) = .error (.fail f) →
         (exec (.ld st d a b z x c) s = .next (s.accessFault f))
         ∧ (s.cur.lq.length < 64 → ∃ t, exec (.lds st a b z x c) s = .next t
           ∧ issuesLoad ((s.modCur Core.reserved).consumedWalk s.issue.core f.ue) t (.deferred s.cur.lqTag f.cause (BitVec.ofNat 52 f.va)) [])
         ∧ (64 ≤ s.cur.lq.length → exec (.lds st a b z x c) s = .next (s.waitOn 0 0 0)))
     ∧ ((0 ≤ va ∧ va < (2 ^ 52 : Nat) ∧ spaceOf va.toNat = 2) → ∀ l, exec (.pref st l a b z c) s = .next (s.accessFault (accFail 4 va.toNat)))
     ∧ (¬ (0 ≤ va ∧ va < (2 ^ 52 : Nat) ∧ spaceOf va.toNat = 2) → exec (.pref st 1 a b z c) s = .next s
         ∧ (∀ e, s.reach (s.xctx 0) permR (va / 128 * 128) 128 = .error e → exec (.pref st 0 a b z c) s = .next s)
         ∧ (∀ p u, s.reach (s.xctx 0) permR (va / 128 * 128) 128 = .ok (p, u) →
             ∃ t, exec (.pref st 0 a b z c) s = .next t ∧ onlyL1 u t ∧ sameMem u t)))
  ∧ (∀ (s : State) (c : Nat) (va : VA) (z : BitVec 2) (sx spec : Bool) (tag : Nat) (walk : W64) (epoch : Nat) (sn : Snap) (got : List Got)
       (us : List Nat) (r : List LoadOp), c < 480 → (s.core c).stores = [] →
       (∀ cause, (s.core c).loads = ⟨.deferred tag cause va, walk, epoch, sn, got, us⟩ :: r → ∃ t i, exec (.loadDataArrival c) s = .next t ∧ sameMem s t
         ∧ (t.core c).loads = r ∧ (∀ j, j < 480 → j ≠ c → t.core j = s.core j) ∧ (t.core c).a = (s.core c).a
         ∧ (∀ (j : Nat) (e : LQEnt), (s.core c).lq[j]? = some e →
             (t.core c).lq[j]? = some (if e.tag = tag then ⟨tag, true, BitVec.ofNat 64 i, true, false⟩ else e))
         ∧ ((i < 32 ∧ vget (t.core c).dft i (0, 0) = (BitVec.ofNat 64 (1 <<< 63 ||| cause <<< 56 ||| va.toNat % 2 ^ 52), walk)
               ∧ (vget (s.core c).dft i (0, 0)).1.getLsbD 63 = false ∧ ∀ j, j < i → (vget (s.core c).dft j (0, 0)).1.getLsbD 63 = true)
           ∨ (i = 0xFF ∧ (t.core c).dft = (s.core c).dft ∧ ∀ j, j < 32 → (vget (s.core c).dft j (0, 0)).1.getLsbD 63 = true)))
       ∧ (quiet s → (s.core c).l1 = [] → ∀ d, (s.core c).loads = ⟨.ld va z sx d tag spec, walk, epoch, sn, got, us⟩ :: r →
         let n := 2 ^ z.toNat
         let o := s.over got
         let m := ofBytes (o.rdV sn va.toNat n)
         let v : W64 := if sx then BitVec.ofInt 64 (toSigned (8 * n) m) else BitVec.ofNat 64 m
         let stays (t : State) : Prop := 2 ≤ (unitsOf (sn.pieces va.toNat n)).length
           ∧ ∃ g l, t.core c = { s.core c with loads := ⟨.ld va z sx d tag spec, walk, epoch, sn, got ++ g, us⟩ :: r, l1 := l }
             ∧ ∀ x ∈ g, x.unit ∈ unitsOf (sn.pieces va.toNat n) ∧ (∀ y ∈ got, y.unit ≠ x.unit) ∧ x.bytes = s.rd (8 * x.unit) 8
         (o.markedV sn va.toNat n = none → ∃ t, exec (.loadDataArrival c) s = .next t ∧ sameMem s t
           ∧ (∀ j, j < 480 → j ≠ c → t.core j = s.core j)
           ∧ (stays t ∨ ((t.core c).loads = r
             ∧ (∀ e, d = some e → e ≠ 0 → vget (t.core c).a e.toNat 0 = v ∧ (∀ j, j ≠ e.toNat → vget (t.core c).a j 0 = vget (s.core c).a j 0)
                 ∧ (∀ b, (e.toNat, b) ∉ (t.core c).aBad) ∧ (t.core c).lq = (s.core c).lq
                 ∧ ((∀ l ∈ r, ∀ va z sx tag sp, l.kind ≠ .ld va z sx (some e) tag sp) → (t.core c).aPend.getLsbD e.toNat = false))
             ∧ (d = some 0 → (t.core c).a = (s.core c).a ∧ (t.core c).lq = (s.core c).lq)
             ∧ (d = none → (t.core c).a = (s.core c).a ∧ ∀ (i : Nat) (e : LQEnt), (s.core c).lq[i]? = some e →
                 (t.core c).lq[i]? = some (if e.tag = tag then ⟨tag, true, v, false, false⟩ else e)))))
         ∧ (∀ l, o.markedV sn va.toNat n = some l → ∃ t, exec (.loadDataArrival c) s = .next t
           ∧ (stays t ∨ ((t.core c).loads = r ∧ (t.core c).a = (s.core c).a
             ∧ (∀ e, d = some e → e ≠ 0 → ∃ b, (e.toNat, b) ∈ (t.core c).aBad)
             ∧ (d = none → ∃ i, ∀ (j : Nat) (e : LQEnt), (s.core c).lq[j]? = some e → e.tag = tag →
                 (t.core c).lq[j]? = some ⟨tag, true, BitVec.ofNat 64 i, true, false⟩))))))

/-- R264, R255, R496, R290, R377, R176, R291: ST enters S's order with its value and bytes; STASH reserves a slot of its ring by advancing
the header's HEAD word, writes nothing else, and enters S's order; a full ring waits; STASHDROP advances TAIL, and faults (access fault
4) when the ring's slots reach out of translated space; DISCARD enters S's order; CLEAN, and INVL1 and INVL1R but for the core's own
L1, change nothing. R264, R126, R148, R149, R169, R496: an ST at the head of S's order, whose lines have room, is performed at its
bytes, little-endian, each aligned 8-byte unit whole: it writes some units and stays, or writes the rest and leaves the order; a store
within one unit leaves at once. No other byte changes; the core's own L1 copies follow. Without room in a cantilever page it is held,
and reported. -/
def Obligations.StoresWhole : Prop :=
  (∀ (s s1 s2 s3 s4 : State) (st z : BitVec 2) (d a t6 : BitVec 6) (w o : BitVec 4) (rel : BitVec 1) (x v : W64) (sn p : Snap)
     (hd : Rec8), s.issue.core < 480 →
     let va := (x.toNat : Int) + immVal o.toNat 4 true s.issue.exts * ((2 ^ z.toNat : Nat) : Int)
     (s.srcS st w.toNat a = .ok (x, s1) → s1.srcS st w.toNat d = .ok (v, s2) → s2.access 2 permW va (2 ^ z.toNat) = .ok (sn, s3) →
       s3.roomFor sn va.toNat (2 ^ z.toNat) = .ok s4 →
       ∃ t, exec (.st st d a w z o) s = .next t ∧ issuesStore s4 t (.st (BitVec.ofInt 52 va) (2 ^ z.toNat) v) sn)
     ∧ (∀ tl, s.srcS st w.toNat a = .ok (x, s1) → s1.tileTest t6 w.toNat = .ok tl → tl.psn = false → stashHeader x s1 = .ok (hd, sn, s2) →
         let n := tRows tl.w0 * tRowBytes tl.w0
         let base := fld hd[0] 0 52
         let at' := base + hd[3].toNat % fld hd[1] 0 32 * fld hd[1] 32 32
         n ≤ fld hd[1] 32 32 → base + fld hd[1] 0 32 * fld hd[1] 32 32 ≤ 0xE * 2 ^ 48 → s2.access 0 permW at' n = .ok (p, s3) →
         ((hd[3] - hd[2]).toNat < fld hd[1] 0 32 → s3.roomFor p at' n = .ok s4 → ∃ t, exec (.stash st t6 a w rel) s = .next t
           ∧ issuesStore (s4.stashWord (sn.place (x.toNat + 24)) (hd[3] + 1)) t
               (.stash (BitVec.ofNat 52 at') (s4.issue.pre.tileRef t6) (rel == 1)) p)
         ∧ (fld hd[1] 0 32 ≤ (hd[3] - hd[2]).toNat → exec (.stash st t6 a w rel) s = .next (s3.waitOn 11 0 w.toNat)))
     ∧ (s.srcS st 0 a = .ok (x, s1) → stashHeader x s1 = .ok (hd, sn, s2) →
         let edge := fld hd[0] 0 52 + fld hd[1] 0 32 * fld hd[1] 32 32
         (0xE * 2 ^ 48 < edge → exec (.stashdrop st a) s = .next (s2.accessFault (accFail 4 (fld hd[0] 0 52))))
         ∧ (edge ≤ 0xE * 2 ^ 48 → hd[2] = hd[3] → exec (.stashdrop st a) s = .next s2)
         ∧ (edge ≤ 0xE * 2 ^ 48 → hd[2] ≠ hd[3] → exec (.stashdrop st a) s = .next (s2.stashWord (sn.place (x.toNat + 16)) (hd[2] + 1))))
     ∧ (s.srcS st 0 a = .ok (x, s1) → s1.srcS st 0 d = .ok (v, s2) →
         (∀ e, (x.toNat % 128 ≠ 0 ∨ v.toNat % 128 ≠ 0) → e = accFail 5 (x.toNat % 2 ^ 52) →
           exec (.discard st a d) s = .next (s2.accessFault e) ∧ exec (.clean st a d) s = .next (s2.accessFault e))
         ∧ (x.toNat % 128 = 0 → v = 0 → exec (.discard st a d) s = .next s2 ∧ exec (.clean st a d) s = .next s2)
         ∧ (x.toNat % 128 = 0 → v.toNat % 128 = 0 → v ≠ 0 → v.toNat ≤ 2 ^ 30 →
           (s2.access 0 permW x.toNat v.toNat = .ok (sn, s3) →
             ∃ t, exec (.discard st a d) s = .next t ∧ issuesStore s3 t (.discard (BitVec.ofNat 52 x.toNat) v.toNat) sn)
           ∧ (s2.access 0 permR x.toNat v.toNat = .ok (sn, s3) → exec (.clean st a d) s = .next s3)))
     ∧ (exec (.invl1 st) s = .next (s.modCur fun k => { k with l1 := [] }))
     ∧ (s.srcA st a = .ok x → s.srcA st d = .ok v → x.toNat % 128 = 0 → v.toNat % 128 = 0 → v.toNat ≤ 2 ^ 30 →
         (v = 0 → exec (.invl1r st a d) s = .next s)
         ∧ (v ≠ 0 → s.access 0 ⟨false, false, false⟩ x.toNat v.toNat = .ok (sn, s1) → ∃ t, exec (.invl1r st a d) s = .next t
             ∧ t = (s1.modCur fun k => { k with l1 := t.cur.l1 })
             ∧ (∀ e, e ∈ t.cur.l1 ↔ e ∈ s1.cur.l1 ∧ ∀ q ∈ sn.pieces x.toNat v.toNat, e.1 * 32 + 32 ≤ q.1 ∨ q.1 + q.2 ≤ e.1 * 32))))
  ∧ (∀ (s : State) (c : Nat) (va : VA) (n : Nat) (v walk : W64) (epoch : Nat) (sn : Snap) (got : List Got) (us : List Nat), c < 480 → quiet s →
       s.mem.wf = true → (s.core c).stores = [⟨.st va n v, walk, epoch, sn, got, us⟩] → (s.core c).loads = [] → (s.core c).pubs = [] →
       let ps := sn.pieces va.toNat n
       let todo := clip ps ((unitsOf ps).filter fun u => !us.contains u)
       let whole := (s.wrV ps (toBytes n v.toNat)).mem
       (∀ l, s.cantTake todo (some (.walker c .S)) = .error l →
         exec (.storePerformed c) s = .next (s.lacksRoom c (cantPart l) (s.hdie (cantPart l) (cantVa l) (some (.walker c .S))) (cantVa l)))
       ∧ ((s.cantTake todo (some (.walker c .S))).isOk = true → ∃ t, exec (.storePerformed c) s = .next t
         ∧ (∀ j, j < 480 → j ≠ c → t.core j = s.core j)
         ∧ (t.core c = { s.core c with stores := [], l1 := (t.core c).l1 }
             ∨ ∃ vs l, 2 ≤ (unitsOf ps).length ∧ t.core c = { s.core c with stores := [⟨.st va n v, walk, epoch, sn, got, vs ++ us⟩], l1 := l })
         ∧ ((t.core c).stores = [] → ∀ l, l / 8 ∉ us → t.mem.get l = whole.get l)
         ∧ (∀ u, (∀ l, l / 8 = u → t.mem.get l = s.mem.get l) ∨ ∀ l, l / 8 = u → t.mem.get l = whole.get l)
         ∧ (∀ l, (∀ p ∈ ps, l < p.1 ∨ p.1 + p.2 ≤ l) → t.mem.get l = s.mem.get l)
         ∧ ((unitsOf ps).length ≤ 1 → (t.core c).stores = []
             ∧ (us = [] → va.toNat % 65536 + n ≤ 65536 → ∀ i, i < n → t.mem.get (sn.place va.toNat + i) = (toBytes n v.toNat).getD i 0))))

/-! ## Tiles in memory, atomics, address waits -/

/-- R267, R258, R269, R270, R108, R122, R117: TLD, TLDS and TLDP read their layout and check it in the order of R258, then enter A's order
with the pages that they reach; the first failing check faults; a tile not defined is schedule fault 3. A TLDS keeps the pages that
fail for its fill; a box of it that lies in two ranges of R108 fails whole with cause 4; one whose layout record may not be read fails
whole with that cause (R270 names no address for it: log 27). R269, R123, R148, R155, R156, R266, R118, R271, R325: a tile load without
a failing element reads some 8-byte units of its box, writes some units of its tile and stays, or reads and writes the rest, fills the
tile once and leaves: an element in the extent has its bits in memory as the load has read it, a halo element the pad value; a TLDSC
reads its codes in the same way, and then they become the newest entry of the scale queue, 127 outside the extent. -/
def Obligations.TileLoadsWhole : Prop :=
  (∀ (s s1 : State) (st : BitVec 2) (t g : BitVec 6) (m : List W64) (l : Rec8) (i : Instr) (n : Nat), s.issue.core < 480 →
     (i, n) ∈ [(Instr.tld st t g, 3), (.tlds st t g, 3), (.tldp st t g, 4)] → s.grpA st n g = .ok m →
     let td := s.issue.pre.tile t.toNat
     let ref := s.issue.pre.tileRef t
     let o := originOf (nth m 1 0) (nth m 2 0)
     let segs := boxSegs l o (tRows td.w0) (tCols td.w0)
     let at' := nth m 0 0
     (td.defd = false → exec i s = .next (s.schedFault 3))
     ∧ (td.defd = true → at'.toNat % 64 ≠ 0 → exec i s = .next (s.layoutFault 1))
     ∧ (∀ e, td.defd = true → i ≠ .tlds st t g → s.readLayout at' = .error e → exec i s = .next e)
     ∧ (∀ e u, td.defd = true → i = .tlds st t g → specLayout at' s = .ok (.error e, u) → ∃ v, exec i s = .next v
         ∧ issuesLoad u v (.tlost ref e.1 (BitVec.ofNat 52 e.2)) [])
     ∧ (td.defd = true → (i ≠ .tlds st t g ∧ s.readLayout at' = .ok (l, s1)) ∨ (i = .tlds st t g ∧ specLayout at' s = .ok (.ok l, s1)) →
       (lMxl l = 2 ∨ tFmt td.w0 ≠ lFmt l → exec i s = .next (s1.layoutFault 2))
       ∧ (¬ (lMxl l = 2 ∨ tFmt td.w0 ≠ lFmt l) → mxOriginOk l o = false → exec i s = .next (s1.layoutFault 4))
       ∧ (¬ (lMxl l = 2 ∨ tFmt td.w0 ≠ lFmt l) → mxOriginOk l o = true →
         (addrArithBad l segs = true → exec i s = .next s1.addrFault)
         ∧ (addrArithBad l segs = false →
           (∀ sn s2, s1.accessAll 2 permR (segRanges segs) = .ok (sn, s2) → i = .tld st t g → ∃ u, exec i s = .next u
               ∧ issuesLoad s2 u (.tld ⟨l, nth m 1 0, nth m 2 0⟩ ref false []) sn)
           ∧ (∀ va, spansRanges (segRanges segs) = some va → (i = .tld st t g → exec i s = .next (s1.accessFault (accFail 4 va)))
             ∧ (i = .tlds st t g → ∃ u, exec i s = .next u
                 ∧ issuesLoad s1 u (.tld ⟨l, nth m 1 0, nth m 2 0⟩ ref true ((segPages segs).map fun a => (a.1 / 65536, 4))) []))
           ∧ (∀ sn bad s2, spansRanges (segRanges segs) = none → State.specPages (segPages segs) s1 (s1.xctx 2) [] [] = .ok (sn, bad, s2) →
               i = .tlds st t g → ∃ u, exec i s = .next u ∧ issuesLoad s2 u (.tld ⟨l, nth m 1 0, nth m 2 0⟩ ref true bad) sn)
           ∧ (∀ sn p s2 s3, (nth m 3 0).toNat % 64 = 0 → (nth m 3 0).toNat / 2 ^ 48 = 0xF →
               s1.accessAll 2 permW ((List.range (tRows td.w0)).map fun k =>
                 ((((nth m 3 0).toNat + k * tPitch td.w0 : Nat) : Int), tRowBytes td.w0)) = .ok (p, s2) →
               s2.accessAll 2 permR (segRanges segs) = .ok (sn, s3) → i = .tldp st t g → ∃ u, exec i s = .next u
               ∧ issuesLoad s3 u (.tldp ⟨l, nth m 1 0, nth m 2 0⟩ ref (BitVec.ofNat 52 (nth m 3 0).toNat)) (p ++ sn))
           ∧ (i = .tldp st t g → (nth m 3 0).toNat % 64 ≠ 0 → exec i s = .next (s1.layoutFault 5))
           ∧ (i = .tldp st t g → (nth m 3 0).toNat % 64 = 0 → (nth m 3 0).toNat / 2 ^ 48 ≠ 0xF →
               exec i s = .next (s1.accessFault (accFail 4 ((nth m 3 0).toNat % 2 ^ 52))))))))
  ∧ (∀ (s : State) (c : Nat) (b : Box) (t : TileRef) (walk : W64) (epoch : Nat) (sn : Snap) (got : List Got) (us : List Nat) (r : List LoadOp),
       c < 480 → quiet s → s.ue = [] → s.mem.wf = true → (s.core c).stores = [] → (∀ g ∈ got, g.bad = false) →
       let o := s.over got
       (∀ spec, (s.core c).loads = ⟨.tld b t spec [], walk, epoch, sn, got, us⟩ :: r → tileOk t.w0 = true → lFmt b.lay = tFmt t.w0 →
         ∃ u, exec (.tileFill c) s = .next u
           ∧ ((∃ gs vs, (u.core c).loads = ⟨.tld b t spec [], walk, epoch, sn, got ++ gs, vs ++ us⟩ :: r ∧ (u.core c).tiles = (s.core c).tiles)
             ∨ ((u.core c).loads = r
               ∧ (us = [] → ∀ i j, i < tRows t.w0 → j < tCols t.w0 → u.tileBits c t.w0 i j =
                   if (boxCoord b.origin i j).inExtent b.lay then o.elemBits sn b.lay (boxCoord b.origin i j) else padBits b.lay)
               ∧ (((s.core c).tile t.t.toNat).defd = true → ((s.core c).tile t.t.toNat).gen = t.gen →
                   ((u.core c).tile t.t.toNat).fill = ((s.core c).tile t.t.toNat).fill + 1 ∧ ((u.core c).tile t.t.toNat).psn = false)
               ∧ (((s.core c).tile t.t.toNat).gen ≠ t.gen → (u.core c).tiles = (s.core c).tiles)))
           ∧ (∀ p, (∀ i, i < tRows t.w0 → p < (tileRow c t.w0 i).1 ∨ (tileRow c t.w0 i).1 + (tileRow c t.w0 i).2 ≤ p) → u.mem.get p = s.mem.get p)
           ∧ ((unitsOf (boxPieces sn b t.w0)).length + (unitsOf (tilePieces c t.w0)).length ≤ 1 → (u.core c).loads = r))
       ∧ ((s.core c).loads = ⟨.tldsc b t, walk, epoch, sn, got, us⟩ :: r → ∃ u, exec (.scaleEntryVisible c) s = .next u ∧ sameMem s u
           ∧ ((2 ≤ (unitsOf (scalePieces sn b t.w0)).length
               ∧ ∃ gs, (u.core c).loads = ⟨.tldsc b t, walk, epoch, sn, got ++ gs, us⟩ :: r ∧ (u.core c).mat = (s.core c).mat)
             ∨ ∃ e, (u.core c).loads = r ∧ (u.core c).mat.scaleQ = (s.core c).mat.scaleQ ++ [e] ∧ e.brows = (scaleShape b.lay t.w0).1
               ∧ e.bcols = (scaleShape b.lay t.w0).2 ∧ e.bad = [] ∧ e.codes.length = e.brows * e.bcols
               ∧ ∀ i j, i < e.brows → j < e.bcols → let q := scaleRun b.lay b.origin e.bcols i
                   nth e.codes (i * e.bcols + j) 0 = if q.1 ≤ j ∧ j < q.2.1 then o.mem.get (sn.place (q.2.2.toNat + (j - q.1))) else 127)))

/-- R271, R267, R325, R122, R258: TLDSC checks its layout, its box and its scale ranges, and enters A's order; a fifth TLDSC that no matrix
unit has taken waits. R359, R358, R112, R129, R137: NMRED checks its layout and its group, none of whose ranges may lie in a window or
a cantilever page, and enters A's order. R117, R141, R73, R272, R273, R258, R496: TST and TSCAT fault on a tile that is not defined or
is over- or under-filled, wait for its fill and for a channel that writes into it, trap on poison, check their layout, and enter S's
order. -/
def Obligations.ScalesAndTileStores : Prop :=
  (∀ (s s1 s2 : State) (st : BitVec 2) (t g : BitVec 6) (m : List W64) (l : Rec8) (sn : Snap), s.issue.core < 480 →
     s.grpA st 3 g = .ok m → (s.issue.pre.tile t.toNat).defd = true →
     let w0 := (s.issue.pre.tile t.toNat).w0
     (s.readLayout (nth m 0 0) = .ok (l, s1) →
       let o := originOf (nth m 1 0) (nth m 2 0)
       let sh := scaleShape l w0
       let full := 4 ≤ s1.cur.mat.scaleQ.length + s1.cur.loads.countP (fun x => match x.kind with
         | .tldsc _ _ => true
         | _ => false)
       let rs := (List.range sh.1).map fun i => scaleRun l o sh.2 i
       let far := addrArithBad l (boxSegs l o (tRows w0) (tCols w0)) = true
         ∨ ∃ r ∈ rs, r.1 < r.2.1 ∧ (r.2.2 < 0 ∨ r.2.2 + (r.2.1 - r.1 : Nat) > (2 ^ 52 : Nat))
       let mis := lMxl l ≠ 1 ∨ tFmt w0 ≠ lFmt l
       let i := Instr.tldsc st t g
       (mis → exec i s = .next (s1.layoutFault 2))
       ∧ (¬ mis → mxOriginOk l o = false → exec i s = .next (s1.layoutFault 4))
       ∧ (¬ mis → mxOriginOk l o = true → far → exec i s = .next s1.addrFault)
       ∧ (¬ mis → mxOriginOk l o = true → ¬ far → 4096 < sh.1 * sh.2 → exec i s = .next (s1.layoutFault 5))
       ∧ (¬ mis → mxOriginOk l o = true → ¬ far → sh.1 * sh.2 ≤ 4096 → full → exec i s = .next (s1.waitOn 16 0 0))
       ∧ (¬ mis → mxOriginOk l o = true → ¬ far → sh.1 * sh.2 ≤ 4096 → ¬ full →
           s1.accessAll 2 permR (rs.map fun r => (r.2.2, r.2.1 - r.1)) = .ok (sn, s2) →
           ∃ u, exec i s = .next u ∧ issuesLoad s2 u (.tldsc ⟨l, nth m 1 0, nth m 2 0⟩ (s.issue.pre.tileRef t)) sn))
     ∧ (s.nmLayout (nth m 0 0) = .ok (l, s1) →
       let b := fld (nth m 2 0) 0 16
       let x := fld (nth m 1 0) 0 21
       let k := tRows w0 * b
       let ix : List W32 := (List.range k).map fun i => BitVec.ofNat 32 (s1.rdN (spadPlace s1.issue.core (x + 4 * i)) 4)
       let o0 := toSigned 32 (fld (nth m 1 0) 32 32)
       let bad := fld (nth m 1 0) 21 11 ≠ 0 ∨ fld (nth m 2 0) 16 48 ≠ 0 ∨ b = 0 ∨ 256 < b ∨ x % 4 ≠ 0 ∨ 65536 < k ∨ spadSize < x + 4 * k
       let mis := tFmt w0 ≠ 0 ∨ 1 < lFmt l ∨ lNdim l ≠ 2 ∨ lMxl l ≠ 0
       let segs := redSegs l o0 (tCols w0) ix.eraseDups
       (mis → exec (.nmred st t g) s = .next (s1.layoutFault 2))
       ∧ (¬ mis → bad → exec (.nmred st t g) s = .next (s1.layoutFault 5))
       ∧ (¬ mis → ¬ bad → addrArithBad l segs = true → exec (.nmred st t g) s = .next s1.addrFault)
       ∧ (¬ mis → ¬ bad → addrArithBad l segs = false → s1.accessNm permR (segRanges segs) = .ok (sn, s2) →
           ∃ u, exec (.nmred st t g) s = .next u ∧ issuesLoad s2 u (.nmred l o0 b ix (s.issue.pre.tileRef t)) sn))
     ∧ (0xE * 2 ^ 48 ≤ (nth m 0 0).toNat → (nth m 0 0).toNat < 2 ^ 52 → (nth m 0 0).toNat % 64 = 0 →
         exec (.nmred st t g) s = .next (s.accessFault (accFail 4 (nth m 0 0).toNat))))
  ∧ (∀ (s s1 s2 : State) (st : BitVec 2) (t g : BitVec 6) (w : BitVec 4) (rel : BitVec 1) (m : List W64) (l : Rec8) (sn : Snap) (i : Instr)
       (n : Nat), s.issue.core < 480 → (i, n) ∈ [(Instr.tst st t g w rel, 3), (.tscat st t g w rel, 4)] → s.grpS st n g = .ok m →
       let td := s.issue.pre.tile t.toNat
       let d := (td.fill - td.use).toNat
       let o := originOf (nth m 1 0) (nth m 2 0)
       let x := (nth m 3 0).toNat
       let ix : List W32 := (List.range (tRows td.w0)).map fun k => BitVec.ofNat 32 (s1.rdN (spadPlace s1.issue.core (x + 4 * k)) 4)
       let free := s.issue.pre.chanOverlap td.w0 0 (tRows td.w0)
       (td.defd = false → exec i s = .next (s.schedFault 3))
       ∧ (td.defd = true → d = 0 → exec i s = .next (s.waitOn 5 t.toNat w.toNat))
       ∧ (td.defd = true → 2 ≤ d → d < 2 ^ 15 → exec i s = .next (s.schedFault 1))
       ∧ (td.defd = true → 2 ^ 15 ≤ d → exec i s = .next (s.schedFault 2))
       ∧ (∀ c, td.defd = true → d = 1 → free = some c → exec i s = .next (s.waitOn 7 c w.toNat))
       ∧ (td.defd = true → d = 1 → free = none → td.psn = true → exec i s = .next (s.poisonTrap td.idx.toNat))
       ∧ (td.defd = true → d = 1 → free = none → td.psn = false → s.readLayout (nth m 0 0) = .ok (l, s1) →
         (lMxl l ≠ 0 ∨ tFmt td.w0 ≠ lFmt l → exec i s = .next (s1.layoutFault 2))
         ∧ (lMxl l = 0 → tFmt td.w0 = lFmt l →
           (i = .tst st t g w rel → storeSegs l (boxSegs l o (tRows td.w0) (tCols td.w0)) s1 = .ok (sn, s2) →
             ∃ u, exec i s = .next u ∧ issuesStore s2 u (.tst ⟨l, nth m 1 0, nth m 2 0⟩ (s.issue.pre.tileRef t) (rel == 1)) sn)
           ∧ (i = .tscat st t g w rel → (x % 4 ≠ 0 ∨ spadSize < x + 4 * tRows td.w0) → exec i s = .next (s1.layoutFault 5))
           ∧ (i = .tscat st t g w rel → x % 4 = 0 → x + 4 * tRows td.w0 ≤ spadSize → storeSegs l (scatSegs l o td.w0 ix) s1 = .ok (sn, s2) →
             ∃ u, exec i s = .next u ∧ issuesStore s2 u (.tscat ⟨l, nth m 1 0, nth m 2 0⟩ (s.issue.pre.tileRef t) (rel == 1) ix) sn))))

/-- R284, R286, R58, R158, R160: an ATOM checks its alignment, reserves an LQ entry and enters A's order; an acquire holds A back, and S
unless S has passed the bundle; an ATOMNR enters S's order. R285, R286, R246, R289, R496: an atomic leaves in its word what R285 says
of the value found there, and nothing else changes in memory; an ATOM's LQ entry gets the old value, with FLG where FADDB met its
bound; FADDT makes the walkers registered on the word read it again. One whose word lies in a cantilever page without room is held, and
reported. -/
def Obligations.AtomicsWhole : Prop :=
  (∀ (s s1 s2 s3 : State) (st o : BitVec 2) (r : BitVec 1) (a b : BitVec 6) (z : BitVec 1) (va : W64) (m : List W64) (sn : Snap), s.issue.core < 480 →
     (∀ i op y, (i, op, y) ∈ atomOps st o a b z → s.srcA st a = .ok va →
       (if op = 1 ∨ op = 12 then s.grpA st 2 b else (s.srcA st b).map fun v => [v]) = .ok m →
       let n := 4 * 2 ^ y.toNat
       (va.toNat % n ≠ 0 → exec i s = .next (s.accessFault (accFail 5 (va.toNat % 2 ^ 52))))
       ∧ (va.toNat % n = 0 → s.access 0 permRW va.toNat n = .ok (sn, s1) → s1.roomFor sn va.toNat n = .ok s2 →
         (64 ≤ s2.cur.lq.length → exec i s = .next (s2.waitOn 0 0 0))
         ∧ (s2.cur.lq.length < 64 → ∃ t u, exec i s = .next t
           ∧ issuesLoad (s2.modCur Core.reserved) u (.atom (BitVec.ofNat 4 op) (BitVec.ofNat 2 (2 + y.toNat)) o (BitVec.ofNat 52 va.toNat)
               (nth m 0 0) (nth m 1 0) s2.cur.lqTag) sn
           ∧ t = if o.getLsbD 0 then u.modCur (fun k => { k with acqHold := k.acqHold ++ [(s.walk, !walkLt s.walk k.wS.walk)] }) else u)))
     ∧ (∀ i op y v, (i, op, y) ∈ atomnrOps st r a b z → s.srcS st 0 a = .ok (va, s1) →
       (if op = 1 ∨ op = 12 then (s1.grpS st 2 b).map (fun m => (m, s1)) else (s1.srcS st 0 b).map fun v => ([v.1], v.2)) = .ok (m, v) →
       let n := 4 * 2 ^ y.toNat
       (va.toNat % n ≠ 0 → exec i s = .next (v.accessFault (accFail 5 (va.toNat % 2 ^ 52))))
       ∧ (va.toNat % n = 0 → v.access 0 permRW va.toNat n = .ok (sn, s2) → s2.roomFor sn va.toNat n = .ok s3 → ∃ t, exec i s = .next t
         ∧ issuesStore s3 t (.atomnr (BitVec.ofNat 4 op) (BitVec.ofNat 2 (2 + y.toNat)) (BitVec.ofNat 2 (2 * r.toNat)) (BitVec.ofNat 52 va.toNat)
             (nth m 0 0) (nth m 1 0)) sn)))
  ∧ (∀ (s : State) (c : Nat) (code : BitVec 4) (z o : BitVec 2) (va : VA) (v w walk : W64) (tag epoch : Nat) (sn : Snap) (got : List Got)
       (us : List Nat), c < 480 → quiet s →
       s.ue = [] → s.mem.wf = true → (s.core c).pubs = [] → 2 ≤ z.toNat → (o.getLsbD 1 = true → (s.core c).releaseDone walk = true) →
       let room (x : Walker) := s.cantTake (sn.pieces va.toNat (2 ^ z.toNat)) (some (.walker c x))
       let held (x : Walker) (p : Nat) := s.lacksRoom c (cantPart p) (s.hdie (cantPart p) (cantVa p) (some (.walker c x))) (cantVa p)
       let n := 2 ^ z.toNat
       let l := sn.place va.toNat
       va.toNat % n = 0 → l % n = 0 →
       let x := s.rdN l n
       let y := nth (atomTable (8 * n) x (v.toNat % 2 ^ (8 * n)) (w.toNat % 2 ^ (8 * n))) code.toNat 0
       let effect (t : State) : Prop := (∀ i, i < n → t.mem.get (l + i) = (toBytes n y).getD i 0)
         ∧ (∀ p, p < l ∨ l + n ≤ p → t.mem.get p = s.mem.get p)
         ∧ (code.toNat ≠ 13 → ∀ j, j < 480 → j ≠ c → t.core j = s.core j)
         ∧ (code.toNat = 13 → ∀ j q r, j < 480 → ((s.core j).wk q).await = some r → r.loc < l + n → l < r.loc + r.size →
             ((t.core j).wk q).await = some { r with seen := BitVec.ofNat 64 (t.rdN r.loc r.size), bad := false })
       (∀ r, (s.core c).loads = ⟨.atom code z o va v w tag, walk, epoch, sn, got, us⟩ :: r → (s.core c).stores = [] →
         (∀ p, room .A = .error p → exec (.loadDataArrival c) s = .next (held .A p))
         ∧ ((room .A).isOk = true → ∃ t, exec (.loadDataArrival c) s = .next t ∧ effect t ∧ (t.core c).loads = r
           ∧ (∀ (i : Nat) (e : LQEnt), (s.core c).lq[i]? = some e → (t.core c).lq[i]? = some (if e.tag = tag then
               ⟨tag, true, BitVec.ofNat 64 x, false, decide (code = 12 ∧ w.toNat % 2 ^ (8 * n) < x + v.toNat % 2 ^ (8 * n))⟩ else e))
           ∧ (o.getLsbD 0 = true → (t.core c).l1 = [] ∧ (t.core c).acqHold = (s.core c).acqHold.eraseP fun a => a.1 == walk)))
       ∧ ((s.core c).stores = [⟨.atomnr code z o va v w, walk, epoch, sn, got, []⟩] → (s.core c).loads = [] →
         (∀ p, s.cantTake (clip (sn.pieces va.toNat n) (unitsOf (sn.pieces va.toNat n))) (some (.walker c .S)) = .error p →
           exec (.storePerformed c) s = .next (held .S p))
         ∧ ((s.cantTake (clip (sn.pieces va.toNat n) (unitsOf (sn.pieces va.toNat n))) (some (.walker c .S))).isOk = true →
           ∃ t, exec (.storePerformed c) s = .next t ∧ effect t ∧ (t.core c).stores = [])))

/-- R287, R288, R289, R161, R163, R393: AWAIT and CWAIT return, as an acquire, once the word has reached the threshold, and register the
walker otherwise, unless its core has a registration already (log 23: it then reads the word at each attempt); a registered syllable
goes by the value last read; a misaligned word faults, and a damaged one is a data error. -/
def Obligations.AddressWaits : Prop :=
  ∀ (s s1 s2 s3 : State) (st : BitVec 2) (a b : BitVec 6) (w : BitVec 4) (z : BitVec 1) (va thr : W64) (i : Instr) (n : Nat) (sn : Snap),
    s.issue.core < 480 →
    ((i = .await st a b w z ∧ n = (if z = 0 then 8 else 4) ∧ s.srcA st a = .ok va ∧ s.srcA st b = .ok thr ∧ s2 = s)
      ∨ (i = .cwait st a b w ∧ n = 8 ∧ s.srcS st w.toNat a = .ok (va, s1) ∧ s1.srcS st w.toNat b = .ok (thr, s2))) →
    (va.toNat % n ≠ 0 → exec i s = .next (s2.accessFault (accFail 5 (va.toNat % 2 ^ 52))))
    ∧ (∀ r, va.toNat % n = 0 → s2.preW.await = some r → r.slot = s.issue.slot →
        (r.bad = false → thr.toNat ≤ r.seen.toNat →
          exec i s = .next ((s2.modW fun x => { x with await := none }).modCur fun k => { k with l1 := [] }))
        ∧ (r.bad = false → r.seen.toNat < thr.toNat → exec i s = .next (s2.waitOn 10 0 w.toNat (BitVec.ofNat 52 va.toNat)))
        ∧ (r.bad = true → exec i s = .next ((s2.noteUe (some r.loc)).dataError 3 va.toNat)))
    ∧ (va.toNat % n = 0 → (∀ r, s2.preW.await = some r → r.slot ≠ s.issue.slot) → s2.access 0 permR va.toNat n = .ok (sn, s3) →
        s3.nmHits [(sn.place va.toNat, n)] = [] → s3.marked (sn.place va.toNat) n = false →
        let v := s3.rdN (sn.place va.toNat) n
        (thr.toNat ≤ v → ∃ t, exec i s = .next t ∧ t = { s3.modCur fun k => { k with l1 := [] } with excl := t.excl } ∧ sameMem s3 t)
        ∧ (v < thr.toNat → ∃ t, exec i s = .next t
            ∧ (s3.registered = false → t.issue.reg =
                some ⟨s.issue.slot, BitVec.ofNat 52 va.toNat, sn.place va.toNat, n, thr, BitVec.ofNat 64 v, false⟩)
            ∧ (s3.registered = true → t.issue.reg = s3.issue.reg)
            ∧ sameMem s3 t ∧ ∃ y, t.issue.waits = s3.issue.waits ++ [y] ∧ y.res = 10 ∧ y.bidx = w ∧ y.slot = s3.issue.slot))

/-! ## Rings, semaphores, queues -/

/-- R144, R281, R282: RINIT sets an empty ring; RCLAIM takes the next slot of an enabled ring of a member of the gang and gives its handle,
or waits while every slot is taken; the forms of A, S and X do the same. R281, R282, R162, R116: RPUB ends a claim and publishes the
slot's tile once the release is complete; RWAITF waits for the fill of the head slot of the core's own ring, and RREL releases it and
moves the head; every other use is schedule fault 7, 8, 3, 1 or 2. That RPUB ends the claim at its issue, before the release, is the
model's choice (log 19), and so are the order in which S pops its two operands (log 99) and schedule fault 8 for a RREL whose head
slot's tile is not defined (log 100). -/
def Obligations.StageRings : Prop :=
  (∀ (s s1 : State) (st : BitVec 2) (x : BitVec 1) (c d : BitVec 6) (n : BitVec 3) (w : BitVec 4) (v : W64), s.issue.core < 480 →
     (∀ i, ((i = .rinit x st c n ∧ asVal x st 0 c s = .ok (v, s1)) ∨ (i = .rinitX st c n ∧ s.rdG c = ⟨v, false⟩ ∧ s1 = s)) →
       let r := vget s1.cur.rings n.toNat .reset
       let bad := v.getLsbD 13 = true ∧ (fld v 6 7 < 1 ∨ 64 < fld v 6 7 ∨ 64 < fld v 0 6 + fld v 6 7)
       (bad → exec i s = .next (s1.schedFault 7))
       ∧ (¬ bad → r.tail ≠ r.head → exec i s = .next (s1.schedFault 8))
       ∧ (¬ bad → r.tail = r.head → ∃ y : Ring, exec i s = .next (s1.modCur fun k => { k with rings := vset k.rings n.toNat y })
         ∧ y = ⟨0, 0, 0, BitVec.ofNat 7 (fld v 6 7), v.getLsbD 13, BitVec.ofNat 6 (fld v 0 6), 0⟩))
     ∧ (∀ i, ((i = .rclaim x st d c w ∧ asVal x st w.toNat c s = .ok (v, s1)) ∨ (i = .rclaimX st d c w ∧ s.rdG c = ⟨v, false⟩ ∧ s1 = s)) →
       let rank := fld v 0 4
       let m := fld v 4 3
       (fld s1.cur.id.gsize 0 4 ≤ rank → exec i s = .next (s1.schedFault 7))
       ∧ (∀ o, rank < fld s1.cur.id.gsize 0 4 → s1.peerCore s1.issue.core rank = some o → o < 480 →
         let r := vget (s1.core o).rings m .reset
         ((s1.core o).done = true ∨ r.en = false → exec i s = .next (s1.schedFault 7))
         ∧ ((s1.core o).done = false → r.en = true → r.nslot.toNat ≤ (r.tail - r.head).toNat → exec i s = .next (s1.waitOn 6 m w.toNat))
         ∧ ((s1.core o).done = false → r.en = true → (r.tail - r.head).toNat < r.nslot.toNat →
           let k := r.tail.toNat % r.nslot.toNat
           let h : W64 := BitVec.ofNat 64 (k * 2 ^ 56 + (0xF * 2 ^ 48 + rank * 2 ^ 21) + tBase ((s1.core o).tile (r.slot0.toNat + k)).w0)
           let y : Ring := { r with tail := r.tail + 1, claimed := r.claimed + 1, bits := r.bits ||| ((1 : W64) <<< k) }
           let u := s1.modCore o fun q => { q with rings := vset q.rings m y }
           ∃ t, exec i s = .next t ∧ sameMem s1 t
             ∧ (i = .rclaim 0 st d c w → d.toNat < 32 → t.aNow d = (if d = 0 then 0 else h) ∧ onlyA u t [d.toNat])
             ∧ (i = .rclaim 1 st d c w → d.toNat < 16 → t.sNow d = (if d = 0 then 0 else h) ∧ onlyS u t [d.toNat])
             ∧ (i = .rclaimX st d c w → t.gNow d = (if d = 0 then ⟨0, false⟩ else ⟨h, false⟩) ∧ onlyG u t [d.toNat])))))
  ∧ (∀ (s s1 s2 : State) (st : BitVec 2) (x : BitVec 1) (c d : BitVec 6) (n : BitVec 3) (w : BitVec 4) (h v : W64), s.issue.core < 480 →
       (∀ i, ((i = .rpub x st c d ∧ asVal x st 0 c s = .ok (h, s1) ∧ asVal x st 0 d s1 = .ok (v, s2))
           ∨ (i = .rpubX st c d ∧ s.rdG c = ⟨h, false⟩ ∧ s.rdG d = ⟨v, false⟩ ∧ s2 = s)) →
         let rank := fld v 0 4
         let m := fld v 4 3
         ∀ o, rank < fld s2.cur.id.gsize 0 4 → s2.peerCore s2.issue.core rank = some o → (s2.core o).done = false →
           (vget (s2.core o).rings m .reset).en = true →
           let r := vget (s2.core o).rings m .reset
           let k := fld h 56 6
           let td := (s2.core o).tile (r.slot0.toNat + k)
           (r.bits.getLsbD k = false → exec i s = .next (s2.schedFault 8))
           ∧ (r.bits.getLsbD k = true → td.defd = false → exec i s = .next (s2.schedFault 3))
           ∧ (r.bits.getLsbD k = true → td.defd = true → exec i s = .next
             ((s2.modCore o fun q => { q with rings := vset q.rings m { r with bits := r.bits &&& ~~~((1 : W64) <<< k) } }).modCur fun q =>
               { q with pubs := q.pubs ++ [⟨o, BitVec.ofNat 3 m, (s2.core o).tileRef (BitVec.ofNat 6 (r.slot0.toNat + k)), s.walk⟩] })))
       ∧ (let r := vget s.cur.rings n.toNat .reset
         let t := r.slot0.toNat + r.head.toNat % r.nslot.toNat
         let td := s.cur.tile t
         let q := (td.fill - td.use).toNat
         (∀ i, i ∈ [Instr.rwaitf x st n w, .rwaitfX st n w] →
           (r.en = false → exec i s = .next (s.schedFault 7))
           ∧ (r.en = true → td.defd = false → exec i s = .next (s.schedFault 3))
           ∧ (r.en = true → td.defd = true → q = 0 → exec i s = .next (s.waitOn 6 n.toNat w.toNat))
           ∧ (r.en = true → td.defd = true → q = 1 → exec i s = .next s)
           ∧ (r.en = true → td.defd = true → 2 ≤ q → exec i s = .next (s.schedFault (if q < 2 ^ 15 then 1 else 2))))
         ∧ (∀ i, i ∈ [Instr.rrel x st n, .rrelX st n] →
           (r.en = false → exec i s = .next (s.schedFault 7))
           ∧ (r.en = true → (td.defd = false ∨ q ≠ 1) → exec i s = .next (s.schedFault 8))
           ∧ (r.en = true → td.defd = true → q = 1 → t < 64 → ∃ u, exec i s = .next u
               ∧ u = (s.modCur fun k =>
                 { k with tiles := vset k.tiles t { td with use := td.use + 1 }, rings := vset k.rings n.toNat { r with head := r.head + 1 } })))))

/-- R146, R283: SEMADD completes and adds its count to a semaphore of the core, saturating with OVF; SEMSIG does the same at once where no
store of the core is pending, and otherwise completes by taking its place behind them, where it adds its count once they are performed
(R152); SEMCLR completes and leaves COUNT 0 and OVF 0; nothing else changes. -/
def Obligations.SemaphoreCounts : Prop :=
  ∀ (s : State) (st : BitVec 2) (m n : BitVec 6), s.issue.core < 480 → m.toNat < 32 →
    let x := vget s.cur.sems m.toNat .reset
    let put (y : Sem) : State := s.modCur fun k => { k with sems := vset k.sems m.toNat y }
    let sum := x.count.toNat + (n.toNat + 1)
    let y : Sem := if sum < 2 ^ 32 then ⟨BitVec.ofNat 32 sum, x.ovf⟩ else ⟨0xFFFFFFFF, true⟩
    exec (.semadd st m n) s = .next (put y)
    ∧ (s.cur.stores = [] → exec (.semsig st m n) s = .next (put y))
    ∧ (s.cur.stores ≠ [] → ∃ t, exec (.semsig st m n) s = .next t ∧ issuesStore s t (.semsig (m.setWidth 5) (n.toNat + 1)) []
        ∧ t.cur.sems = s.cur.sems)
    ∧ (∀ (c : Nat) (r : List StoreOp) (k : Core) (o : StoreOp), o.kind = .semsig (m.setWidth 5) (n.toNat + 1) → k = s.core c →
        k.stores = o :: r → c < 480 → (∀ p, p ∈ r → ∀ q j, p.kind ≠ .semsig q j) → k.pubs = [] →
        let z := vget k.sems m.toNat .reset
        ∃ u, s.settle c = u ∧ vget (u.core c).sems m.toNat .reset = z.add (n.toNat + 1) ∧ (u.core c).stores = r)
    ∧ exec (.semclr st m) s = .next (put ⟨0, false⟩)

/-- R55, R56, R58, R61, R246, R73, R248: the pushes complete while their queue has room and add one entry, poison included in SQ and AQ,
and wait under wb0 while it is full; POPL and QPOPF complete once the data of the oldest LQ entry are here, and take it; CHK and CHKT
complete on what is clean and trap on poison. Where QPOPF names one register twice the flag remains in it, which is the model's choice
(log 74). -/
def Obligations.QueuesAndChecks : Prop :=
  ∀ (s : State) (st : BitVec 2) (g d b t : BitVec 6) (w : BitVec 4), s.issue.core < 480 →
    let x := s.rdG g
    (s.cur.sq.length < 64 → exec (.pushs st g) s = .next (s.modCur fun k => { k with sq := k.sq ++ [⟨x.value, x.psn⟩] }))
    ∧ (64 ≤ s.cur.sq.length → exec (.pushs st g) s = .next (s.waitOn 1 0 0))
    ∧ (s.cur.aq.length < 32 → exec (.pusha st g) s = .next (s.modCur fun k => { k with aq := k.aq ++ [⟨x.value, x.psn⟩] }))
    ∧ (32 ≤ s.cur.aq.length → exec (.pusha st g) s = .next (s.waitOn 2 0 0))
    ∧ (x.psn = false → s.cur.bq.length < 32 → ∃ v, exec (.pushb st g) s = .next (s.modCur fun k => { k with bq := k.bq ++ [v] })
        ∧ (v = true ↔ x.value ≠ 0))
    ∧ (x.psn = false → 32 ≤ s.cur.bq.length → exec (.pushb st g) s = .next (s.waitOn 3 0 0))
    ∧ (x.psn = false → s.cur.kq.length < 16 → exec (.pushk st g) s = .next (s.modCur fun k => { k with kq := k.kq ++ [x.value] }))
    ∧ (x.psn = false → 16 ≤ s.cur.kq.length → exec (.pushk st g) s = .next (s.waitOn 4 0 0))
    ∧ (x.psn = true → ∀ i, i ∈ [Instr.pushb st g, .pushk st g, .chk st g] → exec i s = .next (s.poisonTrap (x.value.toNat % 256)))
    ∧ (x.psn = false → exec (.chk st g) s = .next s)
    ∧ (∀ e r, s.cur.lq = e :: r → e.here = true →
        (∃ u, exec (.popl st d w) s = .next u ∧ u.gNow d = (if d = 0 then ⟨0, false⟩ else ⟨e.value, e.psn⟩)
          ∧ onlyG (s.modCur fun k => { k with lq := r }) u [d.toNat])
        ∧ (∃ u, exec (.qpopf st d b w) s = .next u ∧ onlyG (s.modCur fun k => { k with lq := r }) u [d.toNat, b.toNat]
          ∧ (d ≠ b → u.gNow d = (if d = 0 then ⟨0, false⟩ else ⟨e.value, e.psn⟩))
          ∧ u.gNow b = (if b = 0 then ⟨0, false⟩ else if e.psn then ⟨e.value, true⟩ else ⟨if e.flg then 1 else 0, false⟩)))
    ∧ ((s.cur.lq = [] ∨ ∃ e r, s.cur.lq = e :: r ∧ e.here = false) →
        exec (.popl st d w) s = .next (s.waitOn 0 0 w.toNat) ∧ exec (.qpopf st d b w) s = .next (s.waitOn 0 0 w.toNat))
    ∧ (let td := s.issue.pre.tile t.toNat
      (td.defd = false → exec (.chkt st t) s = .next (s.schedFault 3))
      ∧ (td.defd = true → td.psn = false → exec (.chkt st t) s = .next s)
      ∧ (td.defd = true → td.psn = true → exec (.chkt st t) s = .next (s.poisonTrap td.idx.toNat)))

/-! ## Stops, system registers, rows -/

/-- R74, R69, R505, R250: every stop keeps its walker's position and registers, marks it stopped with a record of what it met, ends its
waits, its registration and what its part had read, and leaves the other cores alone; TRAP and EBREAK stop X with their code. -/
def Obligations.TakingStops : Prop :=
  ∀ (s : State) (st : BitVec 2) (c : BitVec 14) (f : AccFail) (cause i va : Nat), s.issue.core < 480 → s.issue.slot < 8 → cause < 256 → f.cause < 256 →
    (exec (.trap st c) s = .next (s.programTrap c.toNat)) ∧ (exec (.ebreak st c) s = .next (s.breakpoint c.toNat))
    ∧ ∀ t code y, (t, code, y) ∈ [(s.accessFault f, 3, f.cause), (s.layoutFault cause, 4, cause), (s.addrFault, 5, 0), (s.schedFault cause, 6, cause),
        (s.illegal cause, 7, cause), (s.loopOverflow cause, 8, cause), (s.poisonTrap i, 9, 0), (s.dataError cause va, 0xA, cause),
        (s.programTrap c.toNat, 0xB, 0), (s.breakpoint c.toNat, 0xC, 0)] →
      ∃ rec : Rec8, t.curW = { s.curW with run := .stopped, stop := some rec, stalls := [], await := none, got := [] }
        ∧ t.cores = (s.modW fun _ => t.curW).cores
        ∧ fld rec[0] 0 5 = code ∧ fld rec[0] 5 2 = walkerNo s.issue.w ∧ fld rec[0] 7 3 = s.issue.slot ∧ fld rec[0] 10 54 = s.issue.addr.toNat / 32
        ∧ fld rec[1] 56 8 = y ∧ rec[4] = s.walk
        ∧ (code = 0xB ∨ code = 0xC → fld rec[2] 36 14 = c.toNat)
        ∧ (code = 9 → rec[2] = BitVec.ofNat 64 i ∧ (i < 32 → (rec[5], rec[6]) = vget s.cur.dft i (0, 0)))
        ∧ (code = 3 → fld rec[1] 0 52 = f.va % 2 ^ 52)

/-- R503, R504: an event is written whole at its queue's tail while there is room, and the tail moves on; without room a stop event waits,
and any other is dropped and counted. -/
def Obligations.EventsPosted : Prop :=
  ∀ (s : State) (q cls c : Nat) (body : List W64), q < 9 → s.mem.wf = true → (vget s.evq q .none0).waiting = [] →
    let e := vget s.evq q .none0
    let at' := fld e.w0 12 32 * 4096 + 128 * (e.tail.toNat % e.cap)
    let ev := s.eventHeader q cls (some c) ++ pad8 body
    (e.hasRoom = true → ∃ t, t = s.postEvent q cls (some c) body
      ∧ (∀ i, i < 16 → t.rd64 (at' + 8 * i) = nth ev i 0)
      ∧ (∀ l, l < at' ∨ at' + 128 ≤ l → t.mem.get l = s.mem.get l)
      ∧ (vget t.evq q .none0).tail = e.tail + 1 ∧ (vget t.evq q .none0).seq = e.seq + 1 ∧ t.cores = s.cores
      ∧ (∀ p, p ≠ q → vget t.evq p .none0 = vget s.evq p .none0))
    ∧ (e.hasRoom = false → ∃ t, t = s.postEvent q cls (some c) body ∧ t.mem = s.mem ∧ t.cores = s.cores
      ∧ (vget t.evq q .none0).tail = e.tail ∧ (vget t.evq q .none0).seq = e.seq + 1
      ∧ (cls = 1 → (vget t.evq q .none0).waiting = [ev] ∧ (vget t.evq q .none0).w0.getLsbD 62 = true)
      ∧ (cls ≠ 1 → (vget t.evq q .none0).waiting = []
          ∧ (vget t.evq q .none0).drop = if e.drop = 0xFFFFFFFF then e.drop else e.drop + 1))

/-- R250, R251, R252, R235, R114, R140, R144, R146, R66: RDSYS gives every system register of R251 as the part found it, and a read of
BARSTAT clears LATE; WRSYS writes DSCALE and nothing else; a poisoned source traps. CYCLE is 0.85 times TIME from a free phase of each
core, less the cycles that droop has cost it, rounded down (R252; the form is the model's: log 92). -/
def Obligations.SystemRegisters : Prop :=
  ∀ (s : State) (st : BitVec 2) (d a : BitVec 6) (n : BitVec 14), s.issue.core < 480 →
    let k := s.issue.pre
    let gives (m : Nat) (v : W64) : Prop := n.toNat = m → ∃ t, exec (.rdsys st d n) s = .next t
      ∧ t.gNow d = (if d = 0 then ⟨0, false⟩ else ⟨v, false⟩)
      ∧ onlyG (s.modCur fun k => { k with late := if m = 0xC then false else k.late }) t [d.toNat]
    gives 0 k.id.core ∧ gives 1 k.id.gang ∧ gives 2 k.id.ngang ∧ gives 3 k.id.gsize ∧ gives 4 k.id.cluster ∧ gives 5 k.id.die
    ∧ gives 6 k.id.dev ∧ gives 7 k.id.inst ∧ gives 8 s.time ∧ gives 9 (s.cycleCount s.issue.core k) ∧ gives 0xA k.srkey
    ∧ gives 0xB (BitVec.ofNat 64 k.slip.toNat)
    ∧ (∀ g, s.gangAt s.issue.core = some g → gives 0xC (BitVec.ofNat 64
        (b2n k.late * 2 ^ 48 + nth g.arr k.rank 0 % 2 ^ 16 * 2 ^ 32 + g.last)) ∧ gives 0xD (BitVec.ofNat 64 g.carve))
    ∧ gives 0xE (BitVec.ofNat 64 k.dscale.toNat)
    ∧ (∀ i, i < 16 → gives (0x10 + i) (BitVec.ofNat 64 (if i = 0 then 2 ^ 32 else (vget s.preW.wb i 0).toNat))
        ∧ gives (0x20 + i) (if i = 0 then 0 else vget s.preW.k i 0)
        ∧ gives (0xC0 + i) (let c := vget k.chans i .reset
            BitVec.ofNat 64 ((match c.state with | .idle => 0 | .active => 1 | .halted => 2) * 2 ^ 62 + b2n c.dsp * 2 ^ 61 + c.wmark % 2 ^ 40))
        ∧ gives (0xD0 + i) (BitVec.ofNat 64 (vget k.chans i .reset).pcount.toNat))
    ∧ (∀ i, i < 4 → gives (0x30 + i) (s.rdLc st i))
    ∧ (∀ i, i < 64 → gives (0x40 + 2 * i) (k.tile i).w0 ∧ gives (0x41 + 2 * i) (let x := k.tile i
        BitVec.ofNat 64 (b2n x.defd * 2 ^ 33 + b2n x.psn * 2 ^ 32 + x.fill.toNat * 2 ^ 16 + x.use.toNat)))
    ∧ (∀ i, i < 8 → gives (0xE0 + i) (let r := vget k.rings i .reset
        BitVec.ofNat 64 (r.head.toNat * 2 ^ 48 + r.tail.toNat * 2 ^ 32 + r.claimed.toNat * 2 ^ 25 + r.nslot.toNat * 2 ^ 18 + b2n r.en * 2 ^ 17
          + r.slot0.toNat)))
    ∧ (∀ i, i < 32 → gives (0x100 + i) (let m := vget k.sems i .reset; BitVec.ofNat 64 (b2n m.ovf * 2 ^ 32 + m.count.toNat)))
    ∧ ((s.rdG a).psn = true → exec (.wrsys st a n) s = .next (s.poisonTrap ((s.rdG a).value.toNat % 256)))
    ∧ ((s.rdG a).psn = false → n.toNat = 0xE → exec (.wrsys st a n) s = .next (s.modCur fun k => { k with dscale := (s.rdG a).value.setWidth 32 }))
    ∧ ((s.rdG a).psn = false → n.toNat ≠ 0xE → exec (.wrsys st a n) s = .next s)

/-- R313, R314, R315, R117, R148: VROWLD brings 256 elements of a tile row from column j on to its lanes, zero beyond the row, from the
units as its part has read them; VROWST writes the low bits of its lanes to the elements of the row, and nothing else; a row, column or
format that R314 refuses is schedule fault 9. A marked unit is read as it stands (the model's choice, log 91). -/
def Obligations.RowLanes : Prop :=
  ∀ (s : State) (st : BitVec 2) (t : BitVec 6) (g v : BitVec 5) (w : BitVec 4) (r : BitVec 1), onCore s →
    (s.rdG (g.setWidth 6)).psn = false → (s.issue.pre.tile t.toNat).defd = true →
    let p := (s.rdG (g.setWidth 6)).value
    let i := fld p 0 32
    let j := fld p 32 32
    let td := s.issue.pre.tile t.toNat
    let c := s.issue.core
    let bad := tRows td.w0 ≤ i ∨ tCols td.w0 ≤ j ∨ tFmt td.w0 = 7 ∨ tFmt td.w0 = 9
    let b := fmtBits (tFmt td.w0)
    (bad → exec (.vrowld st t g w r v) s = .next (s.schedFault 9) ∧ exec (.vrowst st t g r v) s = .next (s.schedFault 9))
    ∧ (¬ bad → td.fill - td.use = 0 → exec (.vrowld st t g w r v) s = .next (s.waitOn 5 t.toNat w.toNat))
    ∧ (¬ bad → td.fill - td.use = 1 → s.issue.pre.chanOverlap td.w0 i (i + 1) = none →
        (td.psn = true → exec (.vrowld st t g w r v) s = .next (s.poisonTrap td.idx.toNat))
        ∧ (td.psn = false → ∃ u, exec (.vrowld st t g w r v) s = .next u ∧ sameMem s u
          ∧ (∀ l, l < 256 → u.vNow v.toNat l =
              if j + l < tCols td.w0 then BitVec.ofNat 32 (({ s with mem := s.issue.preMem }.over s.preW.got).tileBits c td.w0 i (j + l)) else 0)
          ∧ (r = 0 → onlyV { s with issue := { s.issue with reads := u.issue.reads } } u v)
          ∧ (r = 1 → (s.cur.tile t.toNat).defd = true → (s.cur.tile t.toNat).gen = td.gen →
              (u.cur.tile t.toNat).use = (s.cur.tile t.toNat).use + 1)))
    ∧ (¬ bad → quiet s → s.mem.wf = true → tileOk td.w0 = true → ∃ u, exec (.vrowst st t g r v) s = .next u
        ∧ (∀ l, l < 256 → j + l < tCols td.w0 → u.tileBits c td.w0 i (j + l) = (s.rdV32 v l).toNat % 2 ^ b)
        ∧ (∀ k, k < tCols td.w0 → (k < j ∨ j + 256 ≤ k) → u.tileBits c td.w0 i k = s.tileBits c td.w0 i k)
        ∧ (∀ q, q < (tileRow c td.w0 i).1 ∨ (tileRow c td.w0 i).1 + (tileRow c td.w0 i).2 ≤ q → u.mem.get q = s.mem.get q)
        ∧ u.cores = (if r = 1 then s.modCur (fun k => k.fillTile (s.issue.pre.tileRef t) none) else s).cores)

/-! ## The matrix unit -/

/-- R320, R324, R326, R327, R333, R323, R271: WSWAP, ASHAPE and MMZ enter the matrix queue, which holds eight; WLD and WLDX check the shape
and the format of their tile (schedule fault 10), and WLDX takes the oldest scale entry, waiting for one, and faults (11) when it does
not fit. R328, R331, R332, R323, R322: MM, MMT, MMU and MMUS check formats and shapes against the plane that will be active (schedule
fault 10), and enter the matrix queue with their tiles, their second tile and their semaphore. R334, R335, R336, R337, R338, R323: a
drain checks the format of its tile, its region and, in an MX variant, its scale tile, reads gc in a variant that rounds with random
bits, and enters the matrix queue; DRNA reads its FP32 tile. -/
def Obligations.MatrixIssues : Prop :=
  (∀ (s : State) (st q : BitVec 2) (t x : BitVec 6) (w k : BitVec 4) (r : BitVec 1), s.issue.core < 480 →
     let room := s.cur.mat.queue.length < 8
     (∀ i op, (i, op) ∈ [(Instr.wswap st, s.matNew .wswap 0 noTile), (.ashape st k, { s.matNew .ashape 0 noTile with bands := k }),
         (.mmz st q, s.matNew .mmz q noTile), (.mmzAll st, s.matNew .mmzAll 0 noTile)] →
       (room → ∃ u, exec i s = .next u ∧ queues s u op) ∧ (¬ room → exec i s = .next s.interlock))
     ∧ (∀ ref, matRead t w s = .ok ref →
       let f := tFmt ref.w0
       let bad := matE f = 0 ∨ matD f < tRows ref.w0 ∨ 256 < tCols ref.w0
       (bad → exec (.wld st t x w r) s = .next (s.schedFault 10))
       ∧ (bad ∨ f = 1 → exec (.wldx st t x w r) s = .next (s.schedFault 10))
       ∧ (¬ bad → room → ∃ u, exec (.wld st t x w r) s = .next u
           ∧ queues s u { s.matNew .wld 0 ref with rel := r == 1, sem := if x.getLsbD 5 then some (x.setWidth 5) else none })
       ∧ (¬ bad → f ≠ 1 → s.cur.mat.scaleQ = [] → exec (.wldx st t x w r) s = .next (s.waitOn 16 0 w.toNat))
       ∧ (∀ e rest, ¬ bad → f ≠ 1 → s.cur.mat.scaleQ = e :: rest →
         (e.brows ≠ cdiv (tRows ref.w0) 8 ∨ e.bcols ≠ cdiv (tCols ref.w0) 8 → exec (.wldx st t x w r) s = .next (s.schedFault 11))
         ∧ (e.brows = cdiv (tRows ref.w0) 8 → e.bcols = cdiv (tCols ref.w0) 8 → room → ∃ u v, exec (.wldx st t x w r) s = .next v
           ∧ queues s u { s.matNew .wldx 0 ref with rel := r == 1, sem := if x.getLsbD 5 then some (x.setWidth 5) else none, scale := some e }
           ∧ v = u.modCur fun k => { k with mat := { k.mat with scaleQ := rest } }))))
  ∧ (∀ (s : State) (st q : BitVec 2) (t x g : BitVec 6) (w : BitVec 4) (r y z : BitVec 1) (ref : TileRef), s.issue.core < 480 →
       s.cur.mat.queue.length < 8 → matRead t w s = .ok ref →
       let rows := tRows ref.w0
       let cols := tCols ref.w0
       let d := matD s.cur.mat.futureFmt.1
       let sem : Option (BitVec 5) := if x.getLsbD 5 then some (x.setWidth 5) else none
       let fits (tr : Bool) := matE (tFmt ref.w0) ≠ 0
         ∧ (tr = true → cols ≤ 256 ∧ rows ≤ 128 ∧ q.toNat + d / 256 ≤ 4) ∧ (tr = false → cols ≤ d ∧ 128 * q.toNat + rows ≤ 512)
       (∀ i kind tr, (i, kind, tr) ∈ [(Instr.mm st q t x w r y z, MatKind.mm, false), (.mmt st q t x w r y z, .mmt, true)] →
         (y = 0 → fits tr → ∃ u, exec i s = .next u
             ∧ queues s u { s.matNew kind q ref with z := z == 1, as := false, rel := r == 1, sem := sem })
         ∧ (y = 0 → ¬ fits tr → exec i s = .next (s.schedFault 10))
         ∧ (y = 1 → t = 63 → exec i s = .next (s.schedFault 10))
         ∧ (∀ v, y = 1 → t ≠ 63 → matRead (t + 1) w s = .ok v →
           let ok := tFmt v.w0 = 8 ∧ cdiv rows 8 ≤ tRows v.w0 ∧ cdiv cols 8 ≤ tCols v.w0
           (fits tr → ok → ∃ u, exec i s = .next u
             ∧ queues s u { s.matNew kind q ref with t1 := some v, z := z == 1, as := true, rel := r == 1, sem := sem })
           ∧ (¬ (fits tr ∧ ok) → exec i s = .next (s.schedFault 10))))
       ∧ (∀ gw gw1, s.rdG g = ⟨gw, false⟩ → s.rdG (g + 1) = ⟨gw1, false⟩ →
         let nr := fld gw1 32 9 + 1
         let o0 := fld gw1 0 32
         let common := fld gw1 41 17 = 0 ∧ (gw1.getLsbD 63 = false → fld gw1 58 5 = 0) ∧ matE (tFmt ref.w0) ≠ 0 ∧ 128 * q.toNat + nr ≤ 512
         let sem1 : Option (BitVec 5) := if gw1.getLsbD 63 then some (BitVec.ofNat 5 (fld gw1 58 5)) else none
         (let v := windowOf gw
           let ok := fld gw 0 14 = 0 ∧ 1 ≤ v.ow ∧ 1 ≤ v.oh ∧ 1 ≤ v.od ∧ v.id * v.ih * v.iw ≤ rows ∧ ((o0 + nr : Nat) : Int) ≤ v.od * v.oh * v.ow
             ∧ v.kd * v.kh * v.kw * cols ≤ d
           (common → ok → ∃ u, exec (.mmu st q t g w r z) s = .next u
             ∧ queues s u { s.matNew .mmu q ref with z := z == 1, rel := r == 1, gw := gw, gw1 := gw1, sem := sem1 })
           ∧ (¬ (common ∧ ok) → exec (.mmu st q t g w r z) s = .next (s.schedFault 10)))
         ∧ (let ix : BitVec 6 := BitVec.ofNat 6 (fld gw 58 6)
           (ix = t ∨ (s.issue.pre.tile ix.toNat).defd = false → exec (.mmus st q t g w r z) s = .next (s.schedFault 10))
           ∧ (∀ v, ix ≠ t → (s.issue.pre.tile ix.toNat).defd = true → matRead ix w s = .ok v →
             let ok := fld gw 0 58 = 0 ∧ tFmt v.w0 = 6 ∧ o0 + nr ≤ tRows v.w0 ∧ cols * tCols v.w0 ≤ d
             (common → ok → ∃ u, exec (.mmus st q t g w r z) s = .next u
               ∧ queues s u { s.matNew .mmus q ref with t1 := some v, z := z == 1, rel := r == 1, gw := gw, gw1 := gw1, sem := sem1 })
             ∧ (¬ (common ∧ ok) → exec (.mmus st q t g w r z) s = .next (s.schedFault 10))))))
  ∧ (∀ (s : State) (st q : BitVec 2) (t g : BitVec 6) (w : BitVec 4) (r : BitVec 1), s.issue.core < 480 → s.cur.mat.queue.length < 8 →
       let td := s.issue.pre.tile t.toNat
       let sh := drainShape td.w0
       let fits := 128 * q.toNat + sh.1 ≤ 512 ∧ sh.2 ≤ 256
       (∀ i kind f sr mx, (i, kind, f, sr, mx) ∈ drains st q t g r →
         (td.defd = false → exec i s = .next (s.schedFault 3))
         ∧ (td.defd = true → ¬ (tFmt td.w0 = f ∧ fits) → exec i s = .next (s.schedFault 10))
         ∧ (td.defd = true → tFmt td.w0 = f → fits → sr = true → (s.rdG g).psn = true →
             exec i s = .next (s.poisonTrap ((s.rdG g).value.toNat % 256)))
         ∧ (∀ c, td.defd = true → tFmt td.w0 = f → fits → (sr = true → s.rdG g = ⟨c, false⟩) → (sr = false → c = 0) →
           let u := s.issue.pre.tile (t.toNat + 1)
           let ok := t ≠ 63 ∧ u.defd = true ∧ tFmt u.w0 = 8 ∧ cdiv sh.1 8 ≤ tRows u.w0 ∧ cdiv sh.2 8 ≤ tCols u.w0 ∧ fld c 24 3 = 0 ∧ fld c 0 3 = 0
           ((mx = true → ok) → ∃ v, exec i s = .next v ∧ queues s v { s.matNew kind q (s.issue.pre.tileRef t) with
               t1 := if mx then some (s.issue.pre.tileRef (t + 1)) else none, rel := r == 1, gc := c })
           ∧ (mx = true → ¬ ok → exec i s = .next (s.schedFault 10))))
       ∧ (∀ ref, matRead t w s = .ok ref →
           (tFmt ref.w0 = 0 → fits → ∃ v, exec (.drna st q t w r) s = .next v
             ∧ queues s v { s.matNew .drna q ref with rel := r == 1 })
           ∧ (tFmt ref.w0 ≠ 0 → exec (.drna st q t w r) s = .next (s.schedFault 10))))

/-- R340, R320: MERRQ, MERRS and MERRC enter the matrix queue, which holds eight, and act when they dispatch, once every syllable before
them has completed: MERRQ takes the oldest entry of the error log, or 0; MERRS gives the bands, STICKY, LOST and the length of the log;
MERRC clears STICKY and LOST. R320, R321, R326, R327, R333, R324, R148: the oldest queued matrix syllable dispatches when its unit is
free; a preload reads units of its tile and stays, or reads the rest and ends by writing the shadow plane from the units as it has read
them; WSWAP exchanges the planes; MMZ clears its banks; an ASHAPE ends when its bands are ready. R329, R330, R321, R86, R335, R336,
R337, R338, R148: a stream reads units of its tiles and stays, or reads the rest and adds its products to the accumulator from +0 under
Z: those of MM, MMU and MMUS band by band, in order, those of MMT by one sum for each K index of an active band. A drain writes some
units and stays, or writes the rest: a plain drain leaves each element of its region, scaled by DSCALE and rounded once, DRNA adds it
to the tile, a drain to MX leaves the elements and the scale code of each block, and one to BX24 the sum of each block. -/
def Obligations.MatrixUnits : Prop :=
  (∀ (s : State) (st : BitVec 2) (d : BitVec 6), s.issue.core < 480 →
     (∀ i kind, (i, kind) ∈ [(Instr.merrq st d, MatKind.merrq d), (.merrs st d, .merrs d), (.merrc st, .merrc)] →
       (s.cur.mat.queue.length < 8 → ∃ u, exec i s = .next u ∧ queues s u (s.matNew kind 0 noTile))
       ∧ (8 ≤ s.cur.mat.queue.length → exec i s = .next s.interlock))
     ∧ ∀ (c : Nat) (op : MatOp) (rest : List MatOp), c < 480 → (s.core c).mat.queue = op :: rest →
       (op.kind = .merrq d ∨ op.kind = .merrs d ∨ op.kind = .merrc) →
       let k := s.core c
       let m := k.mat
       let idle := m.preload = none ∧ m.compute = []
       let put (v : Option W64) (m' : Matrix) : State := s.setCore c { k with
         mat := m', g := match v with
           | some x => if d = 0 then k.g else vset k.g d.toNat ⟨x, false⟩
           | none => k.g }
       (¬ idle → exec (.matrixDispatch c) s = .next s)
       ∧ (idle → (op.kind = .merrq d → m.log = [] → exec (.matrixDispatch c) s = .next (put (some 0) { m with queue := rest }))
         ∧ (∀ e r, op.kind = .merrq d → m.log = e :: r → exec (.matrixDispatch c) s = .next (put (some e) { m with queue := rest, log := r }))
         ∧ (op.kind = .merrs d → m.log.length < 64 → exec (.matrixDispatch c) s = .next (put (some (BitVec.ofNat 64
             (m.bands.toNat * 2 ^ 8 + b2n m.sticky * 2 ^ 7 + b2n m.lost * 2 ^ 6 + m.log.length))) { m with queue := rest }))
         ∧ (op.kind = .merrc → exec (.matrixDispatch c) s = .next (put none { m with queue := rest, sticky := false, lost := false }))))
  ∧ (∀ (s : State) (c : Nat) (op : MatOp) (rest : List MatOp), c < 480 →
       let m := (s.core c).mat
       let put (m' : Matrix) : State := s.modCore c fun k => { k with mat := m' }
       (m.queue = op :: rest →
         (op.kind = .wld ∨ op.kind = .wldx →
           (m.preload = none → exec (.matrixDispatch c) s = .next (put { m with queue := rest, preload := some op }))
           ∧ (m.preload ≠ none → exec (.matrixDispatch c) s = .next s))
         ∧ (op.kind = .wswap → m.preload = none → (∀ o ∈ m.compute, o.kind.streams = true → o.streamed = true) →
             exec (.matrixDispatch c) s = .next (put { m with queue := rest, active := m.shadow, shadow := m.active }))
         ∧ (op.kind = .wswap → m.preload ≠ none → exec (.matrixDispatch c) s = .next s)
         ∧ (op.kind.streams = true →
           let free := ∀ o, m.compute.getLast? = some o → o.kind.streams = true ∧ o.streamed = true
           (free → exec (.matrixDispatch c) s = .next (put { m with queue := rest, compute := m.compute ++ [op] }))
           ∧ (¬ free → exec (.matrixDispatch c) s = .next s))
         ∧ ((op.kind = .mmz ∨ op.kind = .mmzAll ∨ op.kind = .drna ∨ ∃ v, op.kind = .drn v ∨ op.kind = .drn8 v ∨ op.kind = .drnmx v) →
             m.compute = [] → exec (.matrixDispatch c) s = .next (put { m with queue := rest, compute := [op] }))
         ∧ (op.kind = .ashape → m.compute = [] → ∃ l, exec (.matrixDispatch c) s = .next (put { m with queue := rest, bands := op.bands, compute := l })
             ∧ ((∀ b, op.bands.getLsbD b = true → m.bands.getLsbD b = true) → l = [])
             ∧ (∀ b, op.bands.getLsbD b = true → m.bands.getLsbD b = false → l = [op]))
         ∧ (op.kind = .mmz ∨ op.kind = .mmzAll ∨ op.kind = .ashape → m.compute ≠ [] → exec (.matrixDispatch c) s = .next s))
       ∧ (m.compute = op :: rest → op.kind = .ashape → exec (.bandReady c) s = .next (put { m with compute := rest }))
       ∧ (m.compute = op :: rest → op.sem = none → (op.kind = .mmz ∨ op.kind = .mmzAll) → ∃ t, exec (.matrixComplete c) s = .next t
           ∧ sameMem s t ∧ (t.core c).mat.compute = rest
           ∧ ∀ e, e ∈ (t.core c).mat.acc ↔ e ∈ m.acc ∧ (op.kind = .mmz → e.1 / 32768 ≠ op.q.toNat) ∧ (op.kind = .mmzAll → 512 * 256 ≤ e.1))
       ∧ (m.preload = some op → s.ue = [] → quiet s → s.mem.wf = true → (∀ g ∈ op.got, g.bad = false) → matE (tFmt op.t.w0) ≠ 0 →
           tCols op.t.w0 ≤ 256 → ∃ t, exec (.preloadComplete c) s = .next t ∧ sameMem s t
           ∧ ((2 ≤ (unitsOf (op.readPieces c)).length
               ∧ ∃ gs, t.core c = { s.core c with mat := { m with preload := some { op with got := op.got ++ gs } } })
             ∨ ((t.core c).mat = { m with shadow := (t.core c).mat.shadow, preload := none }
               ∧ (t.core c).mat.shadow.fmt.toNat = tFmt op.t.w0
               ∧ (∀ k n, n < 256 → (t.core c).mat.shadow.elem k n =
                   if k < tRows op.t.w0 ∧ n < tCols op.t.w0 then (s.over op.got).tileBits c op.t.w0 k n else 0)
               ∧ (t.core c).tiles = (if op.rel then (s.core c).releaseTile op.t else s.core c).tiles
               ∧ (∀ sm, op.sem = some sm → vget (t.core c).sems sm.toNat .reset = (vget (s.core c).sems sm.toNat .reset).add 1)
               ∧ (op.sem = none → (t.core c).sems = (s.core c).sems)))))
  ∧ (∀ (s : State) (c : Nat) (op : MatOp) (rest : List MatOp), c < 480 → s.ue = [] → quiet s → s.mem.wf = true → (∀ g ∈ op.got, g.bad = false) →
       let m := (s.core c).mat
       let o := s.over op.got
       let start (k : Nat) : W32 := if op.z then 0 else mapGet m.acc k 0
       m.active.badCells = [] → m.active.badScales = [] → m.accBad = [] → m.compute = op :: rest →
       (op.kind.streams = true → op.streamed = false → matE m.active.fmtN ≠ 0 → ∃ t, exec (.streamLastRow c) s = .next t ∧ sameMem s t
         ∧ ((2 ≤ (unitsOf (op.readPieces c)).length
             ∧ ∃ gs, t.core c = { s.core c with mat := { m with compute := { op with got := op.got ++ gs } :: rest } })
           ∨ ∃ cells : List (Nat × W32), (t.core c).mat.acc = cells.foldl (fun a e => mapSet 0 a e.1 e.2) m.acc
             ∧ (t.core c).mat.compute = { op with streamed := true } :: rest
             ∧ (t.core c).tiles = (if op.rel then (match op.t1 with
                 | none => (s.core c).releaseTile op.t
                 | some x => ((s.core c).releaseTile op.t).releaseTile x) else s.core c).tiles
             ∧ (op.kind ≠ .mmt → cells = (List.range op.rows).flatMap fun i => (List.range 256).map fun n =>
                 (256 * (128 * op.q.toNat + i) + n,
                   [0, 1, 2, 3].foldl (fun a b => if m.bands.getLsbD b then
                     addF32 a (bandSum (((List.range op.kt).filter fun k => decide (k / (64 * matE m.active.fmtN) = b)).map fun k =>
                       (o.streamVal c op i k).mul (m.active.val k n))) else a) (start (256 * (128 * op.q.toNat + i) + n))))
             ∧ (op.kind = .mmt → cells = (List.range op.rows).flatMap fun i => (List.range (256 * matE m.active.fmtN)).filterMap fun k =>
                 let key := 256 * (128 * (op.q.toNat + k / 256) + i) + k % 256
                 if m.bands.getLsbD (k / (64 * matE m.active.fmtN)) then
                   some (key, addF32 (start key) (bandSum ((List.range op.kt).map fun n => (o.streamVal c op i n).mul (m.active.val k n))))
                 else none)))
       ∧ (op.kind.drains = true → tileOk op.t.w0 = true → tFmt op.t.w0 = op.kind.outFmt → (op.t1.isSome = true ↔ op.kind.isMx = true) →
         (∀ x, op.t1 = some x → tileOk x.w0 = true ∧ tFmt x.w0 = 8 ∧ cdiv (tRows op.t.w0) 8 ≤ tRows x.w0 ∧ cdiv (tCols op.t.w0) 8 ≤ tCols x.w0
           ∧ ∀ i b, i < tRows op.t.w0 → b < tRows x.w0 → (tileRow c op.t.w0 i).1 + (tileRow c op.t.w0 i).2 ≤ (tileRow c x.w0 b).1
             ∨ (tileRow c x.w0 b).1 + (tileRow c x.w0 b).2 ≤ (tileRow c op.t.w0 i).1) →
         ∃ t, exec (.matrixComplete c) s = .next t
         ∧ ((∃ gs vs, t.core c = { s.core c with mat := { m with compute := { op with got := op.got ++ gs, units := vs ++ op.units } :: rest } })
           ∨ ((t.core c).mat = { m with compute := rest }
             ∧ (op.rel = false → (t.core c).tiles = (s.core c).tiles)
             ∧ (op.rel = true → op.t1 = none → (t.core c).tiles =
                 ((if op.kind = .drna then (s.core c).releaseTile op.t else s.core c).fillTile op.t none).tiles)
             ∧ (∀ x, op.rel = true → op.t1 = some x → (t.core c).tiles = (((s.core c).fillTile op.t none).fillTile x none).tiles)))
         ∧ (op.kind ≠ .drna → (unitsOf (op.drainPieces c)).length ≤ 1 → (t.core c).mat.compute = rest)
         ∧ (∀ p, (∀ q ∈ op.drainPieces c, p < q.1 ∨ q.1 + q.2 ≤ p) → t.mem.get p = s.mem.get p)
         ∧ (op.units = [] → (t.core c).mat.compute = rest →
           let v (i j : Nat) : Val := (decode32 (mapGet m.acc (256 * (128 * op.q.toNat + i) + j) 0)).mul (decode32 op.dscale)
           let w := fmtBits (tFmt op.t.w0)
           (∀ i j, i < tRows op.t.w0 → j < tCols op.t.w0 →
             (op.kind = .drna → t.tileBits c op.t.w0 i j = convert ((decodeF .fp32 (o.tileBits c op.t.w0 i j)).add (v i j)) .fp32 none false % 2 ^ w)
             ∧ (∀ F, (∃ y, op.kind = .drn y ∨ op.kind = .drn8 y) → fmtF (tFmt op.t.w0) = some F →
                 t.tileBits c op.t.w0 i j = convert (v i j) F (op.rnd i j) op.kind.sat % 2 ^ w)
             ∧ (op.kind = .drnmx 6 → t.tileBits c op.t.w0 i j =
                 ofBytes (bxBytes (bxAdd bxZero ((List.range 64).map fun z => v (8 * i + z / 8) (8 * j + z % 8)))) % 2 ^ w))
           ∧ (∀ x F, op.t1 = some x → fmtF (tFmt op.t.w0) = some F →
             let block (bi bj : Nat) := mxQuant F ((List.range 64).map fun z =>
               let i := 8 * bi + z / 8
               let j := 8 * bj + z % 8
               (if i < tRows op.t.w0 ∧ j < tCols op.t.w0 then v i j else Val.zero, op.rnd i j))
             (∀ i j, i < tRows op.t.w0 → j < tCols op.t.w0 →
               t.tileBits c op.t.w0 i j = nth (block (i / 8) (j / 8)).2 (i % 8 * 8 + j % 8) 0 % 2 ^ w)
             ∧ (∀ bi bj, bi < cdiv (tRows op.t.w0) 8 → bj < cdiv (tCols op.t.w0) 8 →
               t.mem.get ((tileRow c x.w0 bi).1 + bj) = BitVec.ofNat 8 (block bi bj).1)))))

/-! ## Near memory and bank rows -/

/-- R355, R357, R137, R169, R354, R146: NMADD checks its alignment and its page, waits while 64 are pending, and is sent with its place and
value; NMFENCE waits for every NMADD that the core issued before its bundle; BKWAIT takes its count from a semaphore that holds it, or
waits. R343, R344, R346, R539: a bank command whose group, alignment, length and ranges are as R344 asks and whose pages translate
enters the bank queue, numbered by BKSEQ, and is counted against its instance; sixteen that have not completed hold it back. R356,
R169, R167, R342, R346, R347, R350, R351, R352: an NMADD is accepted once its stores are performed, with the number of its acceptance,
and the line is recalled; applied, it adds its FP32 value to its word; the oldest bank command starts when what is before it is done; a
row's bytes are what R342 says of its sources, as they were before the command wrote them; only the bytes that a source overlaps are
open (R347), and they are kept as they were for the rows that read them; TNS is the TIME of the last row; the last row completes it,
and the record of R351 ends it. That TIME is one nanosecond further at each row is the model's choice (log 5). -/
def Obligations.NearMemory : Prop :=
  (∀ (s s1 s2 s3 : State) (st : BitVec 2) (d a m n : BitVec 6) (w o : BitVec 4) (x v : W64) (sn : Snap), s.issue.core < 480 →
     let va := (x.toNat : Int) + immVal o.toNat 4 true s.issue.exts * 4
     (s.srcS st w.toNat a = .ok (x, s1) → s1.srcS st w.toNat d = .ok (v, s2) →
       (va % 4 ≠ 0 → exec (.nmadd st d a w o) s = .next (s2.accessFault (accFail 5 (va % (2 ^ 52 : Nat)).toNat)))
       ∧ (va % 4 = 0 → s2.access 0 permW va 4 = .ok (sn, s3) →
         (isCant (sn.place va.toNat) = true → exec (.nmadd st d a w o) s = .next (s3.accessFault (accFail 6 va.toNat)))
         ∧ (isCant (sn.place va.toNat) = false → 64 ≤ s3.cur.nm.length → exec (.nmadd st d a w o) s = .next (s3.waitOn 18 0 0 (BitVec.ofInt 52 va)))
         ∧ (isCant (sn.place va.toNat) = false → s3.cur.nm.length < 64 → ∃ t e, exec (.nmadd st d a w o) s = .next t ∧ sameMem s3 t
           ∧ t = (s3.modCur fun k => { k with nm := k.nm ++ [e] }) ∧ e.loc = sn.place va.toNat ∧ e.va = BitVec.ofInt 52 va
           ∧ e.v = v.setWidth 32 ∧ e.accepted = none ∧ e.after ≤ s3.cur.stores.length
           ∧ ∀ (i : Nat) q, s3.cur.stores[i]? = some q → q.touches (lineOf e.loc) = true → i < e.after)))
     ∧ (s.issue.pre.nm = [] → exec (.nmfence st) s = .next s) ∧ (s.issue.pre.nm ≠ [] → exec (.nmfence st) s = .next (s.waitOn 18 0 0))
     ∧ (let c := (vget s.cur.sems m.toNat .reset).count
       (c.toNat < n.toNat + 1 → exec (.bkwait st m n w) s = .next (s.waitOn 9 m.toNat w.toNat))
       ∧ (n.toNat + 1 ≤ c.toNat → ∃ t, exec (.bkwait st m n w) s = .next t ∧ t = (s.modCur fun k => { k with sems := t.cur.sems })
         ∧ (m.toNat < 32 → (vget t.cur.sems m.toNat .reset).count.toNat = c.toNat - (n.toNat + 1))
         ∧ ∀ j, j ≠ m.toNat → vget t.cur.sems j .reset = vget s.cur.sems j .reset)))
  ∧ (∀ (s s1 : State) (st : BitVec 2) (g : BitVec 6) (m : List W64) (ps : List BkPage) (sn : Snap) (native : List Nat) (i : Instr) (op n : Nat),
       s.issue.core < 480 → s.grpS st n g = .ok m →
       ((i, op, n) ∈ [(Instr.bkcopy st g, 0, 4), (.bkand st g, 2, 5), (.bkor st g, 3, 5), (.bknot st g, 4, 4), (.bkmaj st g, 5, 6)]
         ∨ (i = .bkfill st g ∧ op = 1 ∧ n = 3 ∧ fld (nth m 1 0) 32 2 ≠ 2)
         ∨ (i = .bkfill st g ∧ op = 1 ∧ n = 4 ∧ fld (nth m 1 0) 32 2 = 2 ∧ sGrp 4 g = none ∧ s.grpS st 3 g = .ok (m.take 3))) →
       let g0 := nth m 0 0
       let g1 := nth m 1 0
       let g2 := nth m 2 0
       let srcs := m.drop 3
       let len := 1024 * fld g1 0 32
       let clean := fld g0 52 12 = 0 ∧ fld g1 34 30 = 0 ∧ fld g2 52 12 = 0 ∧ (∀ v ∈ srcs, fld v 52 12 = 0) ∧ fld g1 32 2 ≠ 3 ∧ (op ≠ 1 → fld g1 32 2 = 0)
       let even := ∀ a ∈ fld g0 0 52 :: srcs.map (fun v => fld v 0 52), a % 1024 = 0
       let ranges := (fld g0 0 52, len, true) :: (srcs.map fun v => (fld v 0 52, if op = 1 then 1024 else len, false)) ++ [(fld g2 0 52, 64, true)]
       let x : XCtx := { core := some s.issue.core, part := s.cur.part, unit := .bank s.issue.core, die := s.issue.core / 60, win := 0 }
       (¬ clean → exec i s = .next (s.layoutFault 5))
       ∧ (clean → even → (fld g1 0 32 = 0 ∨ 16384 < fld g1 0 32) → exec i s = .next (s.accessFault (accFail 9 (fld g0 0 52))))
       ∧ (clean → even → 0 < fld g1 0 32 → fld g1 0 32 ≤ 16384 → fld g2 0 52 % 64 ≠ 0 → exec i s = .next (s.layoutFault 5))
       ∧ (clean → even → 0 < fld g1 0 32 → fld g1 0 32 ≤ 16384 → fld g2 0 52 % 64 = 0 → (∀ r ∈ ranges, r.1 + r.2.1 ≤ 0xE * 2 ^ 48) →
           State.bkLeaves (ranges.flatMap fun r => (pageStarts r.1 r.2.1).map fun a => (a, r.2.2)) s x [] = .ok (ps, s1) →
           s1.bkPlaces x ps = .ok (sn, native) →
           (16 ≤ (s1.cur.bankQ.countP fun b => !b.complete) → exec i s = .next (s1.waitOn 17 0 0))
           ∧ ((s1.cur.bankQ.countP fun b => !b.complete) < 16 → ∃ t b, exec i s = .next t ∧ sameMem s1 t
             ∧ t.cores = (s1.modCur fun k => { k with bankQ := k.bankQ ++ [b], bkseq := k.bkseq + 1 }).cores
             ∧ b.op = BitVec.ofNat 3 op ∧ b.dst = BitVec.ofNat 52 (fld g0 0 52) ∧ b.lenk = fld g1 0 32 ∧ b.crec = BitVec.ofNat 52 (fld g2 0 52)
             ∧ b.fill = BitVec.ofNat 2 (fld g1 32 2) ∧ b.srcs = srcs.map (fun v => BitVec.ofNat 52 v.toNat) ∧ b.snap = sn ∧ b.seq = s1.cur.bkseq
             ∧ b.part = s1.cur.part ∧ b.started = false ∧ b.complete = false ∧ b.rows = [] ∧ b.kept = [] ∧ b.after = s1.cur.stores.length ∧ b.afterNm = s1.cur.nm.length
             ∧ b.afterLd = s1.cur.loads.length)))
  ∧ (∀ (s : State) (c : Nat), c < 480 → s.ue = [] → s.mem.wf = true →
       (∀ n, (s.core c).nm = [n] → n.after = 0 → n.accepted = none → ∃ t, exec (.nmaddAccept c) s = .next t
         ∧ t = ({ s.recall n.loc 4 with seqNo := s.seqNo + 1 }.modCore c fun k => { k with nm := [{ n with accepted := some s.seqNo }] }))
       ∧ (∀ n, (s.core c).nm = [n] → n.accepted ≠ none → quiet (s.modCore c fun k => { k with nm := [] }) → ∃ t, exec (.nmaddApply c) s = .next t
         ∧ t.cores = (s.modCore c fun k => { k with nm := [] }).cores
         ∧ (∀ i, i < 4 → t.mem.get (n.loc + i) =
             (toBytes 4 (addF32 (BitVec.ofNat 32 (s.rdN n.loc 4)) n.v).toNat).getD i 0)
         ∧ ∀ l, l < n.loc ∨ n.loc + 4 ≤ l → t.mem.get l = s.mem.get l)
       ∧ ∀ b rest, (s.core c).bankQ = b :: rest →
         (b.complete = false → b.started = false →
           ((b.after = 0 ∧ b.afterNm = 0) → exec (.bankCommandStart c) s = .next (s.modCore c fun k => { k with bankQ := { b with started := true } :: rest }))
           ∧ (¬ (b.after = 0 ∧ b.afterNm = 0) → exec (.bankCommandStart c) s = .next s))
         ∧ (∀ row, b.complete = false → b.started = true → row < b.lenk → row ∉ b.rows → b.spoiled = false → b.op.toNat ≤ 5 →
           (∀ g ∈ b.kept, g.bad = false) → quiet (s.modCore c fun k => { k with bankQ := [] }) → ∃ t b', exec (.bankRow c row) s = .next t
           ∧ t.cores = (s.modCore c fun k => { k with bankQ := b' :: rest }).cores ∧ b'.rows = b.rows ++ [row] ∧ b'.err = b.err
           ∧ b'.tns = t.time ∧ t.time = s.time + 1
           ∧ b'.fast + b'.seqr + b'.copy = b.fast + b.seqr + b.copy + 1
           ∧ (let d := b.snap.place (b.dst.toNat + 1024 * row)
             let src (k o : Nat) : Byte := match b.srcs[k]? with
               | some v => (s.over b.kept).mem.get (b.snap.place (if b.op = 1 then v.toNat else v.toNat + 1024 * row) + o)
               | none => 0
             (∀ o, o < 1024 → o % 8 = 0 → b.overlaps (1024 * row + o) = true → ∃ g ∈ b'.kept, g.unit = (d + o) / 8)
             ∧ (∀ o, o < 1024 → b.overlaps (1024 * row + o) = false → t.mem.get (d + o) = nth [src 0 o, if b.fill = 0 then 0 else if b.fill = 1 then 0xFF else src 0 o, src 0 o &&& src 1 o,
                 src 0 o ||| src 1 o, ~~~(src 0 o), (src 0 o &&& src 1 o) ||| (src 0 o &&& src 2 o) ||| (src 1 o &&& src 2 o)] b.op.toNat 0)
             ∧ ∀ l, l < d ∨ d + 1024 ≤ l → t.mem.get l = s.mem.get l))
         ∧ (b.complete = false → b.started = true → b.lenk ≤ b.rows.length →
           exec (.bankCommandComplete c) s = .next (s.modCore c fun k => { k with bankQ := { b with complete := true } :: rest }))
         ∧ (b.complete = true → s.instDone b.inst = true → quiet (s.modCore c fun k => { k with bankQ := [] }) → ∃ t, exec (.bankCompletionRecord c) s = .next t
           ∧ t.cores = (s.modCore c fun k => { k with bankQ := rest }).cores
           ∧ (∀ i, i < 8 → t.rd64 (b.snap.place b.crec.toNat + 8 * i) = nth b.record i 0)
           ∧ ∀ l, l < b.snap.place b.crec.toNat ∨ b.snap.place b.crec.toNat + 64 ≤ l → t.mem.get l = s.mem.get l))

/-! ## Landing and abutment programs -/

/-- R197, R363, R364, R365, R366, R107: in a core's text an abutment syllable is illegal with cause 10; on an engine GLAND adds its lanes
to the accumulator block, GLRD and GLST read it, SKIPZ and SKIPZ.ACC and ABEND end the run, VROW moves a slot's block, and VBCAST.CONST
broadcasts a constant. That GLAND keeps what was in the block, so that a later SKIPZ takes the addition back, is the model's choice
between R365 and R366 (log 66). -/
def Obligations.AbutmentSyllables : Prop :=
  ∀ (s : State) (v : BitVec 5) (n : BitVec 6) (p : BitVec 4),
    (s.issue.abut = false → ∀ i, i ∈ [Instr.gland v, .glrd v, .glst v, .skipz, .skipzAcc, .abend, .vrowldSlot n v, .vrowstSlot n v, .vbcastConst v p] →
      exec i s = .next (s.illegal 10))
    ∧ ∀ a, s.issue.abut = true → s.abut = some a → s.ue = [] → quiet s →
      let b := bxOf (s.rdV a.snap a.acc.toNat 256)
      let pre := { s with mem := s.issue.preMem }
      let bp := bxFix (bxOf (pre.rdV a.snap a.acc.toNat 256))
      let well := a.isLanding = false ∨ (bxOf (pre.rdV a.snap a.acc.toNat 256)).rsv = 0
      (b.rsv = 0 → s.retry = false → exec (.gland v) s = .next
        { s.wrV (a.snap.pieces a.acc.toNat 256) (bxBytes (bxAdd b ((List.range 64).map fun i => decode32 (s.rdV32 v i)))) with
          writeLog := a.snap.pieces a.acc.toNat 256 :: s.writeLog, abut := some { a with undo := some (bxBytes b) } })
      ∧ (well → ∃ t, exec (.glrd v) s = .next t ∧ onlyV s t v ∧ ∀ l, l < 64 → t.vNow v.toNat l = bxRead bp l)
      ∧ (well → ∃ t, exec (.glst v) s = .next t ∧ onlyV s t v
          ∧ ∀ l, l < 64 → t.vNow v.toNat l = BitVec.ofNat 32 (b2n bp.nan <<< 17 ||| b2n bp.sat <<< 16 ||| bp.absorb))
      ∧ (exec .skipz s = .next { s with abut := some { a with skipped := a.skipped || a.absent } })
      ∧ ((s.rdV a.snap a.acc.toNat 256 = bxBytes bxZero) → exec .skipzAcc s = .next { s with abut := some { a with skipped := true } })
      ∧ ((s.rdV a.snap a.acc.toNat 256 ≠ bxBytes bxZero) → exec .skipzAcc s = .next s)
      ∧ (exec .abend s = .next { s with abut := some { a with ended := true } })
      ∧ (∃ t, exec (.vbcastConst v p) s = .next t ∧ onlyV s t v ∧ ∀ l, l < 64 → t.vNow v.toNat l = vget a.p p.toNat 0)
      ∧ (∀ l, a.slot n.toNat = some l →
        (∃ t, exec (.vrowldSlot n v) s = .next t ∧ onlyV s t v
          ∧ ∀ k, k < 64 → t.vNow v.toNat k = BitVec.ofNat 32 (pre.elemBits a.snap l (a.laneCoord k)))
        ∧ (exec (.vrowstSlot n v) s = .next (s.wrSlot a l fun i => (s.rdV32 v i).toNat % 2 ^ lWidth l)))

/-- R368, R369, R371, R372, R376, R360, R495: a shard is dropped and reported when its record is idle or in error or it does not fit, and
held otherwise, also while a page that its validation needs is moving; it is applied when CNT equals its micro-batch; a run starts on a
block still to do; an update waits for its generation's readers, and its end is one step. That the record is validated, and its guard
kept in State, with the first shard after it was armed, and that what was written since then shows at that shard (landLate), is the
model's choice (log 85). -/
def Obligations.LandingSteps : Prop :=
  ∀ (s s1 s2 : State) (part idx blk : Nat) (a : VA) (mb : BitVec 16) (vals : List W32) (src : Option (Nat × Nat)) (r : Rec8),
    (part < 8 → (s.landLate part a).landRec part a = .ok (r, s1) →
      let i := Instr.landingShardArrive part a mb vals src
      let h : Shard := ⟨part, a, mb, vals, src⟩
      (lrState r = 0 ∨ lrState r = 3 → ∃ t, exec i s = .next t ∧ t.shards = s1.shards ∧ t.armed part a = false)
      ∧ (lrState r = 1 ∨ lrState r = 2 → vals.length ≠ lrRows r * lrCols r → exec i s = .next (s1.landDrop part a (lrErr r) src))
      ∧ (lrState r = 1 ∨ lrState r = 2 → vals.length = lrRows r * lrCols r →
        ((lrState r = 2 ∨ s1.armed part a = true) → exec i s = .next { s1 with shards := s1.shards ++ [h] })
        ∧ (lrState r = 1 → s1.armed part a = false →
          (s1.landValidate part a r = .ok s2 → exec i s = .next
            { s2 with landOk := s2.landOk ++ [⟨part, a.toNat, s2.guardOf part a r, []⟩], shards := s2.shards ++ [h] })
          ∧ (∀ e, s1.landValidate part a r = .error e →
              (e.code = 0 → exec i s = .next { s with shards := s.shards ++ [h] })
              ∧ ∀ s3, e.code ≠ 0 → (s1.bdMet part e).landFail part a e.code = some s3 → exec i s = .next (s3.landDrop part a e.code src)))))
    ∧ (∀ h, s.shards[idx]? = some h → (s.landLate h.part h.addr).landRec h.part h.addr = .ok (r, s1) →
      (lrState r = 0 ∨ lrState r = 3 → ∃ t, exec (.landingShardApply idx) s = .next t ∧ t.shards = s1.shards.eraseIdx idx)
      ∧ (lrState r = 2 → h.vals.length = lrRows r * lrCols r → exec (.landingShardApply idx) s = .next s1)
      ∧ (lrState r = 1 → h.vals.length = lrRows r * lrCols r → s1.armed h.part h.addr = true →
        (s1.landBusy h.part h.addr = false → lrCnt r = h.mb.toNat → ∃ t l, exec (.landingShardApply idx) s = .next t
          ∧ t = { s1 with shards := s1.shards.eraseIdx idx, landings := s1.landings ++ [l] }
          ∧ l = ⟨h.part, h.addr, some h.vals, h.src, List.range (lrBlocks r), none, true⟩)
        ∧ (s1.landBusy h.part h.addr = true ∨ lrCnt r ≠ h.mb.toNat → exec (.landingShardApply idx) s = .next s1)))
    ∧ (∀ l, s.landings[idx]? = some l →
      (s.abut = none → l.begun = true → blk ∈ l.todo →
        (s.runStart l blk = .ok s1 → ∃ t, exec (.abutmentRun idx blk) s = .next t ∧ t = { s1 with landings := t.landings }
          ∧ t.landings = listUpd s1.landings idx fun (y : Landing) => { y with todo := y.todo.filter (· ≠ blk) })
        ∧ (∀ e s3, e.code ≠ 0 → s.runStart l blk = .error e → (s.bdMet l.part e).landFail l.part l.addr 5 = some s3 →
            exec (.abutmentRun idx blk) s = .next s3))
      ∧ (s.abut ≠ none ∨ l.begun = false ∨ blk ∉ l.todo → exec (.abutmentRun idx blk) s = .next s)
      ∧ (l.gen = none ∨ l.begun = true → exec (.genBegin idx) s = .next s)
      ∧ (∀ g w u s3, l.gen = some g → l.begun = false → s.landRec l.part l.addr = .ok (r, s1) →
          s1.bdWords (bdX l.part (s1.stackAt l.part l.addr.toNat)) (lrUrec r) 24 = .ok (u, s2) →
          s2.bdWords (bdX l.part (s1.stackAt l.part l.addr.toNat)) (urGrec u + 8) 1 = .ok (w, s3) →
          (fld (nth w 0 0) (32 * (g % 2)) 32 ≠ 0 → exec (.genBegin idx) s = .next s3)
          ∧ (fld (nth w 0 0) (32 * (g % 2)) 32 = 0 → ∃ t, exec (.genBegin idx) s = .next t ∧ t = { s3 with landings := t.landings }
              ∧ t.landings = listUpd s3.landings idx fun (y : Landing) => { y with begun := true }))
      ∧ (l.vals = none → l.begun = true → l.todo = [] → s.abut = none → s.updateFinish l = .ok s1 → exec (.updateEnd idx) s = .next s1)
      ∧ (l.todo ≠ [] → exec (.updateEnd idx) s = .next s))

/-! ## Copy channels and collectives -/

/-- R274, R275, R258, R139, R140, R143: a channel command waits for its channel, checks its group and its records, and makes the channel
active with an empty watermark; destinations of active channels that overlap it are undefined from then on, with its own there (R143).
R139, R142, R148, R276, R277, R278, R279, R116, R509, R496: a granule in the window of 64 is read and written unit by unit. Whole, it
leaves at each place of its destination bytes what the source elements as it has read them give: the source bits of TCOPY's box, of
TXP's with the first two coordinates exchanged, and of TGATH's picked rows packed in order, unchanged in one format, else converted; no
byte outside the granule changes, and with its last unit the watermark moves to the first granule not written. A gather reads its mask
first, once. A channel whose watermark has reached the end goes idle, drops its issuer's L1 copies of the destination, fills its tile
and signals; one whose next access fails halts and is reported, and one without cantilever room waits and is reported. Where the bytes
of a granule are cut, that its codes go by whole units, and when it reads its source are the model's choice (log 76), and so is which
codes the spec leaves open (log 18). -/
def Obligations.TileChannels : Prop :=
  (∀ (s s1 s2 : State) (st : BitVec 2) (g t : BitVec 6) (w ch : BitVec 4) (m : List W64) (l d : Rec8) (i : Instr) (kind : ChKind) (n : Nat)
     (tile : Option (BitVec 6)), s.issue.core < 480 → s.grpA st n g = .ok m →
     (i, kind, n, tile) ∈ [(Instr.tcopy st g w ch, ChKind.tcopy, 4, none), (.tgath st g w ch, .tgath, 5, none), (.tgathTile st t g w ch, .tgath, 5, some t),
       (.txp st g w ch, .txp, 4, none), (.txpTile st t g w ch, .txp, 4, some t)] →
     let g3 := nth m 3 0
     let g4 := nth m 4 0
     let free := (vget s.cur.chans ch.toNat .reset).state = .idle
     let bad := fld g3 52 6 ≠ 0 ∨ (kind = .tgath ∧ fld g4 52 12 ≠ 0)
     (¬ free → exec i s = .next (s.waitOn 7 ch.toNat w.toNat))
     ∧ (free → bad → exec i s = .next (s.layoutFault 5))
     ∧ (free → ¬ bad → s.readLayout (nth m 0 0) = .ok (l, s1) →
       (∀ u, tile = some u → (s1.issue.pre.tile u.toNat).defd = false → exec i s = .next (s1.schedFault 3))
       ∧ (∀ ref, ((tile = none ∧ ref = none ∧ s1.readLayout (BitVec.ofNat 64 (fld g3 0 52)) = .ok (d, s2))
             ∨ (∃ u, tile = some u ∧ (s1.issue.pre.tile u.toNat).defd = true ∧ ref = some (s1.issue.pre.tileRef u) ∧ d = l ∧ s2 = s1)) →
         let c : ChCmd :=
           { kind := kind, src := l, o01 := nth m 1 0, o23 := nth m 2 0, dst := d, tile := ref, mask := BitVec.ofNat 52 g4.toNat, picked := none,
             sig := g3.getLsbD 63, sem := BitVec.ofNat 5 (fld g3 58 5), walk := s.walk }
         (chanChecks c s2 = .ok () → ∃ x u, exec i s = .next (u.chanMeets s2.issue.core ch.toNat)
           ∧ u = (s2.modCur fun k => { k with chans := vset k.chans ch.toNat x })
           ∧ (s2.activeRanges = [] → u.chanMeets s2.issue.core ch.toNat = u)
           ∧ x.state = .active ∧ x.wmark = 0 ∧ x.pcount = 0 ∧ x.written = [] ∧ x.cmd = some c ∧ x.dsp = c.dsp s2.cur.rank)
         ∧ ∀ e, chanChecks c s2 = .error e → exec i s = .next e)))
  ∧ (∀ (s s1 s2 : State) (c n gran : Nat) (cmd : ChCmd) (p : Granule) (sn : Snap), c < 480 → n < 16 →
       let x := vget (s.core c).chans n .reset
       let rank := (s.core c).rank
       let picked := cmd.picked.getD []
       let alone := quiet (s.modCore c fun k => { k with chans := vset k.chans n .reset })
       x.cmd = some cmd →
       let due := x.state = .active ∧ gran ∉ x.written ∧ x.wmark ≤ gran ∧ gran < x.wmark + 64 ∧ gran < cmd.granules
       (due → (cmd.kind ≠ .tgath ∨ cmd.picked ≠ none) → s.granPlan c n gran cmd = .ok (p, s1) → s.ue = [] →
         (∀ g ∈ (x.part gran).got, g.bad = false) → alone →
         s1.cantTake ((p.places cmd rank gran).map fun l => (l, 1)) (some (.chan c n)) = .ok s2 → s2.mem.wf = true →
         ∃ t y, exec (.channelGranuleWrite c n gran) s = .next t
           ∧ y = vget (t.core c).chans n .reset ∧ y.state = .active ∧ y.dsp = x.dsp
           ∧ ((y.wmark = x.wmark ∧ y.written = x.written ∧ y.cmd = x.cmd
               ∧ ∃ gs us, y.part gran = ⟨gran, (x.part gran).got ++ gs, us ++ (x.part gran).units⟩)
             ∨ (x.wmark ≤ y.wmark ∧ (∀ k, x.wmark ≤ k → k < y.wmark → k = gran ∨ k ∈ x.written)
               ∧ (y.wmark ≠ gran ∧ y.wmark ∉ x.written) ∧ (∀ k, k ∈ y.written ↔ y.wmark ≤ k ∧ (k = gran ∨ k ∈ x.written))))
           ∧ (Config.choice s2.freeCtr = false → gran ∈ y.written ∨ gran < y.wmark)
           ∧ (∀ j, j < 480 → j ≠ c → t.core j = s2.core j)
           ∧ (∀ l, l ∉ p.places cmd rank gran → t.mem.get l = s2.mem.get l)
           ∧ ((x.part gran).units = [] → (gran ∈ y.written ∨ gran < y.wmark) →
             let o := s2.over (x.part gran).got
             let whole : Memory := (o.granCells cmd rank gran p).foldl (fun m e => m.set e.1 e.2) o.mem
             (∀ l, l ∈ p.places cmd rank gran → l ∉ o.granFree c n gran cmd p → t.mem.get l = whole.get l)
             ∧ (∀ d e i, d ∈ cmd.granElems rank gran → i < cmd.dBytes → cmd.dWidth ≠ 4 →
               (cmd.kind = .tcopy → e = ⟨cmd.origin.c0 + d.c0, cmd.origin.c1 + d.c1, cmd.origin.c2 + d.c2, cmd.origin.c3 + d.c3⟩) →
               (cmd.kind = .txp → e = ⟨cmd.origin.c0 + d.c1, cmd.origin.c1 + d.c0, cmd.origin.c2 + d.c2, cmd.origin.c3 + d.c3⟩) →
               (cmd.kind = .tgath → d.c2 = 0 ∧ d.c3 = 0 ∧ ∃ r, picked[d.c1.toNat]? = some r
                 ∧ e = ⟨cmd.origin.c0 + d.c0, cmd.origin.c1 + r, cmd.origin.c2, cmd.origin.c3⟩) →
               let va := (cmd.dAddr rank d).toNat + i
               (cmd.granSpan rank gran).1 ≤ (va : Int) → (va : Int) < (cmd.granSpan rank gran).2 →
               (p.moved.flatMap fun z => (List.range cmd.dBytes).map fun b => p.at' ((cmd.dAddr rank z.1).toNat + b)).Nodup →
               p.at' va ∉ (p.codes cmd).map p.at' → p.at' va ∉ o.granFree c n gran cmd p →
               let v := o.srcVal p.sn cmd.src e
               let bits := if cmd.keeps = true ∨ cmd.mxCopies = true ∨ (cmd.dMxl = 0 ∧ lMxl cmd.src = 0 ∧ lFmt cmd.src = cmd.dFmt) then
                   o.srcBits p.sn cmd.src e
                 else if cmd.dMxl = 0 then (if fmtBits (lFmt cmd.src) < cmd.dWidth ∧ lMxl cmd.src = 0 then widen cmd.dFmt v else toFmt cmd.dFmt v)
                 else (o.chElem p.sn cmd picked d e).1
               t.mem.get (p.at' va) = BitVec.ofNat 8 (bits >>> (8 * i)))))
       ∧ (due → cmd.kind = .tgath → cmd.picked = none → chReach s c n permR [cmd.maskRange] [] = .ok (sn, s1) → s.ue = [] →
         (∀ g ∈ (x.part cmd.granules).got, g.bad = false) → alone → s1.mem.wf = true →
         ∃ t y, exec (.channelGranuleWrite c n gran) s = .next t ∧ sameMem s1 t ∧ y = vget (t.core c).chans n .reset
           ∧ y.state = .active ∧ y.wmark = x.wmark ∧ y.written = x.written
           ∧ ((y.cmd = x.cmd ∧ ∃ gs, y.part cmd.granules = ⟨cmd.granules, (x.part cmd.granules).got ++ gs, []⟩)
             ∨ y.cmd = some { cmd with picked := some ((s1.over (x.part cmd.granules).got).pickRows sn cmd) }))
       ∧ (due → ∀ part die va, s.granTry c n gran cmd = .error (.room part die va) →
           exec (.channelGranuleWrite c n gran) s = .next (s.lacksRoom c part die va))
       ∧ (¬ due → exec (.channelGranuleWrite c n gran) s = .next s)
       ∧ (x.state = .active → cmd.granules ≤ x.wmark → ∃ t, exec (.channelComplete c n) s = .next t ∧ sameMem s t
           ∧ (vget (t.core c).chans n .reset).state = .idle ∧ (vget (t.core c).chans n .reset).cmd = none
           ∧ (t.core c).l1 = ((s.destPieces c cmd).foldl (fun k q => k.dropLines q.1 q.2) (s.core c)).l1
           ∧ (∀ ref, cmd.tile = some ref → (t.core c).tiles = ((s.core c).fillTile ref none).tiles)
           ∧ (cmd.tile = none → (t.core c).tiles = (s.core c).tiles)
           ∧ (cmd.sig = true → vget (t.core c).sems cmd.sem.toNat .reset = (vget (s.core c).sems cmd.sem.toNat .reset).add 1)
           ∧ (cmd.sig = false → (t.core c).sems = (s.core c).sems))
       ∧ (x.state ≠ .active ∨ x.wmark < cmd.granules → exec (.channelComplete c n) s = .next s)
       ∧ (x.state = .active → ∀ f va, x.wmark < cmd.granules → x.wmark ∉ x.written → s.granTry c n x.wmark cmd = .error (.fail f va none) →
           exec (.channelHalt c n) s = .next ((s.modCore c fun k => { k with chans := vset k.chans n { x with state := .halted } }).postEvent
             (s.core c).part 2 (some c) [BitVec.ofNat 64 (n <<< 60 ||| f <<< 52 ||| va % 2 ^ 52), BitVec.ofNat 64 x.wmark]))
       ∧ (x.state = .active → (∀ i, i < 64 → ∀ f va u, s.granTry c n (x.wmark + i) cmd ≠ .error (.fail f va u)) →
           exec (.channelHalt c n) s = .next s))

/-- R382, R383, R384, R385: COLL takes the lowest free slot of its core, or waits; its descriptor and the checks of R385 come first; the
collective starts with nothing sent and nothing received, and with code 3 when its TAG is in flight. R381, R386, R387, R388, R391,
R392, R396, R397, R442, R541: what the steps of a collective do: participants of its fabric context and TAG that disagree end it with
code 2, a target outside the torus with 4, links that all lead its way and are all down with 6; a CPUT or a CGET leaves; sources and
answers that the links bring are kept; its end writes its status word, raises CSEM and frees its slot; window requests of other devices
are refused or served, and a CPUT's raise follows its writes; a failing local access holds it and is reported. A CRS, a CAG or a CGET
that has everything leaves its result at its destination and ends with code 0, a CPUT ends with code 0 once answered, and a CRSL
delivers its shard to its landing record and ends with the shard; of an end with code 5 or 6 each byte of the destination is its new
value or what it was. Code 6 for certain only where a whole group of links is down is the model's choice (log 45), and so is an answer
to a CPUT only after its raise, made without a check of the alignment of RSOFF (log 47). -/
def Obligations.Collectives : Prop :=
  (∀ (s s1 s2 s3 : State) (st : BitVec 2) (g : BitVec 6) (w : BitVec 4) (va : W64) (d : Rec8) (sn : Snap) (i : Instr) (k : Nat), s.issue.core < 480 →
     (i, k) ∈ [(Instr.crs st g w, 0), (.crsl st g w, 1), (.cag st g w, 2), (.cput st g w, 3), (.cget st g w, 4)] →
     s.srcS st w.toNat g = .ok (va, s1) →
     ((∀ j, j < 8 → vget s1.cur.colls j none ≠ none) → exec i s = .next (s1.waitOn 19 0 w.toNat))
     ∧ ∀ j, j < 8 → vget s1.cur.colls j none = none → (∀ p, p < j → vget s1.cur.colls p none ≠ none) →
       (va.toNat % 64 ≠ 0 → exec i s = .next (s1.layoutFault 5))
       ∧ (∀ e, collDesc va s1 = .ok (d, s2) → collChecks k d s2 = .error e → exec i s = .next e)
       ∧ (collDesc va s1 = .ok (d, s2) →
           (cdUnusedBits k d = true ∨ cdCount d = 0 → exec i s = .next (s2.layoutFault 5))
           ∧ (collChecks k d s2 = .ok (sn, s3) → ∃ c : Coll, exec i s = .next (s3.modCur fun q => { q with colls := vset q.colls j (some c) })
             ∧ c.sub = BitVec.ofNat 3 k ∧ c.desc = d ∧ c.part = s3.cur.part ∧ c.walk = s.walk ∧ c.snap = sn ∧ c.sent = false ∧ c.answered = false
             ∧ c.data = [] ∧ c.held = none ∧ c.met = false
             ∧ c.code = if k < 3 ∧ s3.tagBusy s3.cur.part (cdTag d) = true then some 3 else none)))
  ∧ (∀ (s : State) (c i : Nat), c < 480 → i < 8 →
       let set (y : Coll) : State := s.modCore c fun k => { k with colls := vset k.colls i (some y) }
       let dry (p : Nat) : Prop := ∀ a, p ≤ a → a < p + 8 → isCant (a / 128 * 128) = false
       (vget (s.core c).colls i none = none → (∀ p, exec (.collParticipantsMeet c i p) s = .next s) ∧ (∀ f, exec (.flitReceive c i f) s = .next s)
           ∧ exec (.collComplete c i) s = .next s ∧ exec (.collHeld c i) s = .next s)
       ∧ (∀ x, vget (s.core c).colls i none = some x →
         (∀ all, x.code = none → x.held = none → x.answered = false → s.collReleased c x = true →
           let peers := all.filter (s.matched x)
           let up := ∀ g ∈ s.collLinks x, ∀ l ∈ g, s.linkUp l = true
           (x.sub.toNat < 3 → x.sent = false → x.met = false → peers.any x.disagrees = true →
             exec (.collParticipantsMeet c i all) s = .next (set { x with code := some 2 }))
           ∧ (x.sub.toNat < 3 → x.sent = false → x.met = false → peers.any x.disagrees = false →
             (∃ p, p < s.partCount (cdDims x.desc) ∧ p ≠ s.partIndex (cdDims x.desc) ∧ ∀ q ∈ peers, q.index ≠ p) →
             exec (.collParticipantsMeet c i all) s = .next s)
           ∧ (x.sub.toNat < 3 → x.sent = false → x.met = false → peers.any x.disagrees = false → up →
             (∀ p, p < s.partCount (cdDims x.desc) → p = s.partIndex (cdDims x.desc) ∨ ∃ q ∈ peers, q.index = p) →
             exec (.collParticipantsMeet c i all) s = .next (s.collRead c i { x with met := true }))
           ∧ (3 ≤ x.sub.toNat → s.targetOut x = true → exec (.collParticipantsMeet c i all) s = .next (set { x with code := some 4 }))
           ∧ (3 ≤ x.sub.toNat → s.targetOut x = false → s.targetSelf x = false → x.sent = false →
             ((∃ g ∈ s.collLinks x, ∀ l ∈ g, s.linkUp l = false) → ∃ n, exec (.collParticipantsMeet c i all) s =
                 .next { set { x with code := some 6 } with freeCtr := n })
             ∧ (up → x.sub = 4 → exec (.collParticipantsMeet c i all) s =
                 .next { set { x with sent := true } with linkOut := s.linkOut ++ [s.linkMsg c i x] })
             ∧ (up → x.sub ≠ 4 → exec (.collParticipantsMeet c i all) s = .next (s.collRead c i x))))
         ∧ (x.code = none →
           (exec (.flitReceive c i .aborted) s = .next (set { x with code := some 5, held := none }))
           ∧ (exec (.flitReceive c i .linkFailed) s = .next (set { x with code := some 6, held := none }))
           ∧ (x.sub = 3 → x.sent = true → exec (.flitReceive c i .windowDone) s = .next (set { x with answered := true }))
           ∧ (3 ≤ x.sub.toNat → x.sent = true → x.answered = false → exec (.flitReceive c i .windowRefused) s = .next (set { x with code := some 4 }))
           ∧ (∀ b, x.sub = 4 → x.sent = true → x.answered = false → b.length = cdCount x.desc →
             exec (.flitReceive c i (.windowData b [])) s = .next (set { x with answered := true, data := [(0, b)], bad := [] }))
           ∧ (∀ fc tag p b, x.sub.toNat < 3 → x.met = true → p < s.partCount (cdDims x.desc) → p ≠ s.partIndex (cdDims x.desc) →
             b.length = cdSrcLen x.sub.toNat x.desc → (∀ e ∈ x.data, e.1 ≠ p) →
             (fc.toNat = s.fctx x.part → tag.toNat = cdTag x.desc →
               exec (.flitReceive c i (.source fc tag p b [])) s = .next (set { x with data := x.data ++ [(p, b)] }))
             ∧ (fc.toNat ≠ s.fctx x.part ∨ tag.toNat ≠ cdTag x.desc → exec (.flitReceive c i (.source fc tag p b [])) s = .next s)))
         ∧ (∀ (code : BitVec 8) (sn : Snap) (s1 : State), quiet (s.modCore c fun k => { k with colls := vset k.colls i none }) → s.mem.wf = true →
           let stat := cdStat x.desc
           let l := x.snap.place stat
           let q := x.snap.place (cdCsem x.desc)
           let len := cdDstLen x.sub.toNat (s.partCount (cdDims x.desc)) x.desc
           let at' (j : Nat) : Nat := sn.place (cdDst x.desc + j)
           let clear (p : Nat) : Prop := (p < q ∨ q + 8 ≤ p) ∧ (stat = 0 ∨ p < l ∨ l + 8 ≤ p)
           let ends (t : State) (code : Nat) : Prop := vget (t.core c).colls i none = none
             ∧ (∀ j, j ≠ i → vget (t.core c).colls j none = vget (s.core c).colls j none)
             ∧ t.rdN q 8 = (s.rdN q 8 + 1) % 2 ^ 64 ∧ (stat ≠ 0 → t.rdN l 8 = cdTag x.desc * 2 ^ 32 + code)
           stat % 8 = 0 → dry q → (stat = 0 ∨ (dry l ∧ (l + 8 ≤ q ∨ q + 8 ≤ l))) → (∀ z ∈ x.raced, inPieces x.statPieces z = false) →
           ((x.code = some code ∧ code ≠ 5 ∧ code ≠ 6) ∨ (x.code = none ∧ x.held = none ∧ x.sub = 3 ∧ x.answered = true ∧ code = 0) →
             ∃ t, exec (.collComplete c i) s = .next t ∧ ends t code.toNat ∧ ∀ p, clear p → t.mem.get p = s.mem.get p)
           ∧ (x.code = none → x.held = none → s.collReady x = true → (x.sub = 0 ∨ x.sub = 2 ∨ x.sub = 4) → x.bad = [] → s.ue = [] →
             s.ioReach x.part permW (cdDst x.desc) len = .ok (sn, s1) → (s.collResult x).1.length = len → ((List.range len).map at').Nodup →
             (∀ j, j < len → isCant (at' j / 128 * 128) = false ∧ clear (at' j)) →
             ∃ t, exec (.collComplete c i) s = .next t ∧ ends t 0
               ∧ (∀ j, j < len → at' j ∉ x.raced → j ∉ s.crsOverlap x → t.mem.get (at' j) = nth (s.collResult x).1 j 0)
               ∧ ∀ p, clear p → (∀ j, j < len → p ≠ at' j) → t.mem.get p = s.mem.get p)
           ∧ (x.code = some code → code = 5 ∨ code = 6 → sn = s.peek (ioX x.part) permW (cdDst x.desc) len →
             let known (j : Nat) : Prop := ∃ e ∈ sn, e.1 = (cdDst x.desc + j) / 65536
             (∀ j k, j < len → k < len → known j → known k → at' j = at' k → j = k) →
             (∀ j, j < len → known j → isCant (at' j / 128 * 128) = false ∧ clear (at' j)) →
             ∃ t, exec (.collComplete c i) s = .next t ∧ ends t code.toNat
               ∧ (∀ j, j < len → known j → t.mem.get (at' j) = s.mem.get (at' j)
                   ∨ (x.moving = true ∧ ∀ v, s.collByte x j = some v → t.mem.get (at' j) = v))
               ∧ ∀ p, clear p → (∀ j, j < len → known j → p ≠ at' j) → t.mem.get p = s.mem.get p))
         ∧ (x.code = none → x.held = none → s.collReady x = true → x.sub = 1 →
           (x.delivered = true → exec (.collComplete c i) s = .next s)
           ∧ (x.delivered = false → exec (.collComplete c i) s = exec (.landingShardArrive x.part (BitVec.ofNat 52 (cdDst x.desc))
               (BitVec.ofNat 16 (cdMb x.desc)) ((s.collShare x).map fun e => s.collSum x e) (some (c, i))) (set { x with delivered := true })))
         ∧ (x.code = none → (x.held ≠ none ∨ s.collReady x = false) → exec (.collComplete c i) s = .next s)
         ∧ (∀ f, x.held = none → s.collReleased c x = true → s.collFailure x = some f →
           ∃ t y, exec (.collHeld c i) s = .next t ∧ t.cores = (set y).cores ∧ y = { x with held := some (BitVec.ofNat 8 f.cause, BitVec.ofNat 52 f.va) })
         ∧ (x.held ≠ none ∨ s.collFailure x = none → exec (.collHeld c i) s = .next s))
       ∧ (∀ l, l < 12 → (s.linkUp l = false → exec (.linkFailure l) s = .next s)
         ∧ (s.linkUp l = true → (∀ j k, j < 480 → k < 8 → vget (s.core j).colls k none = none) → ∃ t, exec (.linkFailure l) s = .next t
           ∧ t = (State.postEvent { s with links := t.links } 8 10 none [BitVec.ofNat 64 l]) ∧ (vget t.links l 0).getLsbD 63 = false
           ∧ ∀ j, j ≠ l → vget t.links j 0 = vget s.links j 0))
       ∧ (∀ (f : BitVec 16) (n : BitVec 8) (o : BitVec 48) (len : Nat) (b : List Byte) (rs : Option (BitVec 48)),
         let q (op : RemoteOp) : WinReq := ⟨f, n, o, op⟩
         (s.window f.toNat n.toNat o.toNat len false = none → exec (.remoteWindowAccess f n o (.read len)) s =
           .next { s with winWait := s.winWait.erase (q (.read len)), winOut := s.winOut ++ [none] })
         ∧ (s.window f.toNat n.toNat o.toNat b.length true = none → exec (.remoteWindowAccess f n o (.write b [] rs)) s =
           .next { s with winWait := s.winWait.erase (q (.write b [] rs)), winOut := s.winOut ++ [none] })
         ∧ (∀ part base sn s1, quiet s1 → s1.ue = [] → s.window f.toNat n.toNat o.toNat len false = some (part, base) →
             s.ioReach part permR (base + o.toNat) len = .ok (sn, s1) → ∃ t, exec (.remoteWindowAccess f n o (.read len)) s = .next t
             ∧ sameMem s1 t ∧ t.cores = s1.cores ∧ t.winOut = s1.winOut ++ [some (s1.rdV sn (base + o.toNat) len, [])])
         ∧ (∀ part base sn s1 s2, s.window f.toNat n.toNat o.toNat b.length true = some (part, base) →
             (∀ r, rs = some r → s.window f.toNat n.toNat r.toNat 8 true ≠ none) →
             s.ioReach part permW (base + o.toNat) b.length = .ok (sn, s1) → s1.ioWrite part sn (base + o.toNat) b = (true, s2) →
             ∃ t, exec (.remoteWindowAccess f n o (.write b [] rs)) s = .next t
               ∧ (rs = none → t = { s2 with winWait := s2.winWait.erase (q (.write b [] rs)), winOut := s2.winOut ++ [some ([], [])] })
               ∧ ∀ r, rs = some r → t = { s2 with winWait := s2.winWait.erase (q (.write b [] rs)), rsigs := s2.rsigs ++ [(f, n, r)] })
         ∧ ((f, n, o) ∉ s.rsigs → exec (.remoteSignalRaise f n o) s = .next s)
         ∧ (∀ part base sn s1, (f, n, o) ∈ s.rsigs → quiet s1 → s1.mem.wf = true → s.window f.toNat n.toNat o.toNat 8 true = some (part, base) →
             s.ioReach part permRW (base + o.toNat) 8 = .ok (sn, s1) → dry (sn.place (base + o.toNat)) →
             ∃ t, exec (.remoteSignalRaise f n o) s = .next t
             ∧ t.rsigs = s1.rsigs.erase (f, n, o) ∧ t.winOut = s1.winOut ++ [some ([], [])]
             ∧ t.rdN (sn.place (base + o.toNat)) 8 = (s1.rdN (sn.place (base + o.toNat)) 8 + 1) % 2 ^ 64
             ∧ ∀ p, p < sn.place (base + o.toNat) ∨ sn.place (base + o.toNat) + 8 ≤ p → t.mem.get p = s1.mem.get p)
         ∧ ((f, n, o) ∈ s.rsigs → s.window f.toNat n.toNat o.toNat 8 true = none → ∃ t, exec (.remoteSignalRaise f n o) s = .next t ∧ sameMem s t
             ∧ t.rsigs = s.rsigs.erase (f, n, o) ∧ t.winOut = s.winOut ++ [none])))

/-! ## Walkers and cores -/

/-- R46, R51, R52, R158, R179, R180, R505: a walker that neither a budget, a stopping place, the slip bound nor an acquire holds fetches
the eight syllables of its bundle, in slot order, all from memory as it is or all as its text was when the gang was bound, and has then
reached the bundle. That the old text is that of the time when the gang was bound, by the translation of then, is the model's choice
(log 72), and so is that a walker held before its fetch has not reached the bundle (log 94); A waits under RES 12 while it stands SLIP
bundles before S, and a fetch that fails stops the walker. -/
def Obligations.BundleFetch : Prop :=
  ∀ (s : State) (c : Nat) (w : Walker), c < 480 →
    let k := s.core c
    let x := k.wk w
    let b := s.beginIssue c w
    x.run = .running → x.due = none → x.atPoint = false → (w = .X → k.lateRows = none) →
    (w = .A → k.slipOk = false → ∃ t, exec (.bundleFetch c w) s = .next t ∧ t.issue.words = [] ∧ (∀ y, y ∈ t.issue.waits → y.res = 12)
      ∧ ((t.core c).wk w).pc = x.pc ∧ ((t.core c).wk w).walk = x.walk ∧ (t.core c).arrivals = k.arrivals ∧ sameMem s t)
    ∧ ((w = .A → k.slipOk = true) → k.acqHolds w = false →
      (∀ f, b.reach (b.xctx 0) permX x.pc.toNat 32 = .error (.fail f) → exec (.bundleFetch c w) s = .next (b.accessFault f))
      ∧ (∀ sn u, b.reach (b.xctx 0) permX x.pc.toNat 32 = .ok (sn, u) → (∀ i, i < 32 → u.marked (sn.place (x.pc.toNat + i)) 1 = false) → quiet s →
        ∃ t m, exec (.bundleFetch c w) s = .next t
          ∧ t = { u.modCore c (fun k => k.arrive w) with issue := t.issue, freeCtr := t.freeCtr, excl := t.excl }
          ∧ (m = u.rdV sn x.pc.toNat 32 ∨ ∃ g, s.gangAt c = some g ∧ u.boundText g x.pc.toNat = some m)
          ∧ t.issue.core = c ∧ t.issue.w = w ∧ t.issue.addr = x.pc ∧ (t.core c).hasReached x.walk w = true
          ∧ t.issue.words.length = 8
          ∧ ∀ i, i < 8 → (nth t.issue.words i 0).toNat = ofBytes ((m.drop (4 * i)).take 4)))

/-- R67, R69, R75, R222, R37, R233, R130: a wait beyond its budget stops its walker with the record of R69 (its OBJID of a queue wait is a
slot of the queue, which no rule numbers: log 21); a core whose walkers have ended and whose accesses are done completes (that its tile
descriptors then stay as they are is the model's choice: log 73), the last one of a gang unbinding it; an arrival is signalled once its
release is complete; a carve step that PHASE removed loses its bytes when its move ends. -/
def Obligations.WalkerEvents : Prop :=
  (∀ (s : State) (c : Nat) (w : Walker) (y : Stall), c < 480 → ((s.core c).wk w).run = .running → ((s.core c).wk w).due = some y → y.slot < 8 →
    let x := (s.core c).wk w
    y.budget < y.count ∧ y ∈ x.stalls ∧ ∃ t rec, exec (.progressTrap c w) s = .next t
      ∧ (t.core c).wk w = { x with run := .stopped, stop := some rec, stalls := [], await := none, got := [] }
      ∧ fld rec[0] 0 5 = (if y.stash then 2 else 1) ∧ fld rec[0] 5 2 = walkerNo w ∧ fld rec[0] 7 3 = y.slot ∧ fld rec[0] 10 54 = x.pc.toNat / 32
      ∧ fld rec[1] 0 8 = y.res.toNat ∧ fld rec[1] 12 4 = y.bidx.toNat ∧ (queueSlots y.res.toNat = 0 → fld rec[1] 16 16 = y.obj.toNat) ∧ (y.res.toNat < 5 ∨ y.res = 16 ∨ y.res = 17 → fld rec[1] 16 16 < queueSlots y.res.toNat)
      ∧ fld rec[1] 32 32 = Nat.min y.count (2 ^ 32 - 1) ∧ rec[4] = x.walk)
  ∧ (∀ (s : State) (c u : Nat) (g : Gang), c < 480 →
      let k := s.core c
      k.gangUid = some u → k.done = false → k.wA.run = .ended → k.wX.run = .ended → k.wS.run = .ended → k.loads = [] → k.stores = [] → k.nm = [] →
      k.pubs = [] → k.lateRows = none → (∀ i, i < 16 → (vget k.chans i .reset).state = .idle) → (s.gangs.find? fun g => g.uid = u) = some g →
      ∃ t, exec (.coreComplete c) s = .next t
        ∧ ((∃ d, d ∈ g.cores ∧ d ≠ c ∧ (s.core d).done = false) → (t.core c).done = true ∧ (t.core c).lq = [] ∧ (t.core c).sq = [] ∧ (t.core c).aq = []
            ∧ (t.core c).bq = [] ∧ (t.core c).kq = [] ∧ (t.core c).tiles = k.tiles
            ∧ (t.core c).rings = .replicate 8 .reset ∧ (t.core c).sems = .replicate 32 .reset ∧ (t.slot c).w0.getLsbD 59 = true
            ∧ (∀ d, d ≠ c → t.core d = s.core d) ∧ t.gangs = s.gangs ∧ sameMem s t)
        ∧ (c ∈ g.cores → (∀ d, d ∈ g.cores → d < 480 ∧ (d ≠ c → (s.core d).done = true)) →
            (∀ d, d ∈ g.cores → (t.core d).gangUid = none ∧ t.slotState d = 0)
            ∧ ∃ h, (t.gangs.find? fun g => g.uid = u) = some h ∧ h.st = .done ∧ h.cores = [] ∧ h.saves = []))
  ∧ (∀ (s : State) (c ph : Nat) (b : W64) (r : List (W64 × Nat)) (g : Gang), c < 480 → (s.core c).barPend = (b, ph) :: r → s.gangAt c = some g →
      (s.core c).rank < g.arr.length → (s.core c).releaseDone b = true → walkLt (s.core c).wX.walk b = false → g.holds (s.core c).rank = false →
      ∃ t h, exec (.barrierArrivalSignal c) s = .next t ∧ t = { s.modCore c (fun k => { k with barPend := r }) with gangs := t.gangs }
        ∧ t.gangAt c = some h ∧ nth h.arr (s.core c).rank 0 = nth g.arr (s.core c).rank 0 + 1
        ∧ (∀ j, j ≠ (s.core c).rank → nth h.arr j 0 = nth g.arr j 0) ∧ ∀ o, o ∈ s.gangs → o.uid ≠ g.uid → o ∈ t.gangs)
  ∧ (∀ (s : State) (u st rk : Nat) (added : Bool) (g : Gang) (r : List (Nat × Bool × Nat)), s.mem.wf = true →
      (s.gangs.find? fun g => g.uid = u) = some g → g.motion = (st, added, rk) :: r →
      let a := carvePlace u (st * 2 ^ 25)
      ∃ t h, exec (.carveStepMoveDone u) s = .next t ∧ (t.gangs.find? fun g => g.uid = u) = some h ∧ h = { g with motion := r }
        ∧ t.cores = s.cores ∧ (added = true ∨ st < g.carve → sameMem s t)
        ∧ (added = false → g.carve ≤ st → ∀ l, t.mem.get l = if a ≤ l ∧ l < a + 2 ^ 25 then 0 else s.mem.get l))

/-! ## The host port and boot -/

/-- R528, R529, R496: an RDMA WRITE to resident HBM bytes of one page leaves its data there and every other byte alone; an RDMA READ
returns the bytes at their points of coherence; an access that fails is answered with a remote access error, and one that is held comes
back later, a WRITE before every later WRITE of its queue pair; a damaged table entry that its walk met is reported. R530, R533-R535,
R538: a request over the management channel is taken in the stages of its TYPE and answered with its TAG, in any other stage with
STATUS 2; a request with a reserved bit or of no TYPE of the table is answered with STATUS 1; TYPE 7 is answered twice, with the log
and its signature; chunks go to the erased image slot. That the answer of TYPE 8 holds BOOT in ARG, that a malformed request is judged
before the stage, and that erased bytes of the flash read as 0 are the model's choices (log 59). -/
def Obligations.HostInterface : Prop :=
  (∀ (s u : State) (qp part : Nat) (va : BitVec 52) (data : List (BitVec 8)) (len : Nat) (sn : Snap), part < 8 →
     (s.ioReach part permW va.toNat data.length = .ok (sn, u) → quiet s → s.mem.wf = true → va.toNat % 65536 + data.length ≤ 65536 →
       sn.place va.toNat + data.length ≤ 2 ^ 40 →
       ∃ t, exec (.rdmaWrite ⟨qp, part⟩ va data) s = .next t ∧ t.rdmaOut = s.rdmaOut
         ∧ (∀ i, i < data.length → t.mem.get (sn.place va.toNat + i) = nth data i 0)
         ∧ ∀ l, l < sn.place va.toNat ∨ sn.place va.toNat + data.length ≤ l → t.mem.get l = s.mem.get l)
     ∧ (s.ioReach part permR va.toNat len = .ok (sn, u) → quiet s → ∃ t, exec (.rdmaRead part va len) s = .next t
         ∧ t.rdmaOut = s.rdmaOut ++ [some (s.rdV sn va.toNat len)] ∧ t.cores = s.cores ∧ sameMem s t)
     ∧ (∀ e, s.ioReach part permW va.toNat data.length = .error (some e) →
         exec (.rdmaWrite ⟨qp, part⟩ va data) s = .next { s.ioMet part e with rdmaOut := s.rdmaOut ++ [none] })
     ∧ (∀ e, s.ioReach part permR va.toNat len = .error (some e) →
         exec (.rdmaRead part va len) s = .next { s.ioMet part e with rdmaOut := s.rdmaOut ++ [none] })
     ∧ (s.ioReach part permW va.toNat data.length = .error none → exec (.rdmaWrite ⟨qp, part⟩ va data) s = .next { s with retry := true })
     ∧ (s.ioReach part permR va.toNat len = .error none → exec (.rdmaRead part va len) s = .next { s with retry := true })
     ∧ ∀ (r : List Instr) (u : State), u.retry = true → u.agenda = r → ∃ t, u.again (.rdmaWrite ⟨qp, part⟩ va data) = t ∧ t = { u with agenda := t.agenda }
         ∧ (t.agenda.filter fun j => instrLine j == some (qp + 1)) = .rdmaWrite ⟨qp, part⟩ va data :: r.filter fun j => instrLine j == some (qp + 1))
  ∧ (∀ (s : State) (tag : W32) (off data tgt : W64) (chunk nonce addr : List (BitVec 8)) (big : Bool) (env : BootEnv),
       let stage := fld s.boot 60 4
       let answer (y st : Nat) (a d : W64) (p : List Byte) : MgmtMsg := ⟨BitVec.ofNat 8 y, BitVec.ofNat 8 st, tag, a, d, p⟩
       let rows (rsv : Bool) : List (Instr × Nat × List Nat × W64) :=
         [(.mgmtCsRead ⟨1, rsv, tag⟩ off, 1, [3, 4], off), (.mgmtCsWrite ⟨rsv, tag⟩ off data, 2, [3, 4], off), (.imageChunk ⟨rsv, tag⟩ off chunk, 5, [2], off),
          (.imageCommit ⟨rsv, tag⟩ env, 6, [2], 0), (.attestation ⟨rsv, tag⟩ nonce, 7, [3, 4], 0), (.versionReport ⟨rsv, tag⟩, 8, [0, 1, 2, 3, 4, 5], 0),
          (.storageConnection ⟨rsv, tag⟩ tgt addr big, 9, [4], tgt)]
       (s.powered = true → exec .mgmtConnect s = .next { s with mgmtUp := true })
       ∧ (exec .mgmtConnectionClosed s = .next { s with mgmtUp := false })
       ∧ (∀ n, n < 16 → exec (.storageConnectionLost n) s = .next { s with stgt := vset s.stgt n (setFld (vget s.stgt n 0) 63 1 0) })
       ∧ (s.mgmtUp = true →
         (∀ i y l a, (i, y, l, a) ∈ rows false → stage ∉ l → exec i s = .next { s with outbox := s.outbox ++ [answer y 2 a 0 []] })
         ∧ (∀ i y l a, (i, y, l, a) ∈ rows true → exec i s = .next { s with outbox := s.outbox ++ [answer y 1 a 0 []] })
         ∧ (∀ (y : BitVec 8) rsv, y.toNat ∉ [1, 2, 5, 6, 7, 8, 9] →
             exec (.mgmtCsRead ⟨y, rsv, tag⟩ off) s = .next { s with outbox := s.outbox ++ [answer y.toNat 1 off 0 []] })
         ∧ (stage = 3 ∨ stage = 4 → ∃ t, exec (.mgmtCsRead ⟨1, false, tag⟩ off) s = .next t ∧ t = { (s.csRead off.toNat).2 with outbox := t.outbox }
             ∧ t.outbox = s.outbox ++ [answer 1 0 off (s.csRead off.toNat).1 []])
         ∧ (stage = 3 ∨ stage = 4 → nonce.length = 32 → ∃ t a b, exec (.attestation ⟨false, tag⟩ nonce) s = .next t
             ∧ t = { s with outbox := s.outbox ++ [answer 7 0 0 0 a, answer 7 0 0 0 b] } ∧ a.length = 256 ∧ b.length = 64
             ∧ b = fitBytes 64 (Config.edSign (fitBytes 64 (Config.sha512 (nonce ++ (a.drop 32).take 192)))))
         ∧ (stage ≤ 5 → exec (.versionReport ⟨false, tag⟩) s = .next { s with outbox := s.outbox ++ [answer 8 0 s.boot s.versionReport []] })
         ∧ (stage = 4 → tgt.toNat < 16 → ∃ t, exec (.storageConnection ⟨false, tag⟩ tgt addr big) s = .next t
             ∧ t = { s with stgt := t.stgt, outbox := s.outbox ++ [answer 9 0 tgt 0 []] }
             ∧ fld (vget t.stgt tgt.toNat 0) 63 1 = 1 ∧ fld (vget t.stgt tgt.toNat 0) 48 8 = (if big then 12 else 9)
             ∧ ∀ j, j ≠ tgt.toNat → vget t.stgt j 0 = vget s.stgt j 0)
         ∧ (stage = 2 → chunk.length ≤ 4096 → off.toNat + chunk.length ≤ Config.flashSize → s.flash.wf = true →
             ∃ t, exec (.imageChunk ⟨false, tag⟩ off chunk) s = .next t ∧ t = { s with flash := t.flash, flashErased := true, boot := t.boot, outbox := t.outbox }
               ∧ t.outbox = s.outbox ++ [answer 5 0 off 0 []] ∧ (s.flashErased = true → t.boot = s.boot)
               ∧ ∀ l, t.flash.get l = if off.toNat ≤ l ∧ l < off.toNat + chunk.length then nth chunk (l - off.toNat) 0
                   else if s.flashErased then s.flash.get l else 0)))

/-- R10, R438, R533, R450, R465, R520, R518, R538: what a read of the control space returns; an unassigned or misaligned offset reads as 0,
and a read of DROP, of a CTSTAT, of a DRSTAT or of a link register clears its counts. R438, R453, R465, R469, R476, R493, R502, R526,
R533, R536, R468: a write to a register keeps its writable bits; a hart's write and the supervisor's write of the same register do the
same, the latter answered with its TAG; a read-only register and an unassigned offset take no write; a hart's load clears what a read
clears, and an access of another size than 8 bytes does nothing. -/
def Obligations.ControlSpace : Prop :=
  (∀ (s : State) (n w : Nat),
     (csReg n = none → s.csRead n = (0, s))
     ∧ (n % 8 ≠ 0 → s.csRead n = (0, s))
     ∧ (n < 4 → s.csRead (0x2000 + 8 * n) = (vget s.fdstat n 0, s))
     ∧ (n < 8 → s.csRead (0x3000 + 8 * n) = (vget s.sched n 0, s)
         ∧ s.csRead (0x1000 + 0x20 * n) = ((s.part n).w0, s) ∧ s.csRead (0x1008 + 0x20 * n) = ((s.part n).w1, s) ∧ s.csRead (0x1010 + 0x20 * n) = ((s.part n).w2, s)
         ∧ s.csRead (0x4000 + 0x40 * n) = ((s.xlOf n).w0, s) ∧ s.csRead (0x4018 + 0x40 * n) = ((s.xlOf n).w3, s))
     ∧ (n < 9 → s.csRead (0x6008 + 0x20 * n) = ((vget s.evq n .none0).tail, s)
         ∧ s.csRead (0x6018 + 0x20 * n) = (BitVec.ofNat 64 ((vget s.evq n .none0).drop.toNat * 2 ^ 32),
             { s with evq := vset s.evq n { vget s.evq n .none0 with drop := 0 } }))
     ∧ (n < 16 → (s.csRead (0x6300 + 8 * n)).2 = { s with ctstat := vset s.ctstat n (setFld (vget s.ctstat n 0) 48 16 0) })
     ∧ (n < 40 → s.csRead (0x7100 + 8 * n) = (vget s.drstat n 0, { s with drstat := vset s.drstat n 0 }))
     ∧ (n < 12 → s.csRead (0x8100 + 8 * n) = (vget s.links n 0, { s with links := vset s.links n (setFld (vget s.links n 0) 0 16 0) }))
     ∧ (n < 480 → w < 7 → s.csRead (0x200000 + 0x40 * n + 8 * w) = ((s.slot n).word w, s))
     ∧ (n < 1024 → s.csRead (0x100000 + 0x20 * n) = ((s.wq n).w0, s) ∧ s.csRead (0x100010 + 0x20 * n) = ((s.wq n).head, s))
     ∧ s.csRead 0x5000 = (setFld s.shootW0 62 1 (b2n s.shoot.isSome), s) ∧ s.csRead 0x5020 = (s.migrW0, s) ∧ s.csRead 0x6200 = (s.svc, s)
     ∧ s.csRead 0x7000 = (s.pwrcfg, s) ∧ s.csRead 0x8000 = (s.boot, s))
  ∧ (∀ (s : State) (tag : W32) (data : W64) (n : Nat),
       let keep (hi lo : Nat) : W64 := BitVec.ofNat 64 (fld data lo (hi - lo + 1) * 2 ^ lo)
       let sched : W64 := BitVec.ofNat 64 (fld (vget s.sched n 0 &&& ~~~data) 48 16 * 2 ^ 48 + fld data 0 16)
       ∀ off u, off < 2 ^ 64 → (n < 8 ∧ (off, u) = (0x3000 + 8 * n, { s with sched := vset s.sched n sched })
           ∨ (off, u) = (0x5008, { s with shootW1 := keep 35 0 }) ∨ (off, u) = (0x5010, { s with pinq := keep 43 16 })
           ∨ (off, u) = (0x5028, { s with migrW1 := keep 63 56 }) ∨ (off, u) = (0x5030, { s with migrW2 := keep 43 16 })
           ∨ (off, u) = (0x7060, { s with coolW0 := keep 43 3 }) ∨ (off, u) = (0x7068, { s with coolW1 := keep 31 0 })
           ∨ n < 9 ∧ (off, u) = (0x6010 + 0x20 * n, { s with evq := vset s.evq n { vget s.evq n .none0 with head := data } })
           ∨ n < 16 ∧ (off, u) = (0x8200 + 8 * n, { s with stgt := vset s.stgt n (setFld (vget s.stgt n 0) 0 32 (fld data 0 32)) })
           ∨ n < 480 ∧ (off, u) = (0x200008 + 0x40 * n, { s with slots := vset s.slots n ((s.slot n).keep { s.slot n with w1 := data }) })
           ∨ (off, u) = (0x8000, s) ∨ n < 12 ∧ (off, u) = (0x8100 + 8 * n, s) ∨ n < 40 ∧ (off, u) = (0x7100 + 8 * n, s)
           ∨ n < 9 ∧ (off, u) = (0x7010 + 8 * n, s) ∨ n < 9 ∧ (off, u) = (0x6008 + 0x20 * n, s) ∨ n < 1024 ∧ (off, u) = (0x100010 + 0x20 * n, s)
           ∨ csReg off = none ∧ u = s) →
         exec (.registerWrite ⟨false, 8, BitVec.ofNat 64 off⟩ data) s = .next u
         ∧ exec (.registerWrite ⟨true, 8, BitVec.ofNat 64 off⟩ data) s = .next (s.csRead off).2
         ∧ (∀ load size, size ≠ 8 → exec (.registerWrite ⟨load, size, BitVec.ofNat 64 off⟩ data) s = .next s)
         ∧ (s.mgmtUp = true → fld s.boot 60 4 = 3 ∨ fld s.boot 60 4 = 4 → exec (.mgmtCsWrite ⟨false, tag⟩ (BitVec.ofNat 64 off) data) s =
             .next { u with outbox := s.outbox ++ [⟨2, 0, tag, BitVec.ofNat 64 off, 0, []⟩] }))

/-- R531-R534, R523: every reset leaves each core, the memory and the registers at their reset values, keeps the flash and its erasure
counter, and begins boot in stage 0; boot passes through stages 1 and 3, the pump driven from the latter on, to RUN, to recovery with
the FAIL of the check, or to a stage-5 failure of a stack; a loss of power leaves only the flash. The reset values of the cores that no
rule gives and the pump at exactly PUMPMIN in stage 3 are the model's choices (log 4), and so is that a step may leave a boot under way
where it is (log 16). -/
def Obligations.ResetAndBoot : Prop :=
  ∀ (s : State) (env : BootEnv) (tag : W32) (torn : Bool),
    let blank (t : State) : Prop := t.mem = [] ∧ (∀ c, t.core c = .reset) ∧ t.ue = [] ∧ t.gangs = [] ∧ t.insts = [] ∧ t.pwrcfg = 0x0055644000000000
      ∧ (∀ c, t.slot c = .none0) ∧ (∀ n, t.part n = .none0) ∧ (∀ n, t.xlOf n = .none0) ∧ t.mgmtUp = false ∧ t.time = 0
      ∧ fld t.boot 0 32 = fld s.boot 0 32
    let begins (t : State) : Prop := blank t ∧ t.powered = true ∧ fld t.boot 32 32 = 0 ∧ t.booting = some env
    let passes (t : State) (stage fail stack svn : Nat) (on : Option BootEnv) : Prop :=
      t = { s with boot := t.boot, booting := on, pump := t.pump, ext := t.ext, links := t.links, idDev := t.idDev } ∧ fld t.boot 0 32 = fld s.boot 0 32
      ∧ fld t.boot 60 4 = stage ∧ fld t.boot 56 4 = fail ∧ fld t.boot 52 4 = stack ∧ fld t.boot 32 16 = svn
      ∧ (stage ≠ 4 → t.ext = s.ext ∧ t.links = s.links ∧ t.idDev = s.idDev) ∧ (stage ≠ 3 → t.pump = s.pump)
    let stage := fld s.boot 60 4
    (∃ t, exec (.moduleReset env) s = .next t ∧ begins t ∧ t.outbox = s.outbox
      ∧ (s.flashErased = false → t.flash = s.flash) ∧ (s.flashErased = true → s.flash.wf = true → t.flashN 0 4 = 0))
    ∧ (s.mgmtUp = true → stage = 2 → ∃ t, exec (.imageCommit ⟨false, tag⟩ env) s = .next t ∧ begins t ∧ t.flash = s.flash
        ∧ t.outbox = s.outbox ++ [⟨6, 0, tag, 0, 0, []⟩])
    ∧ (∃ t, exec (.powerLoss torn) s = .next t ∧ blank t ∧ t.powered = false
        ∧ (s.flashErased = false → torn = false → t.flash = s.flash))
    ∧ (s.booting = none → s.bootGoes = s)
    ∧ (s.booting = some env → s.bootGoes = { s with freeCtr := s.freeCtr + 1 } ∨ s.bootGoes = { s with freeCtr := s.freeCtr + 1 }.bootNext)
    ∧ (s.booting = some env → ∃ t, s.bootNext = t
        ∧ (stage = 0 → passes t 1 0 0 0 (some env))
        ∧ (stage = 1 → ∃ f, f = s.verify env.flashError ∧ (f ≠ 0 → passes t 2 f 0 0 none)
            ∧ (f = 0 → passes t 3 0 0 (s.flashN 4 2) (some env) ∧ fld s.pwrcfg 32 8 = t.pump.toNat))
        ∧ (stage = 3 → (∀ st, env.failStack = some st → passes t 5 6 st.toNat (fld s.boot 32 16) none)
            ∧ (env.failStack = none → ∃ u, passes u 4 0 0 (fld s.boot 32 16) none ∧ u.ext = env.ext ∧ u.idDev = env.idDev
                ∧ (∀ l, l < 12 → vget u.links l 0 =
                    if linkTrains env l = true ∧ env.strange.getLsbD l = false then BitVec.ofNat 64 (2 ^ 63 + 2 ^ 32) else 0)
                ∧ t = ((List.range 12).filter fun l => linkTrains env l && env.strange.getLsbD l).foldl
                    (fun v l => v.postEvent 8 10 none [BitVec.ofNat 64 l]) u)))

/-! ## Work queues, launches and graphs -/

/-- R453-R456, R464, R495, R31: a record is taken from HEAD, which moves on, and one that has to wait stays with the keystone; an accepted
kernel launch starts an instance with the next SERIAL and id, whose gangs become ready in the order of their index; a malformed record
is refused with code 1, any other failed check with its own, and a refusal writes END 1 and the code to STAT, or waits with its record
while that word is held; a damaged table entry that a check met is reported. -/
def Obligations.KernelLaunches : Prop :=
  (∀ (s u : State) (n : Nat) (w : List W64) (a : Answer), n < 1024 → quiet s → s.takeRecord n = .ok (w, a, u) → recKind w ≠ 2 → recKind w ≠ 3 →
    (u.wq n).head = (s.wq n).head + (if (s.wq n).taken = [] then 1 else 0) ∧ a.wq = n ∧ a.idx + 1 = (u.wq n).head ∧ a.part = (s.wq n).part ∧ sameMem s u
    ∧ (∃ v, (u.keepRecord a w).takeRecord n = .ok (w, a, v) ∧ v.wq n = u.wq n)
    ∧ (∀ x, u.checkKernel a w = .ok x → ∃ t i gs, exec (.kernelLaunch n) s = .next t ∧ t.wqs = u.wqs
        ∧ t.insts = s.insts ++ [i] ∧ i.id = s.instNext + 1 ∧ i.part = a.part ∧ i.wq = some (n, a.idx) ∧ i.node = none ∧ i.lrec = vecOf 16 (wd w)
        ∧ i.image = vecOf 16 (wd x.img) ∧ i.level = effPrio x.chain ∧ i.fdom = effective x.chain 6 ∧ i.ending = none ∧ i.ended = false
        ∧ i.serial = vget s.serials a.part 0 + 1 ∧ vget t.serials a.part 0 = i.serial
        ∧ t.gangs = s.gangs ++ gs ∧ gs.length = fld (wd w 2) 0 16
        ∧ ∀ (k : Nat) g, gs[k]? = some g → g.inst = i.id ∧ g.idx = k ∧ g.st = .ready ∧ g.level = i.level ∧ g.readySeq = s.seqNo + 1 + k)
    ∧ (recMalformed w = true → u.checkKernel a w = .error (.code 1))
    ∧ (∀ c, u.checkKernel a w = .error (.code c) → c = 13 ∨ u.answerHeld a = false → exec (.kernelLaunch n) s = .next (u.refuse a c))
    ∧ (∀ c l, u.checkKernel a w = .error (.met c l) → c = 13 ∨ u.answerHeld a = false →
        exec (.kernelLaunch n) s = .next ((u.postEvent a.part 4 none [ueEvent 2 l]).refuse a c))
    ∧ (∀ e, u.checkKernel a w = .error e → u.answerHeld a = true → (∀ l, e ≠ .code 13 ∧ e ≠ .met 13 l) → e ≠ .wait →
        exec (.kernelLaunch n) s = .next ((u.answerWaits a).keepRecord a w))
    ∧ (∀ c, u.checkKernel a w = .error (.damaged c) → u.answerHeld a = false →
        exec (.kernelLaunch n) s = .next ((u.refuse a c).failRegion (recRegion w)))
    ∧ (u.checkKernel a w = .error .wait → exec (.kernelLaunch n) s = .next (u.keepRecord a w)))
  ∧ ∀ (s u : State) (a : Answer) (c : Nat) (sn : Snap), quiet s → s.mem.wf = true → c < 256 → c ≠ 13 → a.stat ≠ 0 → a.stat % 8 = 0 → a.done = 0 →
    s.ioReach a.part permW a.stat 8 = .ok (sn, u) → sn.place a.stat + 8 ≤ 2 ^ 40 →
    (s.refuse a c).rd64 (sn.place a.stat) = BitVec.ofNat 64 (2 ^ 56 + c * 2 ^ 48)
    ∧ ∀ l, l < sn.place a.stat ∨ sn.place a.stat + 8 ≤ l → (s.refuse a c).mem.get l = s.mem.get l

/-- R460, R463, R458: a seal that passes its checks makes its version the only current one of the object and writes it there; a launch of a
graph starts an instance of the current version, all of whose nodes wait; the oldest waiting instance takes the lowest free slot. R456:
an instance whose gangs are done, or a graph instance that is ending, ends; its gangs and its slot are given back, and with STAT and
DONE zero no memory changes. -/
def Obligations.GraphInstances : Prop :=
  ((∀ (s u : State) (n : Nat) (w : List W64) (a : Answer), n < 1024 → quiet s → s.takeRecord n = .ok (w, a, u) →
     (recKind w = 3 → s.mem.wf = true → a.stat = 0 → a.done = 0 → ∀ v sn, u.checkSeal a w = .ok (v, sn) →
       let l := sn.place (recObj w + 4)
       ∃ t, exec (.graphSeal n) s = .next t ∧ v ∈ t.graphs ∧ v.current = true
         ∧ (∀ o, o ∈ t.graphs → o.part = v.part → o.obj = v.obj → o.current = true → o = v)
         ∧ t.rdN l 4 = v.version.toNat ∧ (∀ q, q < l ∨ l + 4 ≤ q → t.mem.get q = s.mem.get q) ∧ (t.wq n).head = (u.wq n).head)
     ∧ (recKind w = 2 → recMalformed w = false → ∀ c o v, u.checkRegion a.part w = .ok c → u.ksWords a.part (recObj w) 8 10 = .ok o →
         goMalformed o = false → u.currentVer a.part (recObj w) = some v → v.bad = false → u.checkWords a = .ok () →
         ∃ t g, exec (.graphLaunch n) s = .next t ∧ t.ginsts = s.ginsts ++ [g] ∧ g.id = s.instNext + 1 ∧ g.ver = v.uid ∧ g.part = a.part
           ∧ g.slot = none ∧ g.fdom = effective c 6 ∧ g.serial = vget s.serials a.part 0 + 1 ∧ g.fits v ∧ g.ending = none ∧ g.ended = false
           ∧ (∀ x, x ∈ g.nodes → x = .waiting) ∧ (∀ x, x ∈ g.edges → x = none) ∧ sameMem s t))
   ∧ ∀ (s : State) (gi i : Nat) (g : GraphInst), s.gi gi = some g → g.slot = none → g.ending = none → g.ended = false → i < 8 →
     ((s.ginsts.filter fun h => h.ver = g.ver && !h.ended).find? fun h => h.slot.isNone && h.ending.isNone) = some g →
     (∀ h, h ∈ s.ginsts → h.ver = g.ver → h.ended = false → h.slot ≠ some (BitVec.ofNat 3 i)) →
     (∀ j, j < i → ∃ h, h ∈ s.ginsts ∧ h.ver = g.ver ∧ h.ended = false ∧ h.slot = some (BitVec.ofNat 3 j)) →
     ∃ t, exec (.graphInstanceStart gi) s = .next t ∧ t = { s with ginsts := t.ginsts } ∧ t.gi gi = some { g with slot := some (BitVec.ofNat 3 i) })
  ∧ (∀ (s : State) (n : Nat),
       (∀ i e, s.inst n = some i → i.ending = some e → i.ended = false → i.gen = none → i.node = none → fld (vget i.lrec 7 0) 0 52 = 0 →
         fld (vget i.lrec 6 0) 0 52 = 0 →
         ((∃ g, g ∈ s.gangs ∧ g.inst = n ∧ g.st ≠ .done) → exec (.instanceEnd n) s = .next s)
         ∧ ((∀ g, g ∈ s.gangs → g.inst = n → g.st = .done) → ∃ t, exec (.instanceEnd n) s = .next t ∧ t.inst n = some { i with ended := true }
             ∧ (∀ g, g ∈ t.gangs ↔ g ∈ s.gangs ∧ g.inst ≠ n) ∧ t.cores = s.cores ∧ sameMem s t))
       ∧ (∀ g e, s.inst n = none → s.gi n = some g → g.ending = some e → g.ended = false → fld (vget g.lrec 7 0) 0 52 = 0 →
           fld (vget g.lrec 6 0) 0 52 = 0 → ∃ t, exec (.instanceEnd n) s = .next t ∧ t.gi n = some { g with ended := true, slot := none }
             ∧ t.cores = s.cores ∧ t.insts = s.insts ∧ sameMem s t))

/-- R459-R461, R456, R513: a node that is due runs as its kind says, unless its version holds uncorrectable data, which fail its domain: a
kernel node starts an instance; a conditional and a switch read their word and take edges by label; a loop starts a trip or resolves; a
word that cannot be read fails the node with 0x50. R459, R461, R288, R530: completion nodes wait for what they name, and a host-signal
node sends its message in stage 4. That it waits for a connection, and that a bank-completion node whose source was skipped fails with
0x30, are the model's choices (log 53). -/
def Obligations.GraphNodes : Prop :=
  (∀ (s : State) (gi n : Nat) (g : GraphInst) (v : GraphVer) (w : Rec8) (on : Bool), quiet s → g.fits v →
     (v.bad = true → ∀ i k, (i, k) ∈ [(Instr.nodeKernel gi n, 1), (.nodeConditional gi n, 2), (.nodeLoop gi n, 3), (.nodeSwitch gi n, 4), (.nodeBankCompletion gi n, 5),
         (.nodeCollectiveCompletion gi n, 6), (.nodeStorageTransfer gi n, 7), (.nodeHostSignal gi n, 8)] → s.nodeDue gi n k = some (g, v, w, on) →
         exec i s = .next (s.failDomain g.fdom none))
     ∧ (v.bad = false →
     (s.nodeDue gi n 1 = some (g, v, w, false) → ∀ m tw, (v.templates.find? fun t => t.1 = n) = some (m, tw) → ∀ (a : Answer) (r : State),
       r = s.touchRecord g.part tw.toList → a = { part := g.part, stat := fld (vget tw 7 0) 0 52, done := fld (vget tw 6 0) 0 52, wq := g.wq, idx := g.recIdx } →
       (∀ x, r.checkKernel a tw.toList = .ok x → ∃ t i h, exec (.nodeKernel gi n) s = .next t ∧ t.insts = s.insts ++ [i] ∧ i.node = some (gi, n)
         ∧ i.lrec = tw ∧ t.gi gi = some h ∧ h.st n = .running ∧ (n, i.id) ∈ h.insts)
       ∧ (∀ c, (r.checkKernel a tw.toList = .error (.code c) ∨ ∃ l, r.checkKernel a tw.toList = .error (.met c l)) → a.stat = 0 → a.done = 0 → ∃ t, exec (.nodeKernel gi n) s = .next t
         ∧ nodeRan s t gi n (.failed (BitVec.ofNat 8 c)) fun _ => false))
     ∧ (∀ i k, (i, k) ∈ [(Instr.nodeConditional gi n, 2), (.nodeLoop gi n, 3), (.nodeSwitch gi n, 4)] → (k = 3 → on = false) →
         s.nodeDue gi n k = some (g, v, w, on) →
         (s.nodeWord g.part (condAddr g v w) = .error none → exec i s = .next s)
         ∧ ∀ u, s.nodeWord g.part (condAddr g v w) = .error (some u) → ∃ t, exec i s = .next t ∧ nodeRan s t gi n (.failed 0x50) fun _ => false)
     ∧ (∀ l x u, s.nodeWord g.part (condAddr g v w) = .ok (l, x, u) →
       (s.nodeDue gi n 2 = some (g, v, w, on) → ∃ t, exec (.nodeConditional gi n) s = .next t ∧ sameMem s t
         ∧ nodeRan s t gi n .resolved fun y => decide (y = if x ≠ 0 then 1 else 0))
       ∧ (s.nodeDue gi n 4 = some (g, v, w, on) → ∃ t, exec (.nodeSwitch gi n) s = .next t ∧ sameMem s t
         ∧ ((∃ e, e ∈ v.edges ∧ eFrom e = n ∧ eLabel e = x.toNat % 256) → nodeRan s t gi n .resolved fun y => decide (y = x.toNat % 256))
         ∧ ((∀ e, e ∈ v.edges → eFrom e = n → eLabel e ≠ x.toNat % 256) → nodeRan s t gi n .resolved fun y => decide (y = 255)))
       ∧ (s.nodeDue gi n 3 = some (g, v, w, false) → ∃ t, exec (.nodeLoop gi n) s = .next t ∧ sameMem s t
         ∧ (x = 0 ∨ nMaxit w = 0 → nodeRan s t gi n .resolved fun _ => true)
         ∧ (x ≠ 0 → 0 < nMaxit w → n < nFirst w → ∃ h, t.gi gi = some h ∧ h.st n = .running ∧ (n, 1) ∈ h.trips
             ∧ ∀ j, nFirst w ≤ j → j ≤ nLast w → j < v.nodes.length → h.st j = .waiting)))))
  ∧ (∀ (s : State) (gi n : Nat) (g : GraphInst) (v : GraphVer) (w : Rec8) (on : Bool), quiet s → g.fits v → v.bad = false →
       (s.nodeDue gi n 5 = some (g, v, w, on) →
         (∀ k id x, g.st (nSrc w) = .resolved → (g.insts.find? fun i => i.1 = nSrc w) = some (k, id) → s.inst id = some x →
           (x.ended = true → x.bkQueued = x.bkReported → ∃ t, exec (.nodeBankCompletion gi n) s = .next t ∧ nodeRan s t gi n .resolved fun _ => true)
           ∧ (x.ended = false ∨ x.bkQueued ≠ x.bkReported → exec (.nodeBankCompletion gi n) s = .next s))
         ∧ (∀ e k id x, g.st (nSrc w) = .failed e → (g.insts.find? fun i => i.1 = nSrc w) = some (k, id) → s.inst id = some x → x.ended = true →
             x.bkQueued = x.bkReported → ∃ t, exec (.nodeBankCompletion gi n) s = .next t ∧ nodeRan s t gi n (.failed 0x30) fun _ => false)
         ∧ (g.st (nSrc w) = .skipped → ∃ t, exec (.nodeBankCompletion gi n) s = .next t ∧ nodeRan s t gi n (.failed 0x30) fun _ => false))
       ∧ (s.nodeDue gi n 6 = some (g, v, w, false) → ∀ l x u, s.nodeWord g.part w[1].toNat = .ok (l, x, u) →
         (w[2].toNat ≤ x.toNat → ∃ t, exec (.nodeCollectiveCompletion gi n) s = .next t ∧ nodeRan s t gi n .resolved fun _ => true)
         ∧ (x.toNat < w[2].toNat → ∃ t h, exec (.nodeCollectiveCompletion gi n) s = .next t ∧ t.gi gi = some h ∧ h.st n = .running
             ∧ (n, l, x, false) ∈ h.regs ∧ sameMem s t))
       ∧ (s.nodeDue gi n 6 = some (g, v, w, true) → ∀ m l x bad, (g.regs.find? fun r => r.1 = n) = some (m, l, x, bad) →
         (bad = true → ∃ t, exec (.nodeCollectiveCompletion gi n) s = .next t ∧ nodeRan s t gi n (.failed 0x50) fun _ => false)
         ∧ (bad = false → w[2].toNat ≤ x.toNat → ∃ t, exec (.nodeCollectiveCompletion gi n) s = .next t ∧ nodeRan s t gi n .resolved fun _ => true)
         ∧ (bad = false → x.toNat < w[2].toNat → exec (.nodeCollectiveCompletion gi n) s = .next s))
       ∧ (s.nodeDue gi n 8 = some (g, v, w, on) → (s.mgmtUp = false → exec (.nodeHostSignal gi n) s = .next s)
         ∧ (fld s.boot 60 4 ≠ 4 → exec (.nodeHostSignal gi n) s = .next s)
         ∧ (s.mgmtUp = true → fld s.boot 60 4 = 4 → ∃ t, exec (.nodeHostSignal gi n) s = .next t ∧ nodeRan s t gi n .resolved (fun _ => true)
             ∧ t.outbox = s.outbox ++ [⟨4, 0, 0, w[1], g.serial.setWidth 64, []⟩] ∧ sameMem s t)))

/-- R536, R537: a storage-transfer node reads its descriptor: a malformed one ends with code 1 and a target that is not UP with code 2;
else the transfer runs as commands of 128 KiB, the Read commands of one from storage leaving at once, each of which moves its bytes,
and the node settles after the last. -/
def Obligations.StorageTransfers : Prop :=
  (∀ (s : State) (gi n : Nat) (g : GraphInst) (v : GraphVer) (w : Rec8) (l : List W64) (d : Rec8) (t0 : W64), quiet s → g.fits v → v.bad = false →
    s.nodeDue gi n 7 = some (g, v, w, false) → (s.touch g.part permR w[1].toNat 64).ksWords g.part w[1].toNat 8 1 = .ok l → d = vecOf 8 (wd l) → t0 = vget s.stgt (fld d[0] 58 4) 0 →
    (xferMalformed d (fld t0 48 8) = true → fld d[3] 0 52 = 0 → ∃ t, exec (.nodeStorageTransfer gi n) s = .next t
      ∧ nodeRan s t gi n (.failed 0x41) fun _ => false)
    ∧ (xferMalformed d (fld t0 48 8) = false → t0.getLsbD 63 = false → fld d[3] 0 52 = 0 → ∃ t, exec (.nodeStorageTransfer gi n) s = .next t
      ∧ nodeRan s t gi n (.failed 0x42) fun _ => false)
    ∧ (xferMalformed d (fld t0 48 8) = false → t0.getLsbD 63 = true → ∃ t x h, exec (.nodeStorageTransfer gi n) s = .next t ∧ t.xfers = s.xfers ++ [x]
      ∧ (fld d[0] 62 2 ≠ 1 → t.nvmeAsk = s.nvmeAsk)
      ∧ (fld d[0] 62 2 = 1 → t.nvmeAsk = s.nvmeAsk ++ x.left.map fun c => (fld d[0] 58 4, d[1].toNat + c * (131072 / 2 ^ fld t0 48 8),
          Nat.min (131072 / 2 ^ fld t0 48 8) (fld d[2] 0 21 - c * (131072 / 2 ^ fld t0 48 8))))
      ∧ x.gi = gi ∧ x.node = n ∧ x.desc = d ∧ x.code = 0 ∧ t.gi gi = some h ∧ h.st n = .running ∧ sameMem s t
      ∧ ∀ c, c ∈ x.left ↔ 131072 * c < fld d[2] 0 21 * 2 ^ fld t0 48 8))
  ∧ ∀ (s u : State) (cmd : Nat) (status : BitVec 16) (data : List (BitVec 8)) (x : Xfer) (g : GraphInst) (v : GraphVer) (sn : Snap),
    s.xfers = [x] → quiet { s with xfers := [] } → s.mem.wf = true → cmd ∈ x.left → s.gi x.gi = some g → s.gver g = some v → g.fits v →
    x.node < v.nodes.length → x.spoiled = [] → x.code = 0 → fld x.desc[3] 0 52 = 0 → status = 0 →
    let tgt := fld x.desc[0] 58 4
    let lbas := fld (vget s.stgt tgt 0) 48 8
    let va := fld x.desc[0] 0 52 + cmd * 131072
    let len := Nat.min 131072 (fld x.desc[2] 0 21 * 2 ^ lbas - cmd * 131072)
    let goesOn (t : State) : Prop := (∀ c, c ∈ x.left → c = cmd) ∧ nodeRan s t x.gi x.node .resolved (fun _ => true) ∧ t.xfers = []
      ∨ (∃ c, c ∈ x.left ∧ c ≠ cmd) ∧ t.xfers = [{ x with left := x.left.filter (· ≠ cmd) }]
    (fld x.desc[0] 62 2 ≠ 1 → { s with xfers := [] }.ioReach g.part permR va len = .ok (sn, u) → s.markedV sn va len = none →
      ∃ t b, exec (.nvmeCommandEnd 0 cmd status data) s = .next t ∧ goesOn t ∧ sameMem s t ∧ b.length = len
        ∧ t.nvmeOut = s.nvmeOut ++ [(tgt, x.desc[1].toNat + cmd * (131072 / 2 ^ lbas), b)]
        ∧ ∀ i, i < len → nth b i 0 = nth (s.rdV sn va len) i 0)
    ∧ (fld x.desc[0] 62 2 = 1 → { s with xfers := [] }.ioReach g.part permW va len = .ok (sn, u) → va % 65536 + len ≤ 65536 → sn.place va + len ≤ 2 ^ 40 →
      data.length = len → ∃ t, exec (.nvmeCommandEnd 0 cmd status data) s = .next t ∧ goesOn t ∧ t.nvmeOut = s.nvmeOut
        ∧ (∀ i, i < len → t.mem.get (sn.place va + i) = nth data i 0)
        ∧ ∀ l, l < sn.place va ∨ sn.place va + len ≤ l → t.mem.get l = s.mem.get l)

/-! ## Slots, gangs and scheduling -/

/-- R467, R468: a bind record enters a FREE slot, FREE leaves a bound one, PREEMPT stops every core of a running gang, KILL frees all its
slots and saves nothing; anything else, the value that STATE holds among it, is ignored and reported to hart 2, under the identity of
what the slot is bound to and of nothing where it is FREE (R504). A write to W0 sets its writable fields with the change of STATE that
it asks for. That a refused write sets none of them is the model's reading (log 79), and that a KILL ends the instance with END 4 and
ERR 0 for the whole gang its choice (log 49). -/
def Obligations.SlotTable : Prop :=
  ∀ (s : State) (c : Nat) (w0 w1 w2 w3 w4 w5 w6 : W64), c < 480 →
    let who : W64 := if s.slotState c = 0 then 0 else eventWho (fld (s.slot c).w1 32 32) (fld (s.slot c).w2 32 15) (fld (s.slot c).w0 28 4)
    let u := s.postEventH 8 11 (s.headerOf 8 11 (if s.slotState c = 0 then 0 else fld (s.slot c).w6 0 3) (some c) who) []
    let gone (i : Instr) : Prop := exec i s = .next u ∧ u.slots = s.slots
    (s.slotState c = 0 → fld w0 61 3 = 1 → ∃ t, exec (.slotBind c w0 w1 w2 w3 w4 w5 w6) s = .next t ∧ t = { s with slots := t.slots }
      ∧ t.slotState c = 1 ∧ (∀ b n, (b, n) ∈ [(60, 1), (32, 16), (28, 4), (24, 4)] → fld (t.slot c).w0 b n = fld w0 b n) ∧ (t.slot c).w1 = w1
      ∧ (t.slot c).w3.toNat = fld w3 0 52 ∧ (t.slot c).w4.toNat = fld w4 0 52 ∧ (t.slot c).w5.toNat = fld w5 0 52 ∧ (t.slot c).w6.toNat = fld w6 0 3
      ∧ ∀ d, d ≠ c → t.slot d = s.slot d)
    ∧ (s.slotState c ≠ 0 ∨ fld w0 61 3 ≠ 1 → gone (.slotBind c w0 w1 w2 w3 w4 w5 w6))
    ∧ (s.slotState c = 1 → ∃ t, exec (.slotFree c) s = .next t ∧ t = { s with slots := t.slots } ∧ t.slotState c = 0
      ∧ (t.slot c).w1 = (s.slot c).w1 ∧ ∀ d, d ≠ c → t.slot d = s.slot d)
    ∧ (s.slotState c ≠ 1 → gone (.slotFree c))
    ∧ ((s.slotState c, fld w0 61 3) ∈ [(0, 1), (1, 0)] → exec (.registerWrite ⟨false, 8, BitVec.ofNat 64 (0x200000 + 0x40 * c)⟩ w0) s =
        .next { s with slots := vset s.slots c ((s.slot c).keep { s.slot c with w0 := w0 }) })
    ∧ ((s.slotState c, fld w0 61 3) ∉ [(0, 1), (1, 0), (2, 3), (2, 4), (5, 4)] →
        gone (.registerWrite ⟨false, 8, BitVec.ofNat 64 (0x200000 + 0x40 * c)⟩ w0))
    ∧ (s.slotState c ≠ 2 ∨ (s.core c).gangUid = none → gone (.slotPreempt c))
    ∧ ((s.slotState c ≠ 2 ∧ s.slotState c ≠ 5) ∨ (s.core c).gangUid = none → gone (.slotKill c))
    ∧ ∀ u g, (s.core c).gangUid = some u → (s.gangs.find? fun g => g.uid = u) = some g → (∀ d, d ∈ g.cores → d < 480) →
      (s.slotState c = 2 → g.st = .bound → (∀ d, d ∈ g.cores → s.slotState d = 2) → ∃ t h, exec (.slotPreempt c) s = .next t
        ∧ (∀ d, d ∈ g.cores → t.slotState d = 5 ∧ ((s.core d).done = false → (t.core d).preempt = true))
        ∧ (t.gangs.find? fun g => g.uid = u) = some h ∧ h = { g with st := .preempting, reqAt := s.time, overrun := false }
        ∧ (∀ d, d ∉ g.cores → t.core d = s.core d ∧ t.slot d = s.slot d) ∧ sameMem s t)
      ∧ (s.slotState c = 2 ∨ s.slotState c = 5 → ∀ i, s.inst g.inst = some i → i.ending = none → ∃ t h j, exec (.slotKill c) s = .next t
        ∧ (∀ d, d ∈ g.cores → t.slotState d = 0 ∧ ((s.core d).gangUid = some u → (t.core d).gangUid = none))
        ∧ (t.gangs.find? fun g => g.uid = u) = some h ∧ h.st = .done ∧ h.cores = [] ∧ t.inst g.inst = some j ∧ j.ending = some (4, 0))

/-- R31, R35, R81, R468, R470, R471: when every slot of a gang holds its bind record, its cores start in rank order: identifiers, walkers
at the entry with k1-k8 of the launch record, every queue and register empty, the scratchpad zero; a resumed core gets back its
context. -/
def Obligations.GangsStart : Prop :=
  ∀ (s u : State) (c : Nat) (cs : List Nat) (g : Gang), c < 480 → s.mem.wf = true → s.ue = [] → (∀ ps, s.nmHits ps = []) → s.slotGroup c = some cs →
    s.groupGang c cs = (g, u) →
    ((s.slot c).w0.getLsbD 60 = false → u.slotChecks g false = .ok → ∀ i, s.inst g.inst = some i →
      ∃ t, exec (.gangStart c) s = .next t ∧ ∀ (r d : Nat), cs[r]? = some d →
        let k := t.core d
        t.slotState d = 2 ∧ k.gangUid = some g.uid ∧ k.part = fld (s.slot d).w6 0 3 ∧ k.id.core.toNat = r ∧ k.id.gsize.toNat = cs.length
        ∧ k.id.gang.toNat = fld (s.slot d).w2 32 15 ∧ k.id.ngang.toNat = fld (s.slot d).w2 0 16 ∧ k.id.die.toNat = d / 60 ∧ k.id.cluster.toNat = d / 12 % 5
        ∧ fld k.id.inst 32 32 = fld (s.slot d).w1 32 32
        ∧ (∀ w, (k.wk w).run = .running ∧ (k.wk w).walk = 0 ∧ (k.wk w).loops = [] ∧ (k.wk w).calls = []
            ∧ (k.wk w).pc = BitVec.ofNat 52 (fld (s.slot d).w4 0 52 + fld (vget i.image 1 0) 0 32 + fld (vget i.image 2 0) 32 32)
            ∧ ∀ j, j < 16 → vget (k.wk w).k j 0 = if 1 ≤ j ∧ j ≤ 8 then vget i.lrec (7 + j) 0 else 0)
        ∧ (∀ j, j < 32 → vget k.a j 0 = 0) ∧ (∀ j, j < 16 → vget k.s j 0 = 0) ∧ (∀ j, j < 64 → vget k.g j ⟨0, false⟩ = ⟨0, false⟩ ∧ (k.tile j).defd = false)
        ∧ k.lq = [] ∧ k.sq = [] ∧ k.aq = [] ∧ k.bq = [] ∧ k.kq = [] ∧ k.slip = 64 ∧ k.dscale = 0x3F800000 ∧ k.srkey = vget i.lrec 3 0
        ∧ ∀ o, o < spadSize → t.mem.get (spadPlace d o) = 0)
    ∧ ((s.slot c).w0.getLsbD 60 = true → cs = [c] → u.slotChecks g true = .ok → g.uid < 2 ^ 30 → ∀ (k : Core) (n : Nat) (sn : Snap) (u2 : State),
      (s.saved.find? fun e => e.1 = g.uid && e.2.1 = 0) = some (g.uid, n, k) →
      u.ioReach (fld (s.slot c).w6 0 3) permRW (fld (s.slot c).w3 0 52) areaSize = .ok (sn, u2) → sn.place (fld (s.slot c).w3 0 52) + 8 ≤ 2 ^ 40 →
      ∃ t, exec (.gangStart c) s = .next t ∧ t.slotState c = 2 ∧ (t.core c).gangUid = some g.uid ∧ (t.core c).id.core = 0
        ∧ (t.core c).a = k.a ∧ (t.core c).s = k.s ∧ (t.core c).g = k.g ∧ (t.core c).v = k.v ∧ (t.core c).lq = k.lq ∧ (t.core c).sq = k.sq
        ∧ (t.core c).tiles = k.tiles ∧ ((∀ n, n < 16 → (vget k.chans n .reset).state ≠ .active) → (t.core c).chans = k.chans)
        ∧ (∀ n, n < 16 → ∃ rs, vget (t.core c).chans n .reset = { vget k.chans n .reset with raced := rs ++ (vget k.chans n .reset).raced })
        ∧ (∀ w, ((t.core c).wk w).k = (k.wk w).k ∧ ((t.core c).wk w).loops = (k.wk w).loops
            ∧ ((k.wk w).run = .held → ((t.core c).wk w).run = .running ∧ ((t.core c).wk w).pc = (k.wk w).pc ∧ ((t.core c).wk w).walk = (k.wk w).walk))
        ∧ (∀ o, o < spadSize → t.mem.get (spadPlace c o) = s.mem.get (savedPlace g.uid 0 o)) ∧ ∀ e, e ∈ t.saved → e.1 ≠ g.uid)

/-- R469, R470, R472, R466: once every core of a pre-empted gang stands still, its contexts are saved, its slots are FREE and it waits
again, each of its areas having one save more; a save that fails takes its fault domain down, and one whose page is held waits. -/
def Obligations.GangsSaved : Prop :=
  ∀ (s : State) (c : Nat) (g : Gang), c < 480 → (s.gangs.find? fun g => g.st == .preempting && g.cores.contains c) = some g →
    (s.gangs.map Gang.uid).Nodup → g.cores.Nodup → (∀ d, d ∈ g.cores → d < 480) →
    ((∃ d, d ∈ g.cores ∧ (s.core d).saveReady = false) → ∀ b, exec (.saveComplete c b) s = .next s)
    ∧ ((∀ d, d ∈ g.cores → (s.core d).saveReady = true) →
      (∀ u, State.saveRanks g (s.core c).part (BitVec.ofNat 32 (fld (s.core c).id.inst 32 32)) g.cores 0 s = .ok u →
        ∃ t h, exec (.saveComplete c false) s = .next t ∧ (t.gangs.find? fun h => h.uid = g.uid) = some h ∧ h.st = .saved ∧ h.cores = []
          ∧ h.saves = g.saves ∧ h.nsave = g.nsave + 1 ∧ h.readySeq = 0 ∧ ∀ (r d : Nat), g.cores[r]? = some d →
            t.slotState d = 0 ∧ (t.core d).gangUid = none ∧ (g.uid, r, (s.core d).context) ∈ t.saved
            ∧ ∀ i, s.inst g.inst = some i → g.saves.Nodup → g.saves.length = g.cores.length → ∃ j, t.inst g.inst = some j
              ∧ j.savesInto (nth g.saves r 0) = i.savesInto (nth g.saves r 0) + 1)
      ∧ (State.saveRanks g (s.core c).part (BitVec.ofNat 32 (fld (s.core c).id.inst 32 32)) g.cores 0 s = .error none →
          exec (.saveComplete c false) s = .next s)
      ∧ (∀ i f, s.inst g.inst = some i → i.fdom < 256 → State.saveRanks g (s.core c).part (BitVec.ofNat 32 (fld (s.core c).id.inst 32 32)) g.cores 0 s = .error (some f) →
          ∃ t, exec (.saveComplete c false) s = .next t ∧ t.domFailed i.fdom = true)
      ∧ (∀ i, s.inst g.inst = some i → i.fdom < 256 → ∃ t, exec (.saveComplete c true) s = .next t ∧ t.domFailed i.fdom = true))

/-- R464, R465, R466: every tick counts for each queue below level 7 that holds a gang left unbound since the tick before, and raises its
effective level at AGE_TH; the first head that binds takes free cores of one cluster for a gang that is not co-resident; where a head
waits for a cap or for carve-out, the gangs behind it may bind, and where it waits for anything else those of other queues may (log
103); a head that lacks cores has gangs of a lower effective level pre-empted in one cluster, that of the first victim in the order: a
gang that runs stops, and one that is bound and has not started leaves its slots; one for which no pre-emption can free cores has no
cluster chosen. That the order of victims decides between clusters too is the model's reading (log 61). R446, R469, R512: a pre-emption
that outlasts its region's deadline is counted and reported once. -/
def Obligations.QueuesOfGangs : Prop :=
  (∀ (s : State) (part : Nat), part < 8 →
     (∃ t, exec (.ageingTick part) s = .next t ∧ t = { s with readyQ := t.readyQ } ∧ (∀ p lv, p ≠ part → t.readyOf p lv = s.readyOf p lv)
       ∧ ∀ lv, lv < 8 →
         let q := s.readyOf part lv
         let q' := t.readyOf part lv
         let th := fld (vget s.sched part 0) 0 16
         let waits := ∃ g, g ∈ s.queued part lv ∧ g.boundSeq ≤ q.tick
         (lv = 7 ∨ th = 0 ∨ ¬ waits → q'.eff = q.eff ∧ q'.count = q.count)
         ∧ (lv ≠ 7 → th ≠ 0 → waits → (q.count + 1 < th → q'.eff = q.eff ∧ q'.count = q.count + 1)
             ∧ (th ≤ q.count + 1 → q'.count = 0 ∧ q'.eff = if q.eff < 6 then q.eff + 1 else q.eff)))
     ∧ (∀ lv r g gr i t, s.levels part = lv :: r → s.queued part lv = g :: gr → s.inst g.inst = some i → i.whole = false → s.tryGang g [] = .bound t →
         exec (.gangBind part) s = .next t ∧ ∃ h, (t.gangs.find? fun h => h.uid = g.uid) = some h ∧ h.st = .bound ∧ h.cores.length = i.gsize
           ∧ (∃ cl, ∀ c, c ∈ h.cores → c / 12 = cl) ∧ ∀ c, c ∈ h.cores → s.slotState c = 0 ∧ t.slotState c = 1)
     ∧ (∀ lv r g h gr t, s.levels part = lv :: r → s.queued part lv = g :: h :: gr → s.tryGang g [] = .capped → s.tryGang h [] = .bound t →
         exec (.gangBind part) s = .next t)
     ∧ (∀ lv l2 r g h gr hr t, s.levels part = lv :: l2 :: r → s.queued part lv = g :: gr → s.queued part l2 = h :: hr → s.tryGang g [] = .held →
         s.tryGang h [] = .bound t → exec (.gangBind part) s = .next t)
     ∧ (∀ g kept i c, gangsApart s → ((State.bindGo (s.levels part) s part []).2.find? fun e => !s.wantHolds e.1) = some (g, kept) →
         s.inst g.inst = some i → s.chainOf i.part i.region = .ok c → s.clearings part g i c kept = [] →
         ∃ t h, exec (.preemptSelect part) s = .next t ∧ (t.gangs.find? fun h => h.uid = g.uid) = some h ∧ h.want = none)
     ∧ (∀ g kept i c, gangsApart s → ((State.bindGo (s.levels part) s part []).2.find? fun e => !s.wantHolds e.1) = some (g, kept) →
         s.inst g.inst = some i → s.chainOf i.part i.region = .ok c → s.clearings part g i c kept ≠ [] →
         ∃ t cl v h, exec (.preemptSelect part) s = .next t ∧ (cl, v) ∈ s.clearings part g i c kept
           ∧ (∀ o a b, o ∈ s.clearings part g i c kept → o.2.head? = some a → v.head? = some b → s.sooner part b a = true)
           ∧ (t.gangs.find? fun h => h.uid = g.uid) = some h ∧ h.want = some cl
           ∧ ∀ x, x ∈ v → ∃ y, y ∈ t.gangs ∧ y.uid = x.uid ∧ ((∀ d, d ∈ x.cores → s.slotState d = 2) → y.st = .preempting)
             ∧ ((∀ d, d ∈ x.cores → s.slotState d = 1) → y.st = (if x.nsave = 0 then .ready else .saved) ∧ y.cores = [])))
  ∧ (∀ (s : State) (core : Nat) (g : Gang) (i : Inst) (c : Chain), core < 480 → i.part < 8 →
       (s.gangs.find? fun g => g.st == .preempting && g.cores.contains core) = some g → s.inst g.inst = some i → s.chainOf i.part i.region = .ok c →
       (g.overrun = true ∨ effective c 8 = 0 ∨ (s.time - g.reqAt).toNat ≤ 1000 * effective c 8 → exec (.deadlineOverrun core) s = .next s)
       ∧ (g.overrun = false → effective c 8 ≠ 0 → 1000 * effective c 8 < (s.time - g.reqAt).toNat →
         ∃ t h, exec (.deadlineOverrun core) s = .next t ∧ (vget t.evq i.part .none0).seq = (vget s.evq i.part .none0).seq + 1
           ∧ fld (vget t.sched i.part 0) 48 16 = Nat.min (fld (vget s.sched i.part 0) 48 16 + 1) 0xFFFF
           ∧ fld (vget t.sched i.part 0) 0 16 = fld (vget s.sched i.part 0) 0 16
           ∧ (t.gangs.find? fun h => h.uid = g.uid) = some h ∧ h.overrun = true ∧ t.cores = s.cores))

/-! ## Partitions, translation contexts and pages -/

/-- R439, R440, R451, R473: a register of an invalid partition takes a write; VALID is set only when the checks pass, else ERR is; a fault
domain's bit clears once none of its terminations is under way; a translation context keeps its fields, and ROOT in force stays until a
shootdown. -/
def Obligations.PartitionWrites : Prop :=
  ∀ (s : State) (n w : Nat) (data : W64),
    let p := s.part n
    (n < 8 → p.valid = false →
      (∃ t, exec (.partWrite n 1 data) s = .next t ∧ t = { s with parts := vset s.parts n { p with w1 := BitVec.ofNat 64 (fld data 0 44) } })
      ∧ (data.getLsbD 63 = false → ∃ t, exec (.partWrite n 0 data) s = .next t ∧ t = { s with parts := t.parts }
          ∧ fld (t.part n).w0 0 8 = fld data 0 8 ∧ fld (t.part n).w0 32 16 = fld data 32 16 ∧ (t.part n).valid = false
          ∧ ((t.part n).w0.getLsbD 62 = (p.w0.getLsbD 62 && !data.getLsbD 62)) ∧ ∀ m, m ≠ n → t.part m = s.part m)
      ∧ (∀ w0, w0 = BitVec.ofNat 64 (2 ^ 63 + fld data 32 16 * 2 ^ 32 + fld data 0 8) → data.getLsbD 63 = true → data.getLsbD 62 = true →
          (s.partValidOk n w0 p.w1 p.w2 = .ok false → exec (.partWrite n 0 data) s = .next { s with parts := vset s.parts n { p with w0 := p.w0 ||| (1 <<< 62) } })
          ∧ (s.partValidOk n w0 p.w1 p.w2 = .error .edit → exec (.partWrite n 0 data) s = .next { s with retry := true })
          ∧ (s.partValidOk n w0 p.w1 p.w2 = .ok true → ∀ l, s.rcb (fld p.w1 0 44) = .ok l → s.cant = [] → s.excess = [] →
              exec (.partWrite n 0 data) s = .next { s with parts := vset s.parts n { p with w0 := w0, cant := wd l 4 } })))
    ∧ (n < 4 → ∃ t, exec (.fdstatClear n data) s = .next t ∧ ∀ i, i < 64 → (vget t.fdstat n 0).getLsbD i =
        ((vget s.fdstat n 0).getLsbD i && (s.domEnding (64 * n + i) || !((vget s.fdclr n 0).getLsbD i || data.getLsbD i))))
    ∧ (n < 8 → w < 4 → ∃ t, exec (.xlWrite n w data) s = .next t ∧ t = { s with xl := vset s.xl n (t.xlOf n) } ∧ (t.xlOf n).root = (s.xlOf n).root
        ∧ (t.xlOf n).w0 = (if w = 0 then BitVec.ofNat 64 (b2n (data.getLsbD 63) * 2 ^ 63 + fld data 16 28 * 2 ^ 16) else (s.xlOf n).w0)
        ∧ (t.xlOf n).w1 = (if w = 1 then BitVec.ofNat 64 (fld data 52 12 * 2 ^ 52 + fld data 5 39 * 2 ^ 5) else (s.xlOf n).w1)
        ∧ (t.xlOf n).w2 = (if w = 2 then BitVec.ofNat 64 (fld data 3 41 * 2 ^ 3) else (s.xlOf n).w2)
        ∧ (t.xlOf n).w3 = (if w = 3 then BitVec.ofNat 64 (fld data 0 32) else (s.xlOf n).w3))

/-- R473, R484-R486: GO starts a shootdown of the pages that SHOOT names, or of the whole space; while one runs GO sets ERR; PART and VA
are set by every write (R10). Completion drops the entries of the range and every table entry of the partition, and no other, and puts
a new ROOT in force when the whole space went. That a registration of AWAIT or CWAIT through a dropped leaf ends, and is made anew by
the wait, is the model's choice (log 97). -/
def Obligations.Shootdowns : Prop :=
  ∀ (s : State) (w0 : W64),
    let fields (t : State) : Prop := fld t.shootW0 59 3 = fld w0 59 3 ∧ fld t.shootW0 16 36 = fld w0 16 36
    (s.shoot.isSome = true → ∃ t, exec (.shootdownStart w0) s = .next t ∧ t = { s with shootW0 := t.shootW0 } ∧ fields t ∧ t.shootW0.getLsbD 58 = true)
    ∧ (s.shoot = none → ∃ t h, exec (.shootdownStart w0) s = .next t ∧ t = { s with shoot := some h, shootW0 := t.shootW0 } ∧ fields t
        ∧ t.shootW0.getLsbD 58 = (s.shootW0.getLsbD 58 && !w0.getLsbD 58) ∧ h.part = fld w0 59 3
        ∧ (fld s.shootW1 0 36 = 0 → h.lo = 0 ∧ h.hi = 0xE * 2 ^ 48 ∧ h.root = some (BitVec.ofNat 28 (fld (s.xlOf h.part).w0 16 28)))
        ∧ (fld s.shootW1 0 36 ≠ 0 → h.lo = fld w0 16 36 * 2 ^ 16 ∧ h.hi = h.lo + fld s.shootW1 0 36 * 2 ^ 16))
    ∧ (s.shoot = none → exec .shootdownComplete s = .next s)
    ∧ ∀ h, s.shoot = some h → (s.shootWaits h = true → exec .shootdownComplete s = .next s)
      ∧ (s.shootWaits h = false → ∃ t, exec .shootdownComplete s = .next t ∧ t.shoot = none ∧ sameMem s t
        ∧ (∀ j, j < 480 → (s.core j).part ≠ h.part → t.core j = s.core j)
        ∧ (∀ j w, j < 480 → (s.core j).part = h.part → (t.core j).wk w = { (s.core j).wk w with await := ((t.core j).wk w).await }
            ∧ ∀ r, ((t.core j).wk w).await = some r ↔ ((s.core j).wk w).await = some r
                ∧ ∀ p ∈ s.shootSpans h, p.2 ≤ r.va.toNat ∨ r.va.toNat + r.size ≤ p.1)
        ∧ (∀ e, e ∈ t.tlb ↔ e ∈ s.tlb ∧ (e.part ≠ h.part ∨ (∀ d, e.unit ≠ .walkCache d) ∧ (h.hi ≤ e.vbase ∨ e.vbase + lvSpan e.level ≤ h.lo)))
        ∧ (∀ p, p ≠ h.part → t.xlOf p = s.xlOf p)
        ∧ (h.part < 8 → (t.xlOf h.part).root = (match h.root with
            | some r => r
            | none => (s.xlOf h.part).root)))

/-- R493-R501, R527: a page move is taken up by its OP, waits for a move of hart 3, is ignored during another, its fields being set all the
same (R10), or is refused with a STATUS; OP 5 drops the page's lines at once. The other moves end in MIGR_COMPLETE: the leaf is marked
and shot down, then the bytes are moved and the leaf rewritten. The order in which the STATUS checks stand, and STATUS 4 for a frame
that is not beside HDIE, are the model's choices (log 57), and so is what a GO during hart 3's move waits for and finds (log 82). R494,
R495, R500, R501, R525-R527: a move first marks its leaf and shoots its page down, once no pin is left on the frame, or ends with
STATUS 6 where the die it goes to has no room; when that is done, and no pin is left, the bytes stand in the new frame, the leaf names
it with MIG clear, and STATUS is 0; a cooling move off a hot stack takes a frame of its pool. -/
def Obligations.PageMigration : Prop :=
  (∀ (s : State) (w0 : W64),
     let op := fld s.migrW1 60 4
     let part := fld w0 53 3
     let va := fld w0 16 36 * 65536
     let tf := fld s.migrW2 16 28 * 65536
     let tdie := fld s.migrW1 56 3
     let status (t : State) (n : Nat) : Prop := fld t.migrW0 56 6 = n ∧ t.migr = none ∧ fld t.migrW0 62 1 = 0
     let takes (t : State) (l : Leaf) (o f d : Nat) : Prop := fld t.migrW0 62 1 = 1
       ∧ t.migr = some ⟨part, va / lvSpan l.level * lvSpan l.level, BitVec.ofNat 4 o, f, d, l.at', l.level, l.pte, false, false⟩
     let fields (t : State) : Prop := fld t.migrW0 53 3 = part ∧ fld t.migrW0 16 36 * 65536 = va ∧ fld t.migrW0 56 7 = fld s.migrW0 56 7
     ∀ i k, (i, k) ∈ [(Instr.migrMoveFrame w0, 1), (.migrMoveCant w0, 2), (.migrEvictCant w0, 3), (.migrBackCant w0, 4), (.migrDropCant w0, 5)] →
       (op ≠ k → exec i s = .next s)
       ∧ (op = k → s.migr.isSome = true → s.hart3Moves = false → ∃ t, exec i s = .next t ∧ t = { s with migrW0 := t.migrW0 } ∧ fields t)
       ∧ (op = k → s.hart3Moves = true → ∃ t, exec i s = .next t ∧ t = { s with migrW0 := t.migrW0, migrWait := true } ∧ fields t)
       ∧ (op = k → s.migr = none → s.excess = [] → fld (s.xlOf part).w1 52 12 = 0 → s.mem.wf = true →
         (k ≠ 5 → ∀ e, s.leafAt part va = .error e → ∃ t, exec i s = .next t ∧ status t 1 ∧ sameMem s t)
         ∧ (k = 5 → ∃ t, exec i s = .next t ∧ status t 0 ∧ (∀ c, c ∈ t.cant ↔ c ∈ s.cant ∧ lineIn part (va / 2 ^ 21 * 2 ^ 21) c.1 = false)
           ∧ ∀ l, t.mem.get l = if cantPlace part (va / 2 ^ 21 * 2 ^ 21) ≤ l ∧ l < cantPlace part (va / 2 ^ 21 * 2 ^ 21) + 2 ^ 21 then 0 else s.mem.get l)
         ∧ ∀ l, s.leafAt part va = .ok l →
           (k ≠ 5 → l.pin = true ∨ (k = 1 ∧ (l.cant = true ∨ l.repl = true)) ∨ (k ≠ 1 ∧ l.cant = false) → ∃ t, exec i s = .next t ∧ status t 3 ∧ sameMem s t)
           ∧ (k = 1 → l.pin = false → l.cant = false → l.repl = false → l.bn = false →
             (tf % lvSpan l.level = 0 → tf < 2 ^ 40 → ∃ t, exec i s = .next t ∧ takes t l 1 tf tdie ∧ sameMem s t)
             ∧ (tf % lvSpan l.level ≠ 0 ∨ 2 ^ 40 ≤ tf → ∃ t, exec i s = .next t ∧ status t 4 ∧ sameMem s t))
           ∧ (k = 2 → l.pin = false → l.cant = true → (tdie ∉ s.partDies part → ∃ t, exec i s = .next t ∧ status t 2 ∧ sameMem s t)
             ∧ (tdie ∈ s.partDies part → s.migrW1.getLsbD 59 = true → tdie = l.hdie → ∃ t, exec i s = .next t ∧ takes t l 2 0 tdie ∧ sameMem s t))
           ∧ (k = 3 → l.pin = false → l.cant = true → (l.late = false → ∃ t, exec i s = .next t ∧ status t 5)
             ∧ (l.late = true → ∀ f u, s.takeLate part l.hdie none = some (f, u) → ∃ t, exec i s = .next t ∧ takes t l 4 f l.hdie ∧ t.mem = u.mem))
           ∧ (k = 4 → l.pin = false → l.cant = true → (tf % 2 ^ 21 = 0 → besideDie l.hdie tf = true → ∃ t, exec i s = .next t ∧ takes t l 4 tf tdie ∧ sameMem s t)
             ∧ (tf % 2 ^ 21 ≠ 0 ∨ besideDie l.hdie tf = false → ∃ t, exec i s = .next t ∧ status t 4 ∧ sameMem s t))))
  ∧ ((∀ s : State, s.migr = none → exec .migrComplete s = .next s)
     ∧ (∀ (s : State) (m : MigrSt), s.migr = some m → s.mem.wf = true →
       (s.shoot.isSome = true → exec .migrComplete s = .next s)
       ∧ (s.shoot = none → m.started = false → (m.op ≠ 1 ∨ ∀ i, i < lvSpan m.level / 65536 → s.pins (fld m.old 16 28 + i) = 0) →
         (m.op ≠ 2 ∨ m.tdie = fld m.old 44 3 ∨ s.dieHolds m.part m.va m.tdie = true) →
         m.part < 8 → m.va % 65536 = 0 → m.va < 2 ^ 52 → m.level ≤ 3 →
         ∃ t h, exec .migrComplete s = .next t ∧ t.rd64 m.pteAt = s.rd64 m.pteAt ||| (1 <<< 53) ∧ t.migr = some { m with started := true }
           ∧ t.shoot = some h ∧ h.part = m.part ∧ h.lo = m.va ∧ h.hi = m.va + lvSpan m.level
           ∧ fld t.shootW0 59 3 = m.part ∧ fld t.shootW0 16 36 * 65536 = m.va ∧ t.shootW1.toNat * 65536 = lvSpan m.level
           ∧ ∀ l, l < m.pteAt ∨ m.pteAt + 8 ≤ l → t.mem.get l = s.mem.get l)
       ∧ (s.shoot = none → m.op = 1 → (∃ i, i < lvSpan m.level / 65536 ∧ s.pins (fld m.old 16 28 + i) ≠ 0) → exec .migrComplete s = .next s)
       ∧ (s.shoot = none → m.started = false → m.op = 2 → m.tdie ≠ fld m.old 44 3 → s.dieHolds m.part m.va m.tdie = false → s.excess = [] →
         exec .migrComplete s = .next ({ s with migr := none }.migrStatus 6))
       ∧ (s.shoot = none → m.started = true → s.migrWait = false → s.excess = [] → m.op = 1 →
         (∀ i, i < lvSpan m.level / 65536 → s.pins (fld m.old 16 28 + i) = 0) → m.level ≤ 3 → m.frame % 65536 = 0 → m.frame < 2 ^ 40 →
         (m.pteAt + 8 ≤ m.frame ∨ m.frame + lvSpan m.level ≤ m.pteAt) →
         ∃ t, exec .migrComplete s = .next t ∧ t.migr = none ∧ fld t.migrW0 62 1 = 0 ∧ (m.hart3 = false → fld t.migrW0 56 6 = 0)
           ∧ fld (t.rd64 m.pteAt) 16 28 * 65536 = m.frame ∧ (t.rd64 m.pteAt).getLsbD 53 = false
           ∧ (∀ i, i < lvSpan m.level → t.mem.get (m.frame + i) = s.mem.get (fld m.old 16 28 * 65536 + i))
           ∧ ∀ l, (l < m.frame ∨ m.frame + lvSpan m.level ≤ l) → (l < m.pteAt ∨ m.pteAt + 8 ≤ l) → t.mem.get l = s.mem.get l))
     ∧ ∀ (s : State) (stack p va k f : Nat) (l : Leaf) (h : Hint), stack < 16 → s.migr = none →
       (s.stackMode = false ∨ (s.zone (stack / 2)).hot = false → exec (.hotPageMove stack) s = .next s)
       ∧ (s.stackMode = true → (s.zone (stack / 2)).hot = true → p < 8 → (∀ q, q < 8 → (s.hints q).2 = 0) → s.hotPage p stack = some (va, l, h) →
         (∀ q, q < 8 → q ≠ p → s.hotPage q stack = none) → s.mem.wf = true →
         s.poolPick (fld s.coolW0 3 41 * 8) (fld s.coolW1 0 32) (fun f => (h.targets (stack / 2)).any (fun t => onStack t f) && decide (f % lvSpan l.level = 0)) = some (k, f) →
         ∃ t m, exec (.hotPageMove stack) s = .next t ∧ t.migr = some m ∧ m.part = p ∧ m.va = va ∧ m.op = 1 ∧ m.frame = f ∧ m.pteAt = l.at' ∧ m.hart3 = true
           ∧ fld t.migrW0 62 1 = 1 ∧ (t.rd64 (fld s.coolW0 3 41 * 8 + 8 * k)).getLsbD 63 = false))

/-! ## Service, errors, power -/

/-- R508, R75, R142, R397, R450, R506: a service operation names a core and the SERIAL of its instance; it resumes stopped and halted
walkers (with their poison records freed), sets a halted channel going or idle, lets a held collective go on or end with code 5,
terminates or pre-empts; STATUS is 0, 1 where there is nothing to serve, 2 where the SERIAL is not that of the instance bound there, 3
for no collective slot. The abort as an empty link message, and STATUS 2 also for a collective that an earlier instance has issued, are
the model's choices (log 56). -/
def Obligations.ServiceOperations : Prop :=
  ∀ (s : State) (w0 : W64) (c n : Nat), c = fld w0 39 9 → n = fld w0 48 4 → c < 480 →
    let k := s.core c
    let ok := k.gangUid.isSome = true ∧ fld k.id.inst 32 32 = fld w0 0 32
    let ch := vget k.chans n .reset
    let only (t : State) (st : Nat) : Prop := t = { s with svc := t.svc } ∧ fld t.svc 56 6 = st
    let ends (t : State) (f : Core → Core) : Prop := fld t.svc 56 6 = 0 ∧ t.cores = (s.modCore c f).cores ∧ sameMem s t
    (¬ ok → ∀ i, i ∈ [Instr.svcResume w0, .svcChannelResume w0, .svcChannelIdle w0, .svcTerminate w0, .svcPreempt w0]
        ∨ n < 8 ∧ i ∈ [Instr.svcCollContinue w0, .svcCollAbort w0] → ∃ t, exec i s = .next t ∧ only t 2)
    ∧ (8 ≤ n → ∀ i, i ∈ [Instr.svcCollContinue w0, .svcCollAbort w0] → ∃ t, exec i s = .next t ∧ only t 3)
    ∧ (ok → (k.anyStopped = false → ∃ t, exec (.svcResume w0) s = .next t ∧ only t 1)
      ∧ (k.anyStopped = true → k.preempt = false → ∃ t, exec (.svcResume w0) s = .next t ∧ fld t.svc 56 6 = 0 ∧ sameMem s t
        ∧ (∀ d, d ≠ c → t.core d = s.core d)
        ∧ ∀ w, ((k.wk w).run = .stopped ∨ (k.wk w).run = .halted → (t.core c).wk w = { k.wk w with run := .running, stop := none, stalls := [], got := [] })
          ∧ ((k.wk w).run ≠ .stopped → (k.wk w).run ≠ .halted → (t.core c).wk w = k.wk w)
          ∧ ∀ i, (k.wk w).run = .stopped → (k.wk w).stop.bind poisonIdx = some i → i < 32 → vget (t.core c).dft i (0, 0) = (0, 0))
      ∧ (ch.state ≠ .halted → ∀ i, i ∈ [Instr.svcChannelResume w0, .svcChannelIdle w0] → ∃ t, exec i s = .next t ∧ only t 1)
      ∧ (ch.state = .halted → (∃ t, exec (.svcChannelResume w0) s = .next t ∧ fld t.svc 56 6 = 0 ∧ sameMem s t
            ∧ t.cores = ((s.modCore c fun k => { k with chans := vset k.chans n { ch with state := .active, written := [], underway := [] } }).chanMeets c n).cores)
          ∧ ∃ t, exec (.svcChannelIdle w0) s = .next t ∧ ends t fun k => { k with chans := vset k.chans n { ch with state := .idle, cmd := none, written := [], underway := [], raced := [] } })
      ∧ (∀ g i, s.gangAt c = some g → s.inst g.inst = some i → i.ending = none → ∃ t j, exec (.svcTerminate w0) s = .next t ∧ fld t.svc 56 6 = 0
          ∧ t.inst g.inst = some j ∧ j.ending = some (4, 0) ∧ ∀ h, h ∈ t.gangs → h.inst = g.inst → h.st = .done)
      ∧ (∀ g i, s.gangAt c = some g → s.inst g.inst = some i → i.whole = false → g.st = .bound → (∀ d, d ∈ g.cores → s.slotState d = 2) → c ∈ g.cores →
          ∃ t h, exec (.svcPreempt w0) s = .next t ∧ fld t.svc 56 6 = 0 ∧ t.gangAt c = some h ∧ h.st = .preempting ∧ t.slotState c = 5))
    ∧ (∀ x, n < 8 → ok → s.collAt c n = some x →
      (x.held = none → ∀ i, i ∈ [Instr.svcCollContinue w0, .svcCollAbort w0] → ∃ t, exec i s = .next t ∧ only t 1)
      ∧ (x.held ≠ none → (∃ t, exec (.svcCollContinue w0) s = .next t ∧ ends t fun k => { k with colls := vset k.colls n (some { x with held := none }) })
        ∧ ∃ t, exec (.svcCollAbort w0) s = .next t ∧ t.linkOut = s.linkOut ++ [{ s.linkMsg c n x with abort := true }]
          ∧ ends t fun k => { k with colls := vset k.colls n (some { x with held := none, code := some 5 }) }))

/-- R131, R132, R503, R510, R511, R514, R516, R517: a write-back of a line of a compressed page that does not compress and matches the
marker takes a table entry, or is refused and reported when none is free, until an entry of its stack is freed; waiting stop events are
written once there is room; a scrub changes nothing but damaged data, which it marks and reports, and counts what it corrects; a
summary reports the count once in a second; refresh and retraining change no data. Where the marker stands in a line is the model's
choice (log 81), and so are what damage in a queue does (log 84), the queue of a summary and the saturation of the retrain count (log
63), the damage of every storage as a finding of a scrub (log 60), and the UNIT 0 under which queues and the graph store count what
they correct (log 104). -/
def Obligations.BackgroundWork : Prop :=
  (∀ (s : State) (pa part va : Nat) (fits : Bool), pa < 2 ^ 40 → part < 8 →
    let ln := pa / 128
    let st := stackOf pa
    let raw := s.compLine part va ln = true ∧ fits = false ∧ s.markerHit ln = true
    let stored (t : State) : Prop := t = { s with refused := t.refused, collided := t.collided } ∧ (∀ l, l ∈ t.refused ↔ l ∈ s.refused ∧ l ≠ ln)
    (¬ raw → (ln ∉ s.collided → ∃ t, exec (.lineWriteback pa ⟨part, va⟩ fits) s = .next t ∧ stored t ∧ t.collided = s.collided)
      ∧ (ln ∈ s.collided → (∀ l, l ∈ s.refused → stackOf (l * 128) ≠ st) → ∃ t, exec (.lineWriteback pa ⟨part, va⟩ fits) s = .next t ∧ stored t
          ∧ ∀ l, l ∈ t.collided ↔ l ∈ s.collided ∧ l ≠ ln)
      ∧ (ln ∈ s.collided → s.collisions st ≤ 256 → ∀ l, s.refused = [l] → stackOf (l * 128) = st → ∃ t, exec (.lineWriteback pa ⟨part, va⟩ fits) s = .next t
          ∧ t.refused = [] ∧ ln ∉ t.collided ∧ t.cores = s.cores ∧ sameMem s t))
    ∧ (raw → ln ∈ s.collided ∨ s.collisions st < 256 → ∃ t, exec (.lineWriteback pa ⟨part, va⟩ fits) s = .next t ∧ stored t
      ∧ ∀ l, l ∈ t.collided ↔ l ∈ s.collided ∨ l = ln)
    ∧ (raw → ln ∉ s.collided → 256 ≤ s.collisions st → ∃ t, exec (.lineWriteback pa ⟨part, va⟩ fits) s = .next t
      ∧ t.collided = s.collided ∧ (∀ l, l ∈ t.refused ↔ l ∈ s.refused ∨ l = ln) ∧ t.cores = s.cores
      ∧ (vget t.evq 8 .none0).seq = (vget s.evq 8 .none0).seq + 1
      ∧ fld (vget t.ctstat st 0) 48 16 = Nat.min (fld (vget s.ctstat st 0) 48 16 + 1) 0xFFFF))
  ∧ (∀ (s : State) (q : Nat) (ev : List W64) (r : List (List W64)), q < 9 → s.mem.wf = true →
    let e := vget s.evq q .none0
    let at' := fld e.w0 12 32 * 4096 + 128 * (e.tail.toNat % e.cap)
    (e.waiting = [] ∨ e.hasRoom = false → exec (.eventPostDeferred q) s = .next s)
    ∧ (e.waiting = ev :: r → e.hasRoom = true → ∃ t, exec (.eventPostDeferred q) s = .next t ∧ t.cores = s.cores
      ∧ (vget t.evq q .none0).waiting.length < e.waiting.length
      ∧ (r = [] → ev.length = 16 → (vget t.evq q .none0).tail = e.tail + 1 ∧ (vget t.evq q .none0).waiting = []
          ∧ (∀ i, i < 16 → t.rd64 (at' + 8 * i) = nth ev i 0) ∧ ∀ l, l < at' ∨ at' + 128 ≤ l → t.mem.get l = s.mem.get l)))
  ∧ (∀ (s : State) (c l : Nat) (found : ScrubFinding) (i : Instr) (n unit st : Nat) (who : Option Nat), c < 480 → s.mem.wf = true → (vget s.evq 8 .none0).cap = 0 →
    (i, n, unit, st, who) ∈ [(Instr.hbmScrub l found, 32, 1, stackOf l, none), (.sramScrub c (.line l) found, 32, 2, if l < 2 ^ 40 then stackOf l else 0, none)]
        ∨ (∃ o, o < spadSize ∧ l = spadPlace c o ∧ (i, n, unit, st, who) = (.sramScrub c (.spad o) found, 8, 3, 0, some c)) →
    (i = .hbmScrub l found → l < 2 ^ 40) → (i = .sramScrub c (.line l) found → l < 2 ^ 40 ∨ 2 ^ 60 ≤ l ∧ l < 2 ^ 62) →
    (found = .clean → s.marked l 1 = false → exec i s = .next s)
    ∧ (found = .corrected → s.marked l 1 = false → exec i s = .next (s.countCorrected unit st who))
    ∧ (found = .uncorrectable → ∃ t, exec i s = .next t ∧ t.marked l 1 = true ∧ t.cores = s.cores
      ∧ (vget t.evq 8 .none0).seq = (vget s.evq 8 .none0).seq + 1 ∧ (s.marked l 1 = true → sameMem s t)
      ∧ ∀ q, q < l / n * n ∨ l / n * n + n ≤ q → t.mem.get q = s.mem.get q))
  ∧ (∀ (s : State) (c row col key u : Nat) (sh : Bool) (w : Walker), c < 480 →
    (∀ p, p ∈ [(SramAt.acc row col, 4), (.cell sh key, 6), (.scale sh key, 6), (.queue w, 0)] → row < 512 → col < 256 →
      exec (.sramScrub c p.1 .corrected) s = .next (s.countCorrected p.2 0 (some c)))
    ∧ exec (.sramScrub c (.graph u) .corrected) s = .next (s.countCorrected 0 0 none)
    ∧ (row < 512 → col < 256 → ∃ t, exec (.sramScrub c (.acc row col) .uncorrectable) s = .next t ∧ t.cores = (s.modCore c fun k => k.damageAcc row col).cores
      ∧ (vget t.evq 8 .none0).seq = (vget s.evq 8 .none0).seq + 1)
    ∧ exec (.sramScrub c (.cell sh key) .uncorrectable) s = .next (s.modCore c fun k => k.damagePlane sh false key)
    ∧ exec (.sramScrub c (.scale sh key) .uncorrectable) s = .next (s.modCore c fun k => k.damagePlane sh true key)
    ∧ (∀ g i, ((s.core c).wk w).run = .running → s.gangAt c = some g → s.inst g.inst = some i → i.fdom < 256 →
        ∃ t, exec (.sramScrub c (.queue w) .uncorrectable) s = .next t ∧ t.domFailed i.fdom = true)
    ∧ ∃ t, exec (.sramScrub c (.graph u) .uncorrectable) s = .next t ∧ t = { s with graphs := t.graphs } ∧ ∀ v, v ∈ t.graphs → v.uid = u → v.bad = true)
  ∧ (∀ (s : State) (n : Nat), (n < 16 → exec (.hbmRefresh n) s = .next s ∧ exec (.hbmRetrain n) s = .next s)
    ∧ (n < 12 → ∃ t, exec (.linkRetrain n) s = .next t ∧ t = { s with links := t.links } ∧ (∀ j, j ≠ n → vget t.links j 0 = vget s.links j 0)
      ∧ fld (vget t.links n 0) 0 16 = Nat.min (fld (vget s.links n 0) 0 16 + 1) 0xFFFF ∧ fld (vget t.links n 0) 16 48 = fld (vget s.links n 0) 16 48))
  ∧ ∀ (s : State) (unit stack : BitVec 4) (frame : BitVec 28) (off : BitVec 16) (who : Option Nat) (n : Nat) (l : List (Nat × Nat)), (∀ c, who = some c → c < 480) →
    let key := unitKey unit.toNat stack.toNat who
    let i := Instr.correctedSummary unit stack frame off
    let due (e : Nat × Nat) : Prop := e.1 / 512 = unit.toNat * 16 + stack.toNat ∧ e.2 ≠ 0
      ∧ ∀ p, (s.summed.find? fun x => x.1 = e.1) = some p → 1000000000 ≤ (s.time - p.2).toNat
    (mapGet (s.countCorrected unit.toNat stack.toNat who).corrected key 0 = mapGet s.corrected key 0 + 1)
    ∧ ((∀ e, e ∈ s.corrected → ¬ due e) → exec i s = .next s)
    ∧ (s.corrected = (key, n) :: l → due (key, n) → (∀ e, e ∈ l → ¬ due e) → (∀ e, e ∈ l → e.1 ≠ key) →
      ∃ t, exec i s = .next t ∧ t.cores = s.cores ∧ (vget t.evq 8 .none0).seq = (vget s.evq 8 .none0).seq + 1
        ∧ t.corrected = l ∧ t.summed = mapPut s.summed key s.time)

/-- R518, R520, R521, R523, R524, R527: hart 3's configuration, whose MODE does not change while hart 3 moves a page, the refresh of the
zones, the throttle levels, and the droop counters. -/
def Obligations.PowerControl : Prop :=
  (∀ (s : State) (data : W64),
    (fld data 40 8 ≤ fld data 48 8 → exec (.pwrcfgWrite data) s = .next s)
    ∧ (fld data 48 8 < fld data 40 8 → s.hart3Moves = true → s.pwrWait = none → data.getLsbD 63 ≠ s.pwrcfg.getLsbD 63 →
      exec (.pwrcfgWrite data) s = .next { s with pwrWait := some data })
    ∧ (fld data 48 8 < fld data 40 8 → s.hart3Moves = false ∨ (s.pwrWait = none ∧ data.getLsbD 63 = s.pwrcfg.getLsbD 63) → ∃ t, exec (.pwrcfgWrite data) s = .next t ∧ t = { s with pwrcfg := t.pwrcfg, pump := t.pump, zones := t.zones }
      ∧ t.pwrcfg = BitVec.ofNat 64 (fld data 63 1 * 2 ^ 63 + fld data 32 24 * 2 ^ 32 + fld s.pwrcfg 0 16)
      ∧ (data.getLsbD 63 = true → t.pump.toNat = fld data 32 8 ∧ ∀ z, z < 9 → (t.zone z).valve = 0)
      ∧ (data.getLsbD 63 = false → t.zones = s.zones ∧ t.pump.toNat = Nat.max s.pump.toNat (fld data 32 8))))
  ∧ (∀ (s : State) (l : List ZoneReading) (power : BitVec 16), l.length = 9 → ∃ t, exec (.thermalRefresh l power) s = .next t ∧ t.cores = s.cores
    ∧ fld t.pwrcfg 0 16 = power.toNat ∧ fld t.pwrcfg 16 48 = fld s.pwrcfg 16 48
    ∧ (s.stackMode = true → t.pump.toNat = pumpMin s.pwrcfg) ∧ (s.stackMode = false → pumpMin s.pwrcfg ≤ t.pump.toNat)
    ∧ ∀ (z : Nat) (r : ZoneReading), l[z]? = some r →
      let a := s.zone z
      let b := t.zone z
      b.temp = r.temp ∧ b.flow = r.flow
      ∧ (twarn s.pwrcfg ≤ r.temp.toNat → b.hot = true) ∧ (r.temp.toNat + 5 < twarn s.pwrcfg → b.hot = false)
      ∧ (r.temp.toNat < twarn s.pwrcfg → twarn s.pwrcfg ≤ r.temp.toNat + 5 → b.hot = a.hot)
      ∧ (tcrit s.pwrcfg ≤ r.temp.toNat → b.thr = 7 ∧ b.crit = true)
      ∧ (r.temp.toNat < tcrit s.pwrcfg → a.crit = false → b.hot = true → a.hot = false → b.thr = 4)
      ∧ (r.temp.toNat < tcrit s.pwrcfg → a.crit = false → b.hot = a.hot → b.thr = a.thr)
      ∧ (s.stackMode = true → b.valve = 0) ∧ (s.stackMode = false → b.hot = true → b.valve = 255 ∧ t.pump = 255))
  ∧ (∀ (s : State) (z : Nat), z < 9 → let a := s.zone z
    (a.below < 101 ∨ a.crit = true ∨ a.thr = 0 → exec (.throttleDecay z) s = .next s)
    ∧ (101 ≤ a.below → a.crit = false → a.thr ≠ 0 → exec (.throttleDecay z) s = .next { s with zones := vset s.zones z { a with thr := a.thr - 1 } }))
  ∧ ∀ (s : State) (c : Nat) (n : W32), c < 40 →
    (∃ t, exec (.droopDetect c) s = .next t ∧ t = { s with drstat := t.drstat, stretched := t.stretched } ∧ (∀ d, d ∈ t.stretched ↔ d ∈ s.stretched ∨ d = c)
      ∧ fld (vget t.drstat c 0) 32 32 = Nat.min (fld (vget s.drstat c 0) 32 32 + 1) 0xFFFFFFFF ∧ fld (vget t.drstat c 0) 0 32 = fld (vget s.drstat c 0) 0 32
      ∧ ∀ d, d ≠ c → vget t.drstat d 0 = vget s.drstat d 0)
    ∧ (c ∉ s.stretched → exec (.supplyRecovered c n) s = .next s)
    ∧ (c ∈ s.stretched → ∃ t, exec (.supplyRecovered c n) s = .next t ∧ t = { s with drstat := t.drstat, stretched := t.stretched }
      ∧ (∀ d, d ∈ t.stretched ↔ d ∈ s.stretched ∧ d ≠ c)
      ∧ fld (vget t.drstat c 0) 0 32 = Nat.min (fld (vget s.drstat c 0) 0 32 + n.toNat) 0xFFFFFFFF
      ∧ fld (vget t.drstat c 0) 32 32 = fld (vget s.drstat c 0) 32 32)

/-! ## The whole machine -/

/-- R531, R35, R236, R253, R318, R520: right after reset both memories are in their canonical form, every core is idle with SLIP 64 and
DSCALE 1.0, its accumulators and planes at their entry values, the control registers at the values of their maps. That a matrix unit
which no walker has entered holds those values (log 4), that every walker is idle before stage 0 has run (log 4), and that memory then
reads 0 (log 8) are the model's choices. -/
def Obligations.ResetState : Prop :=
  let s := State.reset
  s.mem.wf = true ∧ s.flash.wf = true ∧ (∀ l, s.mem.get l = 0) ∧ s.pwrcfg = 0x0055644000000000 ∧ s.boot = 0 ∧ s.mgmtUp = false ∧ s.agenda = []
  ∧ (∀ c, c < 480 → (∀ w, ((s.core c).wk w).run = .idle) ∧ (s.core c).gangUid = none ∧ (s.core c).slip = 64 ∧ (s.core c).dscale = 0x3F800000
      ∧ (s.core c).mat = .reset ∧ (∀ t, ((s.core c).tile t).defd = false) ∧ s.slotState c = 0)
  ∧ (∀ n, n < 8 → (s.part n).valid = false ∧ (s.xlOf n).w0 = 0 ∧ ∀ lv, lv < 8 → (s.readyOf n lv).eff = lv) ∧ (∀ n, n < 4 → vget s.fdstat n 0 = 0)
  ∧ ∀ n, n < 9 → (vget s.evq n .none0).cap = 0

/-- R44-R48, R54, R64, R74, R146: a step that fetches a legal bundle executes, in slot order but for SEMCLRs, which come first, the
walker's K syllables and its own as they decode, each with its LIMMs, and settles the part; at a MARK the partner's part follows in the
same step; what X has passed of earlier VROWSTs is written before it issues a VROW; a step of an abutment run executes the syllables of
its bundle, of whose writes some units may wait, by a free choice, and are written before the next bundle. -/
def Obligations.StepRunsBundle : Prop :=
  (∀ (s b v : State) (c : Nat) (w : Walker) (r : List Instr) (ys : List (Nat × Instr)), s.abut = none → s.retry = false →
    s.agenda = .bundleFetch c w :: r → exec (.bundleFetch c w) { s with agenda := r }.tick = .next b →
    let t := b.rowsFirst
    let ws := t.issue.words
    let pl := t.curW.ploop
    let u := t.settlePart v
    b.issue.words ≠ [] → bundleCause pl ws = none → ownCause t.issue.w pl ws = none → t.beforePloop ws = false → t.gHeld = none →
    ((clearsFirst ws (ownSlots t.issue.w ws)).filter fun j => acts pl (stageOf (nth ws j padWord))) = ys.map Prod.fst →
    (∀ y, y ∈ ys → decode (nth ws y.1 padWord) = .ok y.2) → Ran ws ys t v →
    (t.markSlot = none ∨ u.curW.passed t.walk = false → step s = .next (u.rest.again (.bundleFetch c w)))
    ∧ ∀ j x, t.markSlot = some j → u.curW.passed t.walk = true → t.passMark u j = .next x → step s = .next (x.rest.again (.bundleFetch c w)))
  ∧ (∀ (s u : State) (a : AbutRun) (y : Instr), s.abut = some a → s.abutNow = true → a.skipped = false → a.ended = false → a.late = [] →
    ((a.prog.getD a.pc (.replicate 8 padWord)).toList.filterMap fun w => if isSyl w then decodeAbut w else none) = [y] →
    let b := (a.pieces.foldl (fun (x : State) p => x.recall p.1 p.2) ({ s with freeCtr := s.freeCtr + 1 }.serve a.pieces)).beginAbut
    exec y b = .next u → u.retry = false → step s = .next (b.delayRun u).abutNext.rest)
  ∧ (∀ (s : State) (a : AbutRun), s.abut = some a → s.abutNow = true → a.late ≠ [] → step s = .next ({ s with retry := false, freeCtr := s.freeCtr + 1 }.lateRun a).rest)
  ∧ ∀ (s u : State) (i : Instr) (r : List Instr), s.abut = none → s.retry = false → s.agenda = i :: r → encode i = none → (∀ c w, i ≠ .bundleFetch c w) →
    exec i { s with agenda := r }.tick = .next u → step s = .next (u.rest.again i)

/-- R46, R49, R54, R74, R75, R200-R205: a part that stops takes no effect but the stop, one that waits none on its registers and memory,
and one that ends passes its bundle; at a MARK both A and S pass, or the walker waits and its part takes no effect; an illegal bundle
stops the first walker that reaches it and halts the others, an illegal syllable its own walker. A part that reads tile rows of several
units may, by a free choice, have read only some of them, and is issued again; one that writes several may leave some to come (R148,
R156, R315). A walker that drains under R80 is held at a bundle that opens a PLOOP after the bundle's checks and before its own
syllables', which is the model's choice (log 95). -/
def Obligations.PartsSettle : Prop :=
  let same (s u : State) : Prop := u.cur.a = s.cur.a ∧ u.cur.s = s.cur.s ∧ u.cur.g = s.cur.g ∧ u.cur.v = s.cur.v
    ∧ u.cur.m = s.cur.m ∧ u.cur.lq = s.cur.lq ∧ u.cur.tiles = s.cur.tiles ∧ u.curW.k = s.curW.k ∧ u.curW.pc = s.curW.pc ∧ u.curW.walk = s.curW.walk
  (∀ (s v : State), s.issue.core < 480 → v.issue.core = s.issue.core → v.issue.w = s.issue.w →
    (∀ r, v.curW.run = .stopped → v.curW.stop = some r →
      (s.settlePart v).cores = (s.modW fun x => { x with run := .stopped, stop := some r, stalls := [], await := none, got := [] }).cores)
    ∧ (v.curW.run ≠ .stopped → v.issue.waits ≠ [] → ∃ u, u = s.settlePart v ∧ same s u
        ∧ (v.issue.overs = [] → sameMem s u))
    ∧ (v.curW.run = .running → v.issue.waits = [] → (unitsOf v.issue.reads).length ≤ 1 → (unitsOf (v.issue.rows.map fun e => (e.1, 1))).length ≤ 1 → ∃ u, u = s.settlePart v ∧ u.curW.walk = v.curW.walk + 1 ∧ u.curW.stalls = [] ∧ u.mem = v.mem
        ∧ (∀ a, v.issue.next = some a → u.curW.pc = a) ∧ (v.issue.next = none → v.curW.loops = [] → u.curW.pc = v.curW.pc + 32))
    ∧ (v.curW.run = .running → v.issue.waits = [] → ∃ u, u = s.settlePart v ∧ ((same s u ∧ sameMem s u ∧ u.curW.stalls = s.curW.stalls) ∨ (u.curW.walk = v.curW.walk + 1 ∧ u.curW.stalls = []))))
  ∧ (∀ (s t : State) (i : Nat), s.issue.core < 480 → let w := markPartner s.issue.w
    ((t.cur.wk w).passed s.walk = true → s.passMark t i = .next t)
    ∧ ((t.cur.wk w).passed s.walk = false → t.partnerReady w s.walk = false → ∃ u, s.passMark t i = .next u ∧ same s u ∧ (s.issue.overs = [] → sameMem s u))
    ∧ ∀ u, s.passMark t i = .next u → (u.cur.wk w).passed s.walk = true ∨ (same s u ∧ (s.issue.overs = [] → sameMem s u)))
  ∧ (∀ (s : State) (i c : Nat), let b := s.rowsFirst
    (bundleCause b.curW.ploop b.issue.words = some (i, c) →
      (b.isFirst = true → s.issuePart = .next ((b.atSlot b.issue.words i).illegal c)) ∧ (b.isFirst = false → s.issuePart = .next b.haltHere))
    ∧ (bundleCause b.curW.ploop b.issue.words = none → b.beforePloop b.issue.words = true → s.issuePart = .next b.hold)
    ∧ (bundleCause b.curW.ploop b.issue.words = none → b.beforePloop b.issue.words = false → ownCause b.issue.w b.curW.ploop b.issue.words = some (i, c) →
        s.issuePart = .next ((b.atSlot b.issue.words i).illegal c)))
  ∧ ∀ (ws : List W32) (i : Nat) (pl : Option Loop), i < ws.length →
    let w := nth ws i padWord
    (w = 0 → sylCause pl ws i = some 1)
    ∧ (isLimm w = true → limmBase ws i = none → stageOf w = 0 → sylCause none ws i = some 8)
    ∧ (w = 0x8E400000#32 → sylCause none ws i = some 10)
    ∧ (isSyl w = true → stageOf w ≠ 0 → ∃ c, sylCause none ws i = some c ∧ c ≤ 6)
    ∧ (isSyl w = true → nth [2, 3, 4, 2] (tagOf w) 0 < (ws.take (i + 1)).countP (fun x => isSyl x && decide (tagOf x = tagOf w)) → bundleCause pl ws ≠ none)

/-- R182, R183, R187, R199, and the encodings of the instruction chapters: words written field by field decode to the instructions they
stand for: tag, stage, major, then each format's fields; reserved words and fields are refused with their cause. -/
def Obligations.DecodeWords : Prop :=
  decode (0#2 ++ 1#2 ++ 3#6 ++ 5#6 ++ 2#6 ++ 3#10) = .ok (.kaddi 1 5 2 3)
  ∧ decode (0#2 ++ 0#2 ++ 4#6 ++ 5#6 ++ 6#6 ++ 7#6 ++ 1#4) = .ok (.ksub 0 5 6 7)
  ∧ decode (0#2 ++ 0#2 ++ 7#6 ++ 9#6 ++ 2#2 ++ 1#1 ++ 5#13) = .ok (.ploop 0 9 2 1 5)
  ∧ decode (0#2 ++ 0#2 ++ 8#6 ++ 77#22) = .ok (.br 0 77)
  ∧ decode (0#2 ++ 3#2 ++ 63#6 ++ 12345#22) = .ok (.limm 0 3 12345)
  ∧ decode (1#2 ++ 0#2 ++ 2#6 ++ 9#6 ++ 1#6 ++ 8#6 ++ 0#4) = .ok (.aadd 0 9 1 8)
  ∧ decode (1#2 ++ 0#2 ++ 8#6 ++ 63#6 ++ 4#6 ++ 2#6 ++ 2#2 ++ 1#1 ++ 0#1) = .ok (.ld 0 63 4 2 2 1 0)
  ∧ decode (1#2 ++ 0#2 ++ 10#6 ++ 17#6 ++ 5#6 ++ 0#10) = .ok (.tld 0 17 5)
  ∧ decode (2#2 ++ 0#2 ++ 2#6 ++ 9#6 ++ 1#6 ++ 8#6 ++ 1#4) = .ok (.sub 0 9 1 8)
  ∧ decode (2#2 ++ 0#2 ++ 12#6 ++ 9#6 ++ 0#2 ++ 0x47#14) = .ok (.rdsys 0 9 0x47)
  ∧ decode (2#2 ++ 2#2 ++ 16#6 ++ 3#5 ++ 4#5 ++ 5#5 ++ 6#3 ++ 0#4) = .ok (.vfadd 2 3 4 5 6)
  ∧ decode (2#2 ++ 0#2 ++ 27#6 ++ 3#5 ++ 4#5 ++ 5#5 ++ 6#5 ++ 0#2) = .ok (.vperm 0 3 4 5 6)
  ∧ decode (2#2 ++ 0#2 ++ 36#6 ++ 2#2 ++ 20#6 ++ 37#6 ++ 7#4 ++ 1#1 ++ 0#1 ++ 1#1 ++ 0#1) = .ok (.mm 0 2 20 37 7 1 1 0)
  ∧ decode (3#2 ++ 0#2 ++ 8#6 ++ 63#6 ++ 8#6 ++ 2#4 ++ 3#2 ++ 15#4) = .ok (.st 0 63 8 2 3 15)
  ∧ decode (3#2 ++ 0#2 ++ 10#6 ++ 17#6 ++ 5#6 ++ 2#4 ++ 1#1 ++ 0#5) = .ok (.tst 0 17 5 2 1)
  ∧ decode (3#2 ++ 0#2 ++ 24#6 ++ 0#6 ++ 5#6 ++ 3#4 ++ 0#6) = .ok (.crs 0 5 3)
  ∧ decode 0 = .error 1 ∧ decode (1#2 ++ 0#2 ++ 48#6 ++ 0#22) = .error 2 ∧ decode (0#2 ++ 0#2 ++ 3#6 ++ 20#6 ++ 0#16) = .error 4
  ∧ decode (0#2 ++ 0#2 ++ 13#6 ++ 1#22) = .error 5

/-- R182-R199: decoding the word of a well-formed instruction gives it back, with every operand at every value, in core text for the
syllables that cores have and in abutment programs for the three forms that share a word with a core form; and a word that decodes is
the word of its instruction. -/
def Obligations.DecodeEncode : Prop :=
  (∀ (i : Instr) (w : W32), i.wf = true → encode i = some w →
    (∀ n v, i ≠ .vrowldSlot n v) → (∀ n v, i ≠ .vrowstSlot n v) → (∀ v n, i ≠ .vbcastConst v n) → decode w = .ok i)
  ∧ (∀ (n : BitVec 6) (v : BitVec 5) (w : W32), (encode (.vrowldSlot n v) = some w → decodeAbut w = some (.vrowldSlot n v))
      ∧ (encode (.vrowstSlot n v) = some w → decodeAbut w = some (.vrowstSlot n v)))
  ∧ (∀ (v : BitVec 5) (n : BitVec 4) (w : W32), encode (.vbcastConst v n) = some w → decodeAbut w = some (.vbcastConst v n))
  ∧ ∀ (i : Instr) (w : W32), decode w = .ok i → encode i = some w

/-- R149, R531 (the canonical form is the model's: log 8): every step keeps the byte memory and the flash in their canonical form. -/
def Obligations.MemoryCanonical : Prop :=
  ∀ (s t : State), s.mem.wf = true → s.flash.wf = true → step s = .next t → t.mem.wf = true ∧ t.flash.wf = true

/-- R108, R473-R479, R482, R257: an access to one page of translated space reaches the frame of the leaf that the walk finds, whatever the
leaf's level, when the leaf grants the permission; a walk that fails gives cause 1, a leaf that denies cause 2, a page in motion a
wait; an access changes nothing but what the translation structures hold, and the exclusive holds of lines that a walk recalls. -/
def Obligations.Translation : Prop :=
  (∀ (s : State) (x : XCtx) (p : Perm) (va n lv : Nat), s.tlb = [] → s.ue = [] → (∀ d, x.unit ≠ .walkCache d) → x.part < 8 → 0 < n →
    va % 65536 + n ≤ 65536 → va + n ≤ 0xE * 2 ^ 48 →
    (s.xlOf x.part).w0.getLsbD 63 = true →
    let root := (s.xlOf x.part).root.toNat * 65536
    let e := s.entryAt root va lv
    lv ≤ 3 → (∀ j, j < lv → (s.entryAt root va j).getLsbD 63 = true ∧ (s.entryAt root va j).getLsbD 62 = false ∧ s.malformed x.part j (s.entryAt root va j) = false) →
    (e.getLsbD 63 = false ∨ s.malformed x.part lv e = true → ∃ f, s.reach x p va n = .error (.fail f) ∧ f.cause = 1 ∧ f.va = va ∧ f.level = lv)
    ∧ (e.getLsbD 63 = true → e.getLsbD 62 = true → s.malformed x.part lv e = false →
      (e.getLsbD 53 = true → s.reach x p va n = .error (.wait 21 va))
      ∧ (e.getLsbD 53 = false →
        (permOk p e = false → ∃ f, s.reach x p va n = .error (.fail f) ∧ f.cause = 2 ∧ f.va = va)
        ∧ (permOk p e = true → e.getLsbD 52 = false → e.getLsbD 56 = false →
          (2 ^ 40 ≤ fld e 16 28 * 65536 → ∃ f, s.reach x p va n = .error (.fail f) ∧ f.cause = 7)
          ∧ (fld e 16 28 * 65536 < 2 ^ 40 → ∃ sn t, s.reach x p va n = .ok (sn, t)
            ∧ ∀ i, i < n → sn.place (va + i) = fld e 16 28 * 65536 + (va + i) % lvSpan lv)))))
  ∧ (∀ (s : State) (x : XCtx) (p : Perm) (va n : Nat), (s.xlOf x.part).w0.getLsbD 63 = false → s.tlb = [] → (∀ d, x.unit ≠ .walkCache d) → 0 < n → va + n ≤ 0xE * 2 ^ 48 →
      ∃ f, s.reach x p va n = .error (.fail f) ∧ f.cause = 1)
  ∧ ∀ (s t : State) (x : XCtx) (p : Perm) (va : Int) (n : Nat) (sn : Snap), s.reach x p va n = .ok (sn, t) →
      t = { s with tlb := t.tlb, excl := t.excl, freeCtr := t.freeCtr } ∧ ∀ e, e ∈ t.excl → e ∈ s.excl

/-- R44, R67, R74: every syllable that has an encoding completes, waits or stops its walker: it answers a next state from every state, and
no row of the opcode table is refused. -/
def Obligations.SyllablesComplete : Prop :=
  (∀ (i : Instr) (s : State), (encode i).isSome = true → ∃ t, exec i s = .next t) ∧ ∀ (i : Instr) (s : State) (f : Refusal), exec i s ≠ .refused f

/-- R438, R31, R467: a program cannot reach the control space: no syllable changes a core's identity, its partition or the gang it runs,
nor the keystone's registers PART, FDSTAT, FDCLR, SCHED, XLAT, SHOOT.W0 and W1, PINQ, MIGR, SVC, PWRCFG, ZONE, COOL, DRSTAT, BOOT,
LINK, STGT, WQ and the slot table, nor flash. The event queues EVQ.n and the counts CTSTAT are excepted: a stop or an error that a
syllable meets is posted to a queue and moves its TAIL and SEQ. -/
def Obligations.ProgramsKeepControl : Prop :=
  ∀ (i : Instr) (s t : State), (encode i).isSome = true → exec i s = .next t →
    t.parts = s.parts ∧ t.fdstat = s.fdstat ∧ t.fdclr = s.fdclr ∧ t.sched = s.sched ∧ t.xl = s.xl ∧ t.shootW0 = s.shootW0 ∧ t.shootW1 = s.shootW1
    ∧ t.pinq = s.pinq ∧ t.migrW0 = s.migrW0 ∧ t.migrW1 = s.migrW1 ∧ t.migrW2 = s.migrW2 ∧ t.svc = s.svc ∧ t.pwrcfg = s.pwrcfg ∧ t.zones = s.zones
    ∧ t.coolW0 = s.coolW0 ∧ t.coolW1 = s.coolW1 ∧ t.drstat = s.drstat ∧ t.boot = s.boot ∧ t.links = s.links ∧ t.stgt = s.stgt ∧ t.wqs = s.wqs
    ∧ t.slots = s.slots ∧ t.flash = s.flash ∧ ∀ c, (t.core c).id = (s.core c).id ∧ (t.core c).part = (s.core c).part ∧ (t.core c).gangUid = (s.core c).gangUid
end

