-- ==== Sys2Proof/Laws/Vectors.lean ====
section
/-! SUPPORT. Reading after writing, for vectors, sparse maps and bytes. -/

namespace Sys2Proof.Machine

@[simp] theorem vget_vset {α : Type} {n : Nat} (v : Vector α n) (i j : Nat) (a d : α) :
    vget (vset v i a) j d = if i = j ∧ j < n then a else vget v j d := by
  unfold vget vset
  by_cases h : i = j
  · subst h
    by_cases hi : i < n <;> simp [List.getD_eq_getElem?_getD, hi]
  · simp [List.getD_eq_getElem?_getD, h]

/-- Writing back what is there changes nothing. -/
@[simp] theorem vset_vget {α : Type} {n : Nat} (v : Vector α n) (i : Nat) (d : α) : vset v i (vget v i d) = v := by
  apply Vector.toList_inj.mp
  simp only [vset, vget, Vector.toList_mk]
  by_cases hi : i < v.toList.length
  · rw [List.getD_eq_getElem _ _ hi, List.set_getElem_self]
  · rw [List.set_eq_of_length_le (by omega)]

/-- The later of two writes to one element stands. -/
@[simp] theorem vset_vset {α : Type} {n : Nat} (v : Vector α n) (i : Nat) (a b : α) : vset (vset v i a) i b = vset v i b := by
  simp [vset]

/-- A write outside the vector changes nothing. -/
theorem vset_out {α : Type} {n : Nat} (v : Vector α n) (i : Nat) (a : α) (h : n ≤ i) : vset v i a = v := by
  apply Vector.toList_inj.mp
  simp [vset, List.set_eq_of_length_le, h]

@[simp] theorem vget_vecOf {α : Type} (n : Nat) (f : Nat → α) (i : Nat) (d : α) :
    vget (vecOf n f) i d = if i < n then f i else d := by
  unfold vget vecOf
  by_cases h : i < n <;> simp [List.getD_eq_getElem?_getD, h]

@[simp] theorem vget_replicate {α : Type} (n : Nat) (a : α) (i : Nat) (d : α) :
    vget (Vector.replicate n a) i d = if i < n then a else d := by
  unfold vget
  by_cases h : i < n <;> simp [List.getD_eq_getElem?_getD, h]

@[simp] theorem toBytes_length (n v : Nat) : (toBytes n v).length = n := by
  induction n generalizing v with
  | zero => rfl
  | succ n ih => simp [toBytes, ih]

/-- Bytes hold the number that was split into them, modulo their width (R7). -/
theorem ofBytes_toBytes (n v : Nat) : ofBytes (toBytes n v) = v % 256 ^ n := by
  induction n generalizing v with
  | zero => simp [toBytes, ofBytes, Nat.mod_one]
  | succ n ih =>
    have h8 : (2 : Nat) ^ 8 = 256 := rfl
    rw [toBytes, ofBytes, ih, BitVec.toNat_ofNat, h8, Nat.pow_succ, Nat.mul_comm (256 ^ n) 256, Nat.mod_mul]

end Sys2Proof.Machine
end

