-- ==== Sys2Proof/Laws/Memory.lean ====
section
/-! SUPPORT. The byte memory: every operation keeps the canonical form, and a read after a write gives what was written. -/

namespace Sys2Proof.Machine

theorem Memory.ok_mono {m : Memory} {a b : Nat} (h : a ≤ b) (hm : Memory.ok m b = true) : Memory.ok m a = true := by
  cases m with
  | nil => rfl
  | cons c r => simp only [Memory.ok, Bool.and_eq_true, decide_eq_true_eq] at hm ⊢; exact ⟨⟨by omega, hm.1.2⟩, hm.2⟩

/-- Dropping cells keeps the form. -/
theorem Memory.ok_filter (p : Host.Cell → Bool) {m : Memory} : ∀ {lo}, Memory.ok m lo = true → Memory.ok (m.filter p) lo = true := by
  induction m with
  | nil => intro lo h; rfl
  | cons c r ih =>
    intro lo h
    simp only [Memory.ok, Bool.and_eq_true, decide_eq_true_eq] at h
    by_cases hp : p c
    · simp only [List.filter_cons, hp, if_true, Memory.ok, Bool.and_eq_true, decide_eq_true_eq]
      exact ⟨h.1, ih h.2⟩
    · simp only [List.filter_cons, hp]
      exact Memory.ok_mono (by omega) (ih h.2)

theorem Memory.ok_mapDel {m : Memory} (k : Nat) : ∀ {lo}, Memory.ok m lo = true → Memory.ok (mapDel m k) lo = true := by
  induction m with
  | nil => intro lo h; rfl
  | cons c r ih =>
    intro lo h
    obtain ⟨a, b⟩ := c
    have h' := h
    simp only [Memory.ok, Bool.and_eq_true, decide_eq_true_eq] at h
    unfold mapDel
    split_ifs with h1 h2
    · exact Memory.ok_mono (by omega) h.2
    · exact h'
    · simp only [Memory.ok, Bool.and_eq_true, decide_eq_true_eq]
      exact ⟨h.1, ih h.2⟩

theorem Memory.ok_mapPut {m : Memory} (k : Nat) (v : Byte) (hv : v ≠ 0) :
    ∀ {lo}, lo ≤ k → Memory.ok m lo = true → Memory.ok (mapPut m k v) lo = true := by
  induction m with
  | nil => intro lo hk h; simp only [mapPut, Memory.ok, Bool.and_eq_true, decide_eq_true_eq, and_true]; exact ⟨hk, hv⟩
  | cons c r ih =>
    intro lo hk h
    obtain ⟨a, b⟩ := c
    have h' := h
    simp only [Memory.ok, Bool.and_eq_true, decide_eq_true_eq] at h
    unfold mapPut
    split_ifs with h1 h2
    · subst h1
      simp only [Memory.ok, Bool.and_eq_true, decide_eq_true_eq]
      exact ⟨⟨hk, hv⟩, h.2⟩
    · simp only [Memory.ok, Bool.and_eq_true, decide_eq_true_eq]
      exact ⟨⟨hk, hv⟩, ⟨by omega, h.1.2⟩, h.2⟩
    · simp only [Memory.ok, Bool.and_eq_true, decide_eq_true_eq]
      exact ⟨h.1, ih (by omega) h.2⟩

theorem Memory.wf_set {m : Memory} (a : Nat) (b : Byte) (h : m.wf = true) : (m.set a b).wf = true := by
  unfold Memory.set mapSet
  split_ifs with hb
  · exact Memory.ok_mapDel a h
  · exact Memory.ok_mapPut a b hb (Nat.zero_le _) h

theorem Memory.wf_setN (l : List Byte) : ∀ {m : Memory} {a : Nat}, m.wf = true → (m.setN a l).wf = true := by
  induction l with
  | nil => intro m a h; exact h
  | cons b r ih => intro m a h; exact ih (Memory.wf_set a b h)

theorem Memory.wf_zero {m : Memory} (a n : Nat) (h : m.wf = true) : (m.zero a n).wf = true := Memory.ok_filter _ h

/-- Two canonical pieces, the first below a bound and the second from it on, join to a canonical memory. -/
theorem Memory.ok_append {x y : Memory} (b : Nat) :
    ∀ {lo}, lo ≤ b → Memory.ok x lo = true → (∀ c ∈ x, c.1 < b) → Memory.ok y b = true → Memory.ok (x ++ y) lo = true := by
  induction x with
  | nil => intro lo hb _ _ hy; exact Memory.ok_mono hb hy
  | cons c r ih =>
    intro lo hb hx hlt hy
    simp only [Memory.ok, Bool.and_eq_true, decide_eq_true_eq, List.cons_append] at hx ⊢
    have := hlt c (by simp)
    exact ⟨hx.1, ih (by omega) hx.2 (fun c hc => hlt c (by simp [hc])) hy⟩

/-- Cells kept from a bound on lie from it on. -/
theorem Memory.ok_filter_ge {m : Memory} (b : Nat) :
    ∀ {lo}, Memory.ok m lo = true → Memory.ok (m.filter fun c => decide (b ≤ c.1)) b = true := by
  induction m with
  | nil => intro lo h; rfl
  | cons c r ih =>
    intro lo h
    simp only [Memory.ok, Bool.and_eq_true, decide_eq_true_eq] at h
    by_cases hp : b ≤ c.1
    · simp only [List.filter_cons, hp, decide_true, if_true, Memory.ok, Bool.and_eq_true, decide_eq_true_eq, true_and]
      exact ⟨h.1.2, Memory.ok_filter _ h.2⟩
    · simp only [List.filter_cons, hp, decide_false]
      exact ih h.2

theorem Memory.ok_fillCells (f : Nat → Byte) (n : Nat) : ∀ a, Memory.ok
    (((List.range n).map fun i => (a + i, f i)).filter fun c => decide (c.2 ≠ 0)) a = true := by
  induction n generalizing f with
  | zero => intro a; rfl
  | succ n ih =>
    intro a
    have e : (List.range (n + 1)).map (fun i => (a + i, f i))
        = (a, f 0) :: (List.range n).map (fun i => ((a + 1) + i, (fun j => f (j + 1)) i)) := by
      rw [List.range_succ_eq_map]
      simp [Nat.add_assoc, Nat.add_comm 1]
    have := ih (fun j => f (j + 1)) (a + 1)
    rw [e, List.filter_cons]
    split_ifs with h
    · simp only [Memory.ok, Bool.and_eq_true, decide_eq_true_eq]
      exact ⟨⟨Nat.le_refl _, by simpa using h⟩, this⟩
    · exact Memory.ok_mono (Nat.le_succ a) this

theorem Memory.wf_fill {m : Memory} (a n : Nat) (f : Nat → Byte) (h : m.wf = true) : (m.fill a n f).wf = true := by
  unfold Memory.fill
  rw [List.append_assoc]
  refine Memory.ok_append a (Nat.zero_le _) (Memory.ok_filter _ h) (fun c hc => by simpa using (List.mem_filter.mp hc).2) ?_
  refine Memory.ok_append (a + n) (Nat.le_add_right _ _) (Memory.ok_fillCells f n a) (fun c hc => ?_)
    (Memory.ok_filter_ge (a + n) h)
  obtain ⟨i, hi, rfl⟩ := List.mem_map.mp (List.mem_filter.mp hc).1
  have := List.mem_range.mp hi
  simp only; omega

theorem Memory.ok_shift (src dst : Nat) {m : Memory} : ∀ {lo}, src ≤ lo → Memory.ok m lo = true →
    Memory.ok (m.map fun c => (c.1 - src + dst, c.2)) (lo - src + dst) = true := by
  induction m with
  | nil => intro lo _ h; rfl
  | cons c r ih =>
    intro lo hs h
    simp only [Memory.ok, Bool.and_eq_true, decide_eq_true_eq, List.map_cons] at h ⊢
    refine ⟨⟨by omega, h.1.2⟩, ?_⟩
    have := ih (lo := c.1 + 1) (by omega) h.2
    have e : c.1 + 1 - src + dst = c.1 - src + dst + 1 := by omega
    rwa [e] at this

theorem Memory.wf_blit {m : Memory} (src dst n : Nat) (h : m.wf = true) : (m.blit src dst n).wf = true := by
  unfold Memory.blit
  rw [List.append_assoc]
  refine Memory.ok_append dst (Nat.zero_le _) (Memory.ok_filter _ h) (fun c hc => by simpa using (List.mem_filter.mp hc).2) ?_
  have hm : Memory.ok (m.filter fun c => decide (src ≤ c.1) && decide (c.1 < src + n)) src = true := by
    have := Memory.ok_filter (fun c => decide (c.1 < src + n)) (Memory.ok_filter_ge src h)
    rwa [List.filter_filter, show (fun c : Host.Cell => decide (c.1 < src + n) && decide (src ≤ c.1))
      = (fun c => decide (src ≤ c.1) && decide (c.1 < src + n)) from by funext c; exact Bool.and_comm _ _] at this
  have := Memory.ok_shift src dst (Nat.le_refl src) hm
  rw [Nat.sub_self, Nat.zero_add] at this
  refine Memory.ok_append (dst + n) (Nat.le_add_right _ _) this (fun c hc => ?_) (Memory.ok_filter_ge _ h)
  obtain ⟨d, hd, rfl⟩ := List.mem_map.mp hc
  have := (List.mem_filter.mp hd).2
  simp only [Bool.and_eq_true, decide_eq_true_eq] at this
  simp only; omega

theorem Memory.wf_reset : State.reset.mem.wf = true := rfl

theorem State.wr_mem_wf (s : State) (l : Nat) (b : List Byte) (h : s.mem.wf = true) : (s.wr l b).mem.wf = true :=
  Memory.wf_setN b h

theorem State.wrCells_mem_wf (s : State) (cells : List (Nat × Byte)) (h : s.mem.wf = true) : (s.wrCells cells).mem.wf = true := by
  unfold State.wrCells
  simp only
  induction cells generalizing s with
  | nil => exact h
  | cons c r ih =>
    simp only [List.foldl_cons]
    exact ih { s with mem := s.mem.set c.1 c.2 } (Memory.wf_set _ _ h)

/-! ## Reads after writes -/

theorem mapGet_below {m : Memory} {lo k : Nat} (h : Memory.ok m lo = true) (hk : k < lo) : mapGet m k 0 = 0 := by
  cases m with
  | nil => rfl
  | cons c r =>
    obtain ⟨a, b⟩ := c
    simp only [Memory.ok, Bool.and_eq_true, decide_eq_true_eq] at h
    unfold mapGet
    rw [if_neg (by omega), if_pos (by omega)]

theorem mapGet_mapDel {m : Memory} (k j : Nat) : ∀ {lo}, Memory.ok m lo = true →
    mapGet (mapDel m k) j 0 = if k = j then 0 else mapGet m j 0 := by
  induction m with
  | nil => intro lo _; simp [mapDel, mapGet]
  | cons c r ih =>
    intro lo h
    obtain ⟨a, b⟩ := c
    simp only [Memory.ok, Bool.and_eq_true, decide_eq_true_eq] at h
    unfold mapDel
    by_cases h1 : a = k
    · subst h1
      rw [if_pos rfl]
      by_cases h2 : a = j
      · subst h2
        rw [if_pos rfl]
        exact mapGet_below h.2 (Nat.lt_succ_self _)
      · rw [if_neg h2]
        conv_rhs => unfold mapGet
        rw [if_neg h2]
        by_cases hj : j < a
        · rw [if_pos hj, mapGet_below h.2 (by omega)]
        · rw [if_neg hj]
    · rw [if_neg h1]
      by_cases h2 : k < a
      · rw [if_pos h2]
        by_cases h3 : k = j
        · subst h3; rw [if_pos rfl]; unfold mapGet; rw [if_neg h1, if_pos h2]
        · rw [if_neg h3]
      · rw [if_neg h2]
        unfold mapGet
        rw [ih h.2]
        by_cases h3 : k = j
        · subst h3; simp [h1, h2]
        · simp [h3]

theorem mapGet_mapPut {m : Memory} (k j : Nat) (v : Byte) :
    mapGet (mapPut m k v) j 0 = if k = j then v else mapGet m j 0 := by
  induction m with
  | nil =>
    simp only [mapPut, mapGet]
    split_ifs <;> simp_all
  | cons c r ih =>
    obtain ⟨a, b⟩ := c
    unfold mapPut
    by_cases h1 : a = k
    · subst h1
      rw [if_pos rfl]
      by_cases h2 : a = j
      · subst h2; simp [mapGet]
      · rw [if_neg h2]; unfold mapGet; rw [if_neg h2, if_neg h2]
    · rw [if_neg h1]
      by_cases h2 : k < a
      · rw [if_pos h2]
        by_cases h3 : k = j
        · subst h3; simp [mapGet]
        · rw [if_neg h3]
          conv_lhs => unfold mapGet
          rw [if_neg h3]
          by_cases hj : j < k
          · rw [if_pos hj]
            unfold mapGet
            rw [if_neg (by omega), if_pos (by omega)]
          · rw [if_neg hj]
      · rw [if_neg h2]
        unfold mapGet
        rw [ih]
        by_cases h3 : k = j
        · subst h3; simp [h1, h2]
        · simp [h3]

/-- A read after a write: the byte written, and every other byte as before (R149). -/
theorem Memory.get_set {m : Memory} (a j : Nat) (b : Byte) (h : m.wf = true) :
    (m.set a b).get j = if a = j then b else m.get j := by
  unfold Memory.get Memory.set mapSet
  split_ifs with h1 h2 h2
  · subst h1; rw [mapGet_mapDel a j h]; simp [h2]
  · subst h1; rw [mapGet_mapDel a j h]; simp [h2]
  · rw [mapGet_mapPut]; simp [h2]
  · rw [mapGet_mapPut]; simp [h2]

/-- A read after a write of bytes. -/
theorem Memory.get_setN (l : List Byte) : ∀ {m : Memory} {a : Nat} (j : Nat), m.wf = true →
    (m.setN a l).get j = if a ≤ j ∧ j < a + l.length then l.getD (j - a) 0 else m.get j := by
  induction l with
  | nil => intro m a j _; rw [if_neg (by simp)]; rfl
  | cons b r ih =>
    intro m a j h
    unfold Memory.setN
    rw [ih j (Memory.wf_set a b h), Memory.get_set a j b h]
    by_cases h1 : a = j
    · subst h1; simp
    · by_cases h2 : a + 1 ≤ j ∧ j < a + 1 + r.length
      · rw [if_pos h2, if_pos (by simp; omega), show j - a = (j - (a + 1)) + 1 from by omega]; rfl
      · rw [if_neg h2, if_neg h1, if_neg (by simp; omega)]

end Sys2Proof.Machine
end

