-- ==== Sys2Proof/Laws/State.lean ====
section
/-! SUPPORT. What each update of the state leaves alone, field by field, and what it sets: no later proof unfolds an update. -/

namespace Sys2Proof.Machine

@[simp] theorem State.setCore_issue (s : State) (c : Nat) (k : Core) : (s.setCore c k).issue = s.issue := rfl
@[simp] theorem State.setCore_mem (s : State) (c : Nat) (k : Core) : (s.setCore c k).mem = s.mem := rfl
@[simp] theorem State.setCore_ue (s : State) (c : Nat) (k : Core) : (s.setCore c k).ue = s.ue := rfl
@[simp] theorem State.setCore_excl (s : State) (c : Nat) (k : Core) : (s.setCore c k).excl = s.excl := rfl
@[simp] theorem State.setCore_tlb (s : State) (c : Nat) (k : Core) : (s.setCore c k).tlb = s.tlb := rfl
@[simp] theorem State.setCore_cant (s : State) (c : Nat) (k : Core) : (s.setCore c k).cant = s.cant := rfl
@[simp] theorem State.setCore_overs (s : State) (c : Nat) (k : Core) : (s.setCore c k).overs = s.overs := rfl
@[simp] theorem State.setCore_gangs (s : State) (c : Nat) (k : Core) : (s.setCore c k).gangs = s.gangs := rfl
@[simp] theorem State.setCore_gangNext (s : State) (c : Nat) (k : Core) : (s.setCore c k).gangNext = s.gangNext := rfl
@[simp] theorem State.setCore_insts (s : State) (c : Nat) (k : Core) : (s.setCore c k).insts = s.insts := rfl
@[simp] theorem State.setCore_instNext (s : State) (c : Nat) (k : Core) : (s.setCore c k).instNext = s.instNext := rfl
@[simp] theorem State.setCore_serials (s : State) (c : Nat) (k : Core) : (s.setCore c k).serials = s.serials := rfl
@[simp] theorem State.setCore_saved (s : State) (c : Nat) (k : Core) : (s.setCore c k).saved = s.saved := rfl
@[simp] theorem State.setCore_graphs (s : State) (c : Nat) (k : Core) : (s.setCore c k).graphs = s.graphs := rfl
@[simp] theorem State.setCore_ginsts (s : State) (c : Nat) (k : Core) : (s.setCore c k).ginsts = s.ginsts := rfl
@[simp] theorem State.setCore_xfers (s : State) (c : Nat) (k : Core) : (s.setCore c k).xfers = s.xfers := rfl
@[simp] theorem State.setCore_readyQ (s : State) (c : Nat) (k : Core) : (s.setCore c k).readyQ = s.readyQ := rfl
@[simp] theorem State.setCore_shards (s : State) (c : Nat) (k : Core) : (s.setCore c k).shards = s.shards := rfl
@[simp] theorem State.setCore_landings (s : State) (c : Nat) (k : Core) : (s.setCore c k).landings = s.landings := rfl
@[simp] theorem State.setCore_landOk (s : State) (c : Nat) (k : Core) : (s.setCore c k).landOk = s.landOk := rfl
@[simp] theorem State.setCore_writeLog (s : State) (c : Nat) (k : Core) : (s.setCore c k).writeLog = s.writeLog := rfl
@[simp] theorem State.setCore_abut (s : State) (c : Nat) (k : Core) : (s.setCore c k).abut = s.abut := rfl
@[simp] theorem State.setCore_parts (s : State) (c : Nat) (k : Core) : (s.setCore c k).parts = s.parts := rfl
@[simp] theorem State.setCore_fdstat (s : State) (c : Nat) (k : Core) : (s.setCore c k).fdstat = s.fdstat := rfl
@[simp] theorem State.setCore_fdclr (s : State) (c : Nat) (k : Core) : (s.setCore c k).fdclr = s.fdclr := rfl
@[simp] theorem State.setCore_sched (s : State) (c : Nat) (k : Core) : (s.setCore c k).sched = s.sched := rfl
@[simp] theorem State.setCore_xl (s : State) (c : Nat) (k : Core) : (s.setCore c k).xl = s.xl := rfl
@[simp] theorem State.setCore_shootW0 (s : State) (c : Nat) (k : Core) : (s.setCore c k).shootW0 = s.shootW0 := rfl
@[simp] theorem State.setCore_shootW1 (s : State) (c : Nat) (k : Core) : (s.setCore c k).shootW1 = s.shootW1 := rfl
@[simp] theorem State.setCore_shoot (s : State) (c : Nat) (k : Core) : (s.setCore c k).shoot = s.shoot := rfl
@[simp] theorem State.setCore_pinq (s : State) (c : Nat) (k : Core) : (s.setCore c k).pinq = s.pinq := rfl
@[simp] theorem State.setCore_migrW0 (s : State) (c : Nat) (k : Core) : (s.setCore c k).migrW0 = s.migrW0 := rfl
@[simp] theorem State.setCore_migrW1 (s : State) (c : Nat) (k : Core) : (s.setCore c k).migrW1 = s.migrW1 := rfl
@[simp] theorem State.setCore_migrW2 (s : State) (c : Nat) (k : Core) : (s.setCore c k).migrW2 = s.migrW2 := rfl
@[simp] theorem State.setCore_migr (s : State) (c : Nat) (k : Core) : (s.setCore c k).migr = s.migr := rfl
@[simp] theorem State.setCore_migrWait (s : State) (c : Nat) (k : Core) : (s.setCore c k).migrWait = s.migrWait := rfl
@[simp] theorem State.setCore_pwrWait (s : State) (c : Nat) (k : Core) : (s.setCore c k).pwrWait = s.pwrWait := rfl
@[simp] theorem State.setCore_excess (s : State) (c : Nat) (k : Core) : (s.setCore c k).excess = s.excess := rfl
@[simp] theorem State.setCore_evq (s : State) (c : Nat) (k : Core) : (s.setCore c k).evq = s.evq := rfl
@[simp] theorem State.setCore_svc (s : State) (c : Nat) (k : Core) : (s.setCore c k).svc = s.svc := rfl
@[simp] theorem State.setCore_ctstat (s : State) (c : Nat) (k : Core) : (s.setCore c k).ctstat = s.ctstat := rfl
@[simp] theorem State.setCore_refused (s : State) (c : Nat) (k : Core) : (s.setCore c k).refused = s.refused := rfl
@[simp] theorem State.setCore_collided (s : State) (c : Nat) (k : Core) : (s.setCore c k).collided = s.collided := rfl
@[simp] theorem State.setCore_markers (s : State) (c : Nat) (k : Core) : (s.setCore c k).markers = s.markers := rfl
@[simp] theorem State.setCore_pwrcfg (s : State) (c : Nat) (k : Core) : (s.setCore c k).pwrcfg = s.pwrcfg := rfl
@[simp] theorem State.setCore_zones (s : State) (c : Nat) (k : Core) : (s.setCore c k).zones = s.zones := rfl
@[simp] theorem State.setCore_pump (s : State) (c : Nat) (k : Core) : (s.setCore c k).pump = s.pump := rfl
@[simp] theorem State.setCore_coolW0 (s : State) (c : Nat) (k : Core) : (s.setCore c k).coolW0 = s.coolW0 := rfl
@[simp] theorem State.setCore_coolW1 (s : State) (c : Nat) (k : Core) : (s.setCore c k).coolW1 = s.coolW1 := rfl
@[simp] theorem State.setCore_drstat (s : State) (c : Nat) (k : Core) : (s.setCore c k).drstat = s.drstat := rfl
@[simp] theorem State.setCore_stretched (s : State) (c : Nat) (k : Core) : (s.setCore c k).stretched = s.stretched := rfl
@[simp] theorem State.setCore_boot (s : State) (c : Nat) (k : Core) : (s.setCore c k).boot = s.boot := rfl
@[simp] theorem State.setCore_booting (s : State) (c : Nat) (k : Core) : (s.setCore c k).booting = s.booting := rfl
@[simp] theorem State.setCore_links (s : State) (c : Nat) (k : Core) : (s.setCore c k).links = s.links := rfl
@[simp] theorem State.setCore_stgt (s : State) (c : Nat) (k : Core) : (s.setCore c k).stgt = s.stgt := rfl
@[simp] theorem State.setCore_ext (s : State) (c : Nat) (k : Core) : (s.setCore c k).ext = s.ext := rfl
@[simp] theorem State.setCore_flash (s : State) (c : Nat) (k : Core) : (s.setCore c k).flash = s.flash := rfl
@[simp] theorem State.setCore_flashErased (s : State) (c : Nat) (k : Core) : (s.setCore c k).flashErased = s.flashErased := rfl
@[simp] theorem State.setCore_mgmtUp (s : State) (c : Nat) (k : Core) : (s.setCore c k).mgmtUp = s.mgmtUp := rfl
@[simp] theorem State.setCore_outbox (s : State) (c : Nat) (k : Core) : (s.setCore c k).outbox = s.outbox := rfl
@[simp] theorem State.setCore_linkOut (s : State) (c : Nat) (k : Core) : (s.setCore c k).linkOut = s.linkOut := rfl
@[simp] theorem State.setCore_rdmaOut (s : State) (c : Nat) (k : Core) : (s.setCore c k).rdmaOut = s.rdmaOut := rfl
@[simp] theorem State.setCore_winOut (s : State) (c : Nat) (k : Core) : (s.setCore c k).winOut = s.winOut := rfl
@[simp] theorem State.setCore_winWait (s : State) (c : Nat) (k : Core) : (s.setCore c k).winWait = s.winWait := rfl
@[simp] theorem State.setCore_rsigs (s : State) (c : Nat) (k : Core) : (s.setCore c k).rsigs = s.rsigs := rfl
@[simp] theorem State.setCore_nvmeOut (s : State) (c : Nat) (k : Core) : (s.setCore c k).nvmeOut = s.nvmeOut := rfl
@[simp] theorem State.setCore_nvmeAsk (s : State) (c : Nat) (k : Core) : (s.setCore c k).nvmeAsk = s.nvmeAsk := rfl
@[simp] theorem State.setCore_summed (s : State) (c : Nat) (k : Core) : (s.setCore c k).summed = s.summed := rfl
@[simp] theorem State.setCore_corrected (s : State) (c : Nat) (k : Core) : (s.setCore c k).corrected = s.corrected := rfl
@[simp] theorem State.setCore_rings (s : State) (c : Nat) (k : Core) : (s.setCore c k).rings = s.rings := rfl
@[simp] theorem State.setCore_slots (s : State) (c : Nat) (k : Core) : (s.setCore c k).slots = s.slots := rfl
@[simp] theorem State.setCore_wqs (s : State) (c : Nat) (k : Core) : (s.setCore c k).wqs = s.wqs := rfl
@[simp] theorem State.setCore_idDev (s : State) (c : Nat) (k : Core) : (s.setCore c k).idDev = s.idDev := rfl
@[simp] theorem State.setCore_powered (s : State) (c : Nat) (k : Core) : (s.setCore c k).powered = s.powered := rfl
@[simp] theorem State.setCore_time (s : State) (c : Nat) (k : Core) : (s.setCore c k).time = s.time := rfl
@[simp] theorem State.setCore_seqNo (s : State) (c : Nat) (k : Core) : (s.setCore c k).seqNo = s.seqNo := rfl
@[simp] theorem State.setCore_freeCtr (s : State) (c : Nat) (k : Core) : (s.setCore c k).freeCtr = s.freeCtr := rfl
@[simp] theorem State.setCore_turn (s : State) (c : Nat) (k : Core) : (s.setCore c k).turn = s.turn := rfl
@[simp] theorem State.setCore_agenda (s : State) (c : Nat) (k : Core) : (s.setCore c k).agenda = s.agenda := rfl
@[simp] theorem State.setCore_retry (s : State) (c : Nat) (k : Core) : (s.setCore c k).retry = s.retry := rfl
@[simp] theorem State.modCore_issue (s : State) (c : Nat) (g : Core → Core) : (s.modCore c g).issue = s.issue := rfl
@[simp] theorem State.modCore_mem (s : State) (c : Nat) (g : Core → Core) : (s.modCore c g).mem = s.mem := rfl
@[simp] theorem State.modCore_ue (s : State) (c : Nat) (g : Core → Core) : (s.modCore c g).ue = s.ue := rfl
@[simp] theorem State.modCore_excl (s : State) (c : Nat) (g : Core → Core) : (s.modCore c g).excl = s.excl := rfl
@[simp] theorem State.modCore_tlb (s : State) (c : Nat) (g : Core → Core) : (s.modCore c g).tlb = s.tlb := rfl
@[simp] theorem State.modCore_cant (s : State) (c : Nat) (g : Core → Core) : (s.modCore c g).cant = s.cant := rfl
@[simp] theorem State.modCore_overs (s : State) (c : Nat) (g : Core → Core) : (s.modCore c g).overs = s.overs := rfl
@[simp] theorem State.modCore_gangs (s : State) (c : Nat) (g : Core → Core) : (s.modCore c g).gangs = s.gangs := rfl
@[simp] theorem State.modCore_gangNext (s : State) (c : Nat) (g : Core → Core) : (s.modCore c g).gangNext = s.gangNext := rfl
@[simp] theorem State.modCore_insts (s : State) (c : Nat) (g : Core → Core) : (s.modCore c g).insts = s.insts := rfl
@[simp] theorem State.modCore_instNext (s : State) (c : Nat) (g : Core → Core) : (s.modCore c g).instNext = s.instNext := rfl
@[simp] theorem State.modCore_serials (s : State) (c : Nat) (g : Core → Core) : (s.modCore c g).serials = s.serials := rfl
@[simp] theorem State.modCore_saved (s : State) (c : Nat) (g : Core → Core) : (s.modCore c g).saved = s.saved := rfl
@[simp] theorem State.modCore_graphs (s : State) (c : Nat) (g : Core → Core) : (s.modCore c g).graphs = s.graphs := rfl
@[simp] theorem State.modCore_ginsts (s : State) (c : Nat) (g : Core → Core) : (s.modCore c g).ginsts = s.ginsts := rfl
@[simp] theorem State.modCore_xfers (s : State) (c : Nat) (g : Core → Core) : (s.modCore c g).xfers = s.xfers := rfl
@[simp] theorem State.modCore_readyQ (s : State) (c : Nat) (g : Core → Core) : (s.modCore c g).readyQ = s.readyQ := rfl
@[simp] theorem State.modCore_shards (s : State) (c : Nat) (g : Core → Core) : (s.modCore c g).shards = s.shards := rfl
@[simp] theorem State.modCore_landings (s : State) (c : Nat) (g : Core → Core) : (s.modCore c g).landings = s.landings := rfl
@[simp] theorem State.modCore_landOk (s : State) (c : Nat) (g : Core → Core) : (s.modCore c g).landOk = s.landOk := rfl
@[simp] theorem State.modCore_writeLog (s : State) (c : Nat) (g : Core → Core) : (s.modCore c g).writeLog = s.writeLog := rfl
@[simp] theorem State.modCore_abut (s : State) (c : Nat) (g : Core → Core) : (s.modCore c g).abut = s.abut := rfl
@[simp] theorem State.modCore_parts (s : State) (c : Nat) (g : Core → Core) : (s.modCore c g).parts = s.parts := rfl
@[simp] theorem State.modCore_fdstat (s : State) (c : Nat) (g : Core → Core) : (s.modCore c g).fdstat = s.fdstat := rfl
@[simp] theorem State.modCore_fdclr (s : State) (c : Nat) (g : Core → Core) : (s.modCore c g).fdclr = s.fdclr := rfl
@[simp] theorem State.modCore_sched (s : State) (c : Nat) (g : Core → Core) : (s.modCore c g).sched = s.sched := rfl
@[simp] theorem State.modCore_xl (s : State) (c : Nat) (g : Core → Core) : (s.modCore c g).xl = s.xl := rfl
@[simp] theorem State.modCore_shootW0 (s : State) (c : Nat) (g : Core → Core) : (s.modCore c g).shootW0 = s.shootW0 := rfl
@[simp] theorem State.modCore_shootW1 (s : State) (c : Nat) (g : Core → Core) : (s.modCore c g).shootW1 = s.shootW1 := rfl
@[simp] theorem State.modCore_shoot (s : State) (c : Nat) (g : Core → Core) : (s.modCore c g).shoot = s.shoot := rfl
@[simp] theorem State.modCore_pinq (s : State) (c : Nat) (g : Core → Core) : (s.modCore c g).pinq = s.pinq := rfl
@[simp] theorem State.modCore_migrW0 (s : State) (c : Nat) (g : Core → Core) : (s.modCore c g).migrW0 = s.migrW0 := rfl
@[simp] theorem State.modCore_migrW1 (s : State) (c : Nat) (g : Core → Core) : (s.modCore c g).migrW1 = s.migrW1 := rfl
@[simp] theorem State.modCore_migrW2 (s : State) (c : Nat) (g : Core → Core) : (s.modCore c g).migrW2 = s.migrW2 := rfl
@[simp] theorem State.modCore_migr (s : State) (c : Nat) (g : Core → Core) : (s.modCore c g).migr = s.migr := rfl
@[simp] theorem State.modCore_migrWait (s : State) (c : Nat) (g : Core → Core) : (s.modCore c g).migrWait = s.migrWait := rfl
@[simp] theorem State.modCore_pwrWait (s : State) (c : Nat) (g : Core → Core) : (s.modCore c g).pwrWait = s.pwrWait := rfl
@[simp] theorem State.modCore_excess (s : State) (c : Nat) (g : Core → Core) : (s.modCore c g).excess = s.excess := rfl
@[simp] theorem State.modCore_evq (s : State) (c : Nat) (g : Core → Core) : (s.modCore c g).evq = s.evq := rfl
@[simp] theorem State.modCore_svc (s : State) (c : Nat) (g : Core → Core) : (s.modCore c g).svc = s.svc := rfl
@[simp] theorem State.modCore_ctstat (s : State) (c : Nat) (g : Core → Core) : (s.modCore c g).ctstat = s.ctstat := rfl
@[simp] theorem State.modCore_refused (s : State) (c : Nat) (g : Core → Core) : (s.modCore c g).refused = s.refused := rfl
@[simp] theorem State.modCore_collided (s : State) (c : Nat) (g : Core → Core) : (s.modCore c g).collided = s.collided := rfl
@[simp] theorem State.modCore_markers (s : State) (c : Nat) (g : Core → Core) : (s.modCore c g).markers = s.markers := rfl
@[simp] theorem State.modCore_pwrcfg (s : State) (c : Nat) (g : Core → Core) : (s.modCore c g).pwrcfg = s.pwrcfg := rfl
@[simp] theorem State.modCore_zones (s : State) (c : Nat) (g : Core → Core) : (s.modCore c g).zones = s.zones := rfl
@[simp] theorem State.modCore_pump (s : State) (c : Nat) (g : Core → Core) : (s.modCore c g).pump = s.pump := rfl
@[simp] theorem State.modCore_coolW0 (s : State) (c : Nat) (g : Core → Core) : (s.modCore c g).coolW0 = s.coolW0 := rfl
@[simp] theorem State.modCore_coolW1 (s : State) (c : Nat) (g : Core → Core) : (s.modCore c g).coolW1 = s.coolW1 := rfl
@[simp] theorem State.modCore_drstat (s : State) (c : Nat) (g : Core → Core) : (s.modCore c g).drstat = s.drstat := rfl
@[simp] theorem State.modCore_stretched (s : State) (c : Nat) (g : Core → Core) : (s.modCore c g).stretched = s.stretched := rfl
@[simp] theorem State.modCore_boot (s : State) (c : Nat) (g : Core → Core) : (s.modCore c g).boot = s.boot := rfl
@[simp] theorem State.modCore_booting (s : State) (c : Nat) (g : Core → Core) : (s.modCore c g).booting = s.booting := rfl
@[simp] theorem State.modCore_links (s : State) (c : Nat) (g : Core → Core) : (s.modCore c g).links = s.links := rfl
@[simp] theorem State.modCore_stgt (s : State) (c : Nat) (g : Core → Core) : (s.modCore c g).stgt = s.stgt := rfl
@[simp] theorem State.modCore_ext (s : State) (c : Nat) (g : Core → Core) : (s.modCore c g).ext = s.ext := rfl
@[simp] theorem State.modCore_flash (s : State) (c : Nat) (g : Core → Core) : (s.modCore c g).flash = s.flash := rfl
@[simp] theorem State.modCore_flashErased (s : State) (c : Nat) (g : Core → Core) : (s.modCore c g).flashErased = s.flashErased := rfl
@[simp] theorem State.modCore_mgmtUp (s : State) (c : Nat) (g : Core → Core) : (s.modCore c g).mgmtUp = s.mgmtUp := rfl
@[simp] theorem State.modCore_outbox (s : State) (c : Nat) (g : Core → Core) : (s.modCore c g).outbox = s.outbox := rfl
@[simp] theorem State.modCore_linkOut (s : State) (c : Nat) (g : Core → Core) : (s.modCore c g).linkOut = s.linkOut := rfl
@[simp] theorem State.modCore_rdmaOut (s : State) (c : Nat) (g : Core → Core) : (s.modCore c g).rdmaOut = s.rdmaOut := rfl
@[simp] theorem State.modCore_winOut (s : State) (c : Nat) (g : Core → Core) : (s.modCore c g).winOut = s.winOut := rfl
@[simp] theorem State.modCore_winWait (s : State) (c : Nat) (g : Core → Core) : (s.modCore c g).winWait = s.winWait := rfl
@[simp] theorem State.modCore_rsigs (s : State) (c : Nat) (g : Core → Core) : (s.modCore c g).rsigs = s.rsigs := rfl
@[simp] theorem State.modCore_nvmeOut (s : State) (c : Nat) (g : Core → Core) : (s.modCore c g).nvmeOut = s.nvmeOut := rfl
@[simp] theorem State.modCore_nvmeAsk (s : State) (c : Nat) (g : Core → Core) : (s.modCore c g).nvmeAsk = s.nvmeAsk := rfl
@[simp] theorem State.modCore_summed (s : State) (c : Nat) (g : Core → Core) : (s.modCore c g).summed = s.summed := rfl
@[simp] theorem State.modCore_corrected (s : State) (c : Nat) (g : Core → Core) : (s.modCore c g).corrected = s.corrected := rfl
@[simp] theorem State.modCore_rings (s : State) (c : Nat) (g : Core → Core) : (s.modCore c g).rings = s.rings := rfl
@[simp] theorem State.modCore_slots (s : State) (c : Nat) (g : Core → Core) : (s.modCore c g).slots = s.slots := rfl
@[simp] theorem State.modCore_wqs (s : State) (c : Nat) (g : Core → Core) : (s.modCore c g).wqs = s.wqs := rfl
@[simp] theorem State.modCore_idDev (s : State) (c : Nat) (g : Core → Core) : (s.modCore c g).idDev = s.idDev := rfl
@[simp] theorem State.modCore_powered (s : State) (c : Nat) (g : Core → Core) : (s.modCore c g).powered = s.powered := rfl
@[simp] theorem State.modCore_time (s : State) (c : Nat) (g : Core → Core) : (s.modCore c g).time = s.time := rfl
@[simp] theorem State.modCore_seqNo (s : State) (c : Nat) (g : Core → Core) : (s.modCore c g).seqNo = s.seqNo := rfl
@[simp] theorem State.modCore_freeCtr (s : State) (c : Nat) (g : Core → Core) : (s.modCore c g).freeCtr = s.freeCtr := rfl
@[simp] theorem State.modCore_turn (s : State) (c : Nat) (g : Core → Core) : (s.modCore c g).turn = s.turn := rfl
@[simp] theorem State.modCore_agenda (s : State) (c : Nat) (g : Core → Core) : (s.modCore c g).agenda = s.agenda := rfl
@[simp] theorem State.modCore_retry (s : State) (c : Nat) (g : Core → Core) : (s.modCore c g).retry = s.retry := rfl
@[simp] theorem State.modCur_issue (s : State) (g : Core → Core) : (s.modCur g).issue = s.issue := rfl
@[simp] theorem State.modCur_mem (s : State) (g : Core → Core) : (s.modCur g).mem = s.mem := rfl
@[simp] theorem State.modCur_ue (s : State) (g : Core → Core) : (s.modCur g).ue = s.ue := rfl
@[simp] theorem State.modCur_excl (s : State) (g : Core → Core) : (s.modCur g).excl = s.excl := rfl
@[simp] theorem State.modCur_tlb (s : State) (g : Core → Core) : (s.modCur g).tlb = s.tlb := rfl
@[simp] theorem State.modCur_cant (s : State) (g : Core → Core) : (s.modCur g).cant = s.cant := rfl
@[simp] theorem State.modCur_overs (s : State) (g : Core → Core) : (s.modCur g).overs = s.overs := rfl
@[simp] theorem State.modCur_gangs (s : State) (g : Core → Core) : (s.modCur g).gangs = s.gangs := rfl
@[simp] theorem State.modCur_gangNext (s : State) (g : Core → Core) : (s.modCur g).gangNext = s.gangNext := rfl
@[simp] theorem State.modCur_insts (s : State) (g : Core → Core) : (s.modCur g).insts = s.insts := rfl
@[simp] theorem State.modCur_instNext (s : State) (g : Core → Core) : (s.modCur g).instNext = s.instNext := rfl
@[simp] theorem State.modCur_serials (s : State) (g : Core → Core) : (s.modCur g).serials = s.serials := rfl
@[simp] theorem State.modCur_saved (s : State) (g : Core → Core) : (s.modCur g).saved = s.saved := rfl
@[simp] theorem State.modCur_graphs (s : State) (g : Core → Core) : (s.modCur g).graphs = s.graphs := rfl
@[simp] theorem State.modCur_ginsts (s : State) (g : Core → Core) : (s.modCur g).ginsts = s.ginsts := rfl
@[simp] theorem State.modCur_xfers (s : State) (g : Core → Core) : (s.modCur g).xfers = s.xfers := rfl
@[simp] theorem State.modCur_readyQ (s : State) (g : Core → Core) : (s.modCur g).readyQ = s.readyQ := rfl
@[simp] theorem State.modCur_shards (s : State) (g : Core → Core) : (s.modCur g).shards = s.shards := rfl
@[simp] theorem State.modCur_landings (s : State) (g : Core → Core) : (s.modCur g).landings = s.landings := rfl
@[simp] theorem State.modCur_landOk (s : State) (g : Core → Core) : (s.modCur g).landOk = s.landOk := rfl
@[simp] theorem State.modCur_writeLog (s : State) (g : Core → Core) : (s.modCur g).writeLog = s.writeLog := rfl
@[simp] theorem State.modCur_abut (s : State) (g : Core → Core) : (s.modCur g).abut = s.abut := rfl
@[simp] theorem State.modCur_parts (s : State) (g : Core → Core) : (s.modCur g).parts = s.parts := rfl
@[simp] theorem State.modCur_fdstat (s : State) (g : Core → Core) : (s.modCur g).fdstat = s.fdstat := rfl
@[simp] theorem State.modCur_fdclr (s : State) (g : Core → Core) : (s.modCur g).fdclr = s.fdclr := rfl
@[simp] theorem State.modCur_sched (s : State) (g : Core → Core) : (s.modCur g).sched = s.sched := rfl
@[simp] theorem State.modCur_xl (s : State) (g : Core → Core) : (s.modCur g).xl = s.xl := rfl
@[simp] theorem State.modCur_shootW0 (s : State) (g : Core → Core) : (s.modCur g).shootW0 = s.shootW0 := rfl
@[simp] theorem State.modCur_shootW1 (s : State) (g : Core → Core) : (s.modCur g).shootW1 = s.shootW1 := rfl
@[simp] theorem State.modCur_shoot (s : State) (g : Core → Core) : (s.modCur g).shoot = s.shoot := rfl
@[simp] theorem State.modCur_pinq (s : State) (g : Core → Core) : (s.modCur g).pinq = s.pinq := rfl
@[simp] theorem State.modCur_migrW0 (s : State) (g : Core → Core) : (s.modCur g).migrW0 = s.migrW0 := rfl
@[simp] theorem State.modCur_migrW1 (s : State) (g : Core → Core) : (s.modCur g).migrW1 = s.migrW1 := rfl
@[simp] theorem State.modCur_migrW2 (s : State) (g : Core → Core) : (s.modCur g).migrW2 = s.migrW2 := rfl
@[simp] theorem State.modCur_migr (s : State) (g : Core → Core) : (s.modCur g).migr = s.migr := rfl
@[simp] theorem State.modCur_migrWait (s : State) (g : Core → Core) : (s.modCur g).migrWait = s.migrWait := rfl
@[simp] theorem State.modCur_pwrWait (s : State) (g : Core → Core) : (s.modCur g).pwrWait = s.pwrWait := rfl
@[simp] theorem State.modCur_excess (s : State) (g : Core → Core) : (s.modCur g).excess = s.excess := rfl
@[simp] theorem State.modCur_evq (s : State) (g : Core → Core) : (s.modCur g).evq = s.evq := rfl
@[simp] theorem State.modCur_svc (s : State) (g : Core → Core) : (s.modCur g).svc = s.svc := rfl
@[simp] theorem State.modCur_ctstat (s : State) (g : Core → Core) : (s.modCur g).ctstat = s.ctstat := rfl
@[simp] theorem State.modCur_refused (s : State) (g : Core → Core) : (s.modCur g).refused = s.refused := rfl
@[simp] theorem State.modCur_collided (s : State) (g : Core → Core) : (s.modCur g).collided = s.collided := rfl
@[simp] theorem State.modCur_markers (s : State) (g : Core → Core) : (s.modCur g).markers = s.markers := rfl
@[simp] theorem State.modCur_pwrcfg (s : State) (g : Core → Core) : (s.modCur g).pwrcfg = s.pwrcfg := rfl
@[simp] theorem State.modCur_zones (s : State) (g : Core → Core) : (s.modCur g).zones = s.zones := rfl
@[simp] theorem State.modCur_pump (s : State) (g : Core → Core) : (s.modCur g).pump = s.pump := rfl
@[simp] theorem State.modCur_coolW0 (s : State) (g : Core → Core) : (s.modCur g).coolW0 = s.coolW0 := rfl
@[simp] theorem State.modCur_coolW1 (s : State) (g : Core → Core) : (s.modCur g).coolW1 = s.coolW1 := rfl
@[simp] theorem State.modCur_drstat (s : State) (g : Core → Core) : (s.modCur g).drstat = s.drstat := rfl
@[simp] theorem State.modCur_stretched (s : State) (g : Core → Core) : (s.modCur g).stretched = s.stretched := rfl
@[simp] theorem State.modCur_boot (s : State) (g : Core → Core) : (s.modCur g).boot = s.boot := rfl
@[simp] theorem State.modCur_booting (s : State) (g : Core → Core) : (s.modCur g).booting = s.booting := rfl
@[simp] theorem State.modCur_links (s : State) (g : Core → Core) : (s.modCur g).links = s.links := rfl
@[simp] theorem State.modCur_stgt (s : State) (g : Core → Core) : (s.modCur g).stgt = s.stgt := rfl
@[simp] theorem State.modCur_ext (s : State) (g : Core → Core) : (s.modCur g).ext = s.ext := rfl
@[simp] theorem State.modCur_flash (s : State) (g : Core → Core) : (s.modCur g).flash = s.flash := rfl
@[simp] theorem State.modCur_flashErased (s : State) (g : Core → Core) : (s.modCur g).flashErased = s.flashErased := rfl
@[simp] theorem State.modCur_mgmtUp (s : State) (g : Core → Core) : (s.modCur g).mgmtUp = s.mgmtUp := rfl
@[simp] theorem State.modCur_outbox (s : State) (g : Core → Core) : (s.modCur g).outbox = s.outbox := rfl
@[simp] theorem State.modCur_linkOut (s : State) (g : Core → Core) : (s.modCur g).linkOut = s.linkOut := rfl
@[simp] theorem State.modCur_rdmaOut (s : State) (g : Core → Core) : (s.modCur g).rdmaOut = s.rdmaOut := rfl
@[simp] theorem State.modCur_winOut (s : State) (g : Core → Core) : (s.modCur g).winOut = s.winOut := rfl
@[simp] theorem State.modCur_winWait (s : State) (g : Core → Core) : (s.modCur g).winWait = s.winWait := rfl
@[simp] theorem State.modCur_rsigs (s : State) (g : Core → Core) : (s.modCur g).rsigs = s.rsigs := rfl
@[simp] theorem State.modCur_nvmeOut (s : State) (g : Core → Core) : (s.modCur g).nvmeOut = s.nvmeOut := rfl
@[simp] theorem State.modCur_nvmeAsk (s : State) (g : Core → Core) : (s.modCur g).nvmeAsk = s.nvmeAsk := rfl
@[simp] theorem State.modCur_summed (s : State) (g : Core → Core) : (s.modCur g).summed = s.summed := rfl
@[simp] theorem State.modCur_corrected (s : State) (g : Core → Core) : (s.modCur g).corrected = s.corrected := rfl
@[simp] theorem State.modCur_rings (s : State) (g : Core → Core) : (s.modCur g).rings = s.rings := rfl
@[simp] theorem State.modCur_slots (s : State) (g : Core → Core) : (s.modCur g).slots = s.slots := rfl
@[simp] theorem State.modCur_wqs (s : State) (g : Core → Core) : (s.modCur g).wqs = s.wqs := rfl
@[simp] theorem State.modCur_idDev (s : State) (g : Core → Core) : (s.modCur g).idDev = s.idDev := rfl
@[simp] theorem State.modCur_powered (s : State) (g : Core → Core) : (s.modCur g).powered = s.powered := rfl
@[simp] theorem State.modCur_time (s : State) (g : Core → Core) : (s.modCur g).time = s.time := rfl
@[simp] theorem State.modCur_seqNo (s : State) (g : Core → Core) : (s.modCur g).seqNo = s.seqNo := rfl
@[simp] theorem State.modCur_freeCtr (s : State) (g : Core → Core) : (s.modCur g).freeCtr = s.freeCtr := rfl
@[simp] theorem State.modCur_turn (s : State) (g : Core → Core) : (s.modCur g).turn = s.turn := rfl
@[simp] theorem State.modCur_agenda (s : State) (g : Core → Core) : (s.modCur g).agenda = s.agenda := rfl
@[simp] theorem State.modCur_retry (s : State) (g : Core → Core) : (s.modCur g).retry = s.retry := rfl
@[simp] theorem State.modW_issue (s : State) (g : WalkerSt → WalkerSt) : (s.modW g).issue = s.issue := rfl
@[simp] theorem State.modW_mem (s : State) (g : WalkerSt → WalkerSt) : (s.modW g).mem = s.mem := rfl
@[simp] theorem State.modW_ue (s : State) (g : WalkerSt → WalkerSt) : (s.modW g).ue = s.ue := rfl
@[simp] theorem State.modW_excl (s : State) (g : WalkerSt → WalkerSt) : (s.modW g).excl = s.excl := rfl
@[simp] theorem State.modW_tlb (s : State) (g : WalkerSt → WalkerSt) : (s.modW g).tlb = s.tlb := rfl
@[simp] theorem State.modW_cant (s : State) (g : WalkerSt → WalkerSt) : (s.modW g).cant = s.cant := rfl
@[simp] theorem State.modW_overs (s : State) (g : WalkerSt → WalkerSt) : (s.modW g).overs = s.overs := rfl
@[simp] theorem State.modW_gangs (s : State) (g : WalkerSt → WalkerSt) : (s.modW g).gangs = s.gangs := rfl
@[simp] theorem State.modW_gangNext (s : State) (g : WalkerSt → WalkerSt) : (s.modW g).gangNext = s.gangNext := rfl
@[simp] theorem State.modW_insts (s : State) (g : WalkerSt → WalkerSt) : (s.modW g).insts = s.insts := rfl
@[simp] theorem State.modW_instNext (s : State) (g : WalkerSt → WalkerSt) : (s.modW g).instNext = s.instNext := rfl
@[simp] theorem State.modW_serials (s : State) (g : WalkerSt → WalkerSt) : (s.modW g).serials = s.serials := rfl
@[simp] theorem State.modW_saved (s : State) (g : WalkerSt → WalkerSt) : (s.modW g).saved = s.saved := rfl
@[simp] theorem State.modW_graphs (s : State) (g : WalkerSt → WalkerSt) : (s.modW g).graphs = s.graphs := rfl
@[simp] theorem State.modW_ginsts (s : State) (g : WalkerSt → WalkerSt) : (s.modW g).ginsts = s.ginsts := rfl
@[simp] theorem State.modW_xfers (s : State) (g : WalkerSt → WalkerSt) : (s.modW g).xfers = s.xfers := rfl
@[simp] theorem State.modW_readyQ (s : State) (g : WalkerSt → WalkerSt) : (s.modW g).readyQ = s.readyQ := rfl
@[simp] theorem State.modW_shards (s : State) (g : WalkerSt → WalkerSt) : (s.modW g).shards = s.shards := rfl
@[simp] theorem State.modW_landings (s : State) (g : WalkerSt → WalkerSt) : (s.modW g).landings = s.landings := rfl
@[simp] theorem State.modW_landOk (s : State) (g : WalkerSt → WalkerSt) : (s.modW g).landOk = s.landOk := rfl
@[simp] theorem State.modW_writeLog (s : State) (g : WalkerSt → WalkerSt) : (s.modW g).writeLog = s.writeLog := rfl
@[simp] theorem State.modW_abut (s : State) (g : WalkerSt → WalkerSt) : (s.modW g).abut = s.abut := rfl
@[simp] theorem State.modW_parts (s : State) (g : WalkerSt → WalkerSt) : (s.modW g).parts = s.parts := rfl
@[simp] theorem State.modW_fdstat (s : State) (g : WalkerSt → WalkerSt) : (s.modW g).fdstat = s.fdstat := rfl
@[simp] theorem State.modW_fdclr (s : State) (g : WalkerSt → WalkerSt) : (s.modW g).fdclr = s.fdclr := rfl
@[simp] theorem State.modW_sched (s : State) (g : WalkerSt → WalkerSt) : (s.modW g).sched = s.sched := rfl
@[simp] theorem State.modW_xl (s : State) (g : WalkerSt → WalkerSt) : (s.modW g).xl = s.xl := rfl
@[simp] theorem State.modW_shootW0 (s : State) (g : WalkerSt → WalkerSt) : (s.modW g).shootW0 = s.shootW0 := rfl
@[simp] theorem State.modW_shootW1 (s : State) (g : WalkerSt → WalkerSt) : (s.modW g).shootW1 = s.shootW1 := rfl
@[simp] theorem State.modW_shoot (s : State) (g : WalkerSt → WalkerSt) : (s.modW g).shoot = s.shoot := rfl
@[simp] theorem State.modW_pinq (s : State) (g : WalkerSt → WalkerSt) : (s.modW g).pinq = s.pinq := rfl
@[simp] theorem State.modW_migrW0 (s : State) (g : WalkerSt → WalkerSt) : (s.modW g).migrW0 = s.migrW0 := rfl
@[simp] theorem State.modW_migrW1 (s : State) (g : WalkerSt → WalkerSt) : (s.modW g).migrW1 = s.migrW1 := rfl
@[simp] theorem State.modW_migrW2 (s : State) (g : WalkerSt → WalkerSt) : (s.modW g).migrW2 = s.migrW2 := rfl
@[simp] theorem State.modW_migr (s : State) (g : WalkerSt → WalkerSt) : (s.modW g).migr = s.migr := rfl
@[simp] theorem State.modW_migrWait (s : State) (g : WalkerSt → WalkerSt) : (s.modW g).migrWait = s.migrWait := rfl
@[simp] theorem State.modW_pwrWait (s : State) (g : WalkerSt → WalkerSt) : (s.modW g).pwrWait = s.pwrWait := rfl
@[simp] theorem State.modW_excess (s : State) (g : WalkerSt → WalkerSt) : (s.modW g).excess = s.excess := rfl
@[simp] theorem State.modW_evq (s : State) (g : WalkerSt → WalkerSt) : (s.modW g).evq = s.evq := rfl
@[simp] theorem State.modW_svc (s : State) (g : WalkerSt → WalkerSt) : (s.modW g).svc = s.svc := rfl
@[simp] theorem State.modW_ctstat (s : State) (g : WalkerSt → WalkerSt) : (s.modW g).ctstat = s.ctstat := rfl
@[simp] theorem State.modW_refused (s : State) (g : WalkerSt → WalkerSt) : (s.modW g).refused = s.refused := rfl
@[simp] theorem State.modW_collided (s : State) (g : WalkerSt → WalkerSt) : (s.modW g).collided = s.collided := rfl
@[simp] theorem State.modW_markers (s : State) (g : WalkerSt → WalkerSt) : (s.modW g).markers = s.markers := rfl
@[simp] theorem State.modW_pwrcfg (s : State) (g : WalkerSt → WalkerSt) : (s.modW g).pwrcfg = s.pwrcfg := rfl
@[simp] theorem State.modW_zones (s : State) (g : WalkerSt → WalkerSt) : (s.modW g).zones = s.zones := rfl
@[simp] theorem State.modW_pump (s : State) (g : WalkerSt → WalkerSt) : (s.modW g).pump = s.pump := rfl
@[simp] theorem State.modW_coolW0 (s : State) (g : WalkerSt → WalkerSt) : (s.modW g).coolW0 = s.coolW0 := rfl
@[simp] theorem State.modW_coolW1 (s : State) (g : WalkerSt → WalkerSt) : (s.modW g).coolW1 = s.coolW1 := rfl
@[simp] theorem State.modW_drstat (s : State) (g : WalkerSt → WalkerSt) : (s.modW g).drstat = s.drstat := rfl
@[simp] theorem State.modW_stretched (s : State) (g : WalkerSt → WalkerSt) : (s.modW g).stretched = s.stretched := rfl
@[simp] theorem State.modW_boot (s : State) (g : WalkerSt → WalkerSt) : (s.modW g).boot = s.boot := rfl
@[simp] theorem State.modW_booting (s : State) (g : WalkerSt → WalkerSt) : (s.modW g).booting = s.booting := rfl
@[simp] theorem State.modW_links (s : State) (g : WalkerSt → WalkerSt) : (s.modW g).links = s.links := rfl
@[simp] theorem State.modW_stgt (s : State) (g : WalkerSt → WalkerSt) : (s.modW g).stgt = s.stgt := rfl
@[simp] theorem State.modW_ext (s : State) (g : WalkerSt → WalkerSt) : (s.modW g).ext = s.ext := rfl
@[simp] theorem State.modW_flash (s : State) (g : WalkerSt → WalkerSt) : (s.modW g).flash = s.flash := rfl
@[simp] theorem State.modW_flashErased (s : State) (g : WalkerSt → WalkerSt) : (s.modW g).flashErased = s.flashErased := rfl
@[simp] theorem State.modW_mgmtUp (s : State) (g : WalkerSt → WalkerSt) : (s.modW g).mgmtUp = s.mgmtUp := rfl
@[simp] theorem State.modW_outbox (s : State) (g : WalkerSt → WalkerSt) : (s.modW g).outbox = s.outbox := rfl
@[simp] theorem State.modW_linkOut (s : State) (g : WalkerSt → WalkerSt) : (s.modW g).linkOut = s.linkOut := rfl
@[simp] theorem State.modW_rdmaOut (s : State) (g : WalkerSt → WalkerSt) : (s.modW g).rdmaOut = s.rdmaOut := rfl
@[simp] theorem State.modW_winOut (s : State) (g : WalkerSt → WalkerSt) : (s.modW g).winOut = s.winOut := rfl
@[simp] theorem State.modW_winWait (s : State) (g : WalkerSt → WalkerSt) : (s.modW g).winWait = s.winWait := rfl
@[simp] theorem State.modW_rsigs (s : State) (g : WalkerSt → WalkerSt) : (s.modW g).rsigs = s.rsigs := rfl
@[simp] theorem State.modW_nvmeOut (s : State) (g : WalkerSt → WalkerSt) : (s.modW g).nvmeOut = s.nvmeOut := rfl
@[simp] theorem State.modW_nvmeAsk (s : State) (g : WalkerSt → WalkerSt) : (s.modW g).nvmeAsk = s.nvmeAsk := rfl
@[simp] theorem State.modW_summed (s : State) (g : WalkerSt → WalkerSt) : (s.modW g).summed = s.summed := rfl
@[simp] theorem State.modW_corrected (s : State) (g : WalkerSt → WalkerSt) : (s.modW g).corrected = s.corrected := rfl
@[simp] theorem State.modW_rings (s : State) (g : WalkerSt → WalkerSt) : (s.modW g).rings = s.rings := rfl
@[simp] theorem State.modW_slots (s : State) (g : WalkerSt → WalkerSt) : (s.modW g).slots = s.slots := rfl
@[simp] theorem State.modW_wqs (s : State) (g : WalkerSt → WalkerSt) : (s.modW g).wqs = s.wqs := rfl
@[simp] theorem State.modW_idDev (s : State) (g : WalkerSt → WalkerSt) : (s.modW g).idDev = s.idDev := rfl
@[simp] theorem State.modW_powered (s : State) (g : WalkerSt → WalkerSt) : (s.modW g).powered = s.powered := rfl
@[simp] theorem State.modW_time (s : State) (g : WalkerSt → WalkerSt) : (s.modW g).time = s.time := rfl
@[simp] theorem State.modW_seqNo (s : State) (g : WalkerSt → WalkerSt) : (s.modW g).seqNo = s.seqNo := rfl
@[simp] theorem State.modW_freeCtr (s : State) (g : WalkerSt → WalkerSt) : (s.modW g).freeCtr = s.freeCtr := rfl
@[simp] theorem State.modW_turn (s : State) (g : WalkerSt → WalkerSt) : (s.modW g).turn = s.turn := rfl
@[simp] theorem State.modW_agenda (s : State) (g : WalkerSt → WalkerSt) : (s.modW g).agenda = s.agenda := rfl
@[simp] theorem State.modW_retry (s : State) (g : WalkerSt → WalkerSt) : (s.modW g).retry = s.retry := rfl
@[simp] theorem State.waitOn_cores (s : State) (r o b : Nat) (a : VA) : (s.waitOn r o b a).cores = s.cores := rfl
@[simp] theorem State.waitOn_mem (s : State) (r o b : Nat) (a : VA) : (s.waitOn r o b a).mem = s.mem := rfl
@[simp] theorem State.waitOn_ue (s : State) (r o b : Nat) (a : VA) : (s.waitOn r o b a).ue = s.ue := rfl
@[simp] theorem State.waitOn_excl (s : State) (r o b : Nat) (a : VA) : (s.waitOn r o b a).excl = s.excl := rfl
@[simp] theorem State.waitOn_tlb (s : State) (r o b : Nat) (a : VA) : (s.waitOn r o b a).tlb = s.tlb := rfl
@[simp] theorem State.waitOn_cant (s : State) (r o b : Nat) (a : VA) : (s.waitOn r o b a).cant = s.cant := rfl
@[simp] theorem State.waitOn_overs (s : State) (r o b : Nat) (a : VA) : (s.waitOn r o b a).overs = s.overs := rfl
@[simp] theorem State.waitOn_gangs (s : State) (r o b : Nat) (a : VA) : (s.waitOn r o b a).gangs = s.gangs := rfl
@[simp] theorem State.waitOn_gangNext (s : State) (r o b : Nat) (a : VA) : (s.waitOn r o b a).gangNext = s.gangNext := rfl
@[simp] theorem State.waitOn_insts (s : State) (r o b : Nat) (a : VA) : (s.waitOn r o b a).insts = s.insts := rfl
@[simp] theorem State.waitOn_instNext (s : State) (r o b : Nat) (a : VA) : (s.waitOn r o b a).instNext = s.instNext := rfl
@[simp] theorem State.waitOn_serials (s : State) (r o b : Nat) (a : VA) : (s.waitOn r o b a).serials = s.serials := rfl
@[simp] theorem State.waitOn_saved (s : State) (r o b : Nat) (a : VA) : (s.waitOn r o b a).saved = s.saved := rfl
@[simp] theorem State.waitOn_graphs (s : State) (r o b : Nat) (a : VA) : (s.waitOn r o b a).graphs = s.graphs := rfl
@[simp] theorem State.waitOn_ginsts (s : State) (r o b : Nat) (a : VA) : (s.waitOn r o b a).ginsts = s.ginsts := rfl
@[simp] theorem State.waitOn_xfers (s : State) (r o b : Nat) (a : VA) : (s.waitOn r o b a).xfers = s.xfers := rfl
@[simp] theorem State.waitOn_readyQ (s : State) (r o b : Nat) (a : VA) : (s.waitOn r o b a).readyQ = s.readyQ := rfl
@[simp] theorem State.waitOn_shards (s : State) (r o b : Nat) (a : VA) : (s.waitOn r o b a).shards = s.shards := rfl
@[simp] theorem State.waitOn_landings (s : State) (r o b : Nat) (a : VA) : (s.waitOn r o b a).landings = s.landings := rfl
@[simp] theorem State.waitOn_landOk (s : State) (r o b : Nat) (a : VA) : (s.waitOn r o b a).landOk = s.landOk := rfl
@[simp] theorem State.waitOn_writeLog (s : State) (r o b : Nat) (a : VA) : (s.waitOn r o b a).writeLog = s.writeLog := rfl
@[simp] theorem State.waitOn_abut (s : State) (r o b : Nat) (a : VA) : (s.waitOn r o b a).abut = s.abut := rfl
@[simp] theorem State.waitOn_parts (s : State) (r o b : Nat) (a : VA) : (s.waitOn r o b a).parts = s.parts := rfl
@[simp] theorem State.waitOn_fdstat (s : State) (r o b : Nat) (a : VA) : (s.waitOn r o b a).fdstat = s.fdstat := rfl
@[simp] theorem State.waitOn_fdclr (s : State) (r o b : Nat) (a : VA) : (s.waitOn r o b a).fdclr = s.fdclr := rfl
@[simp] theorem State.waitOn_sched (s : State) (r o b : Nat) (a : VA) : (s.waitOn r o b a).sched = s.sched := rfl
@[simp] theorem State.waitOn_xl (s : State) (r o b : Nat) (a : VA) : (s.waitOn r o b a).xl = s.xl := rfl
@[simp] theorem State.waitOn_shootW0 (s : State) (r o b : Nat) (a : VA) : (s.waitOn r o b a).shootW0 = s.shootW0 := rfl
@[simp] theorem State.waitOn_shootW1 (s : State) (r o b : Nat) (a : VA) : (s.waitOn r o b a).shootW1 = s.shootW1 := rfl
@[simp] theorem State.waitOn_shoot (s : State) (r o b : Nat) (a : VA) : (s.waitOn r o b a).shoot = s.shoot := rfl
@[simp] theorem State.waitOn_pinq (s : State) (r o b : Nat) (a : VA) : (s.waitOn r o b a).pinq = s.pinq := rfl
@[simp] theorem State.waitOn_migrW0 (s : State) (r o b : Nat) (a : VA) : (s.waitOn r o b a).migrW0 = s.migrW0 := rfl
@[simp] theorem State.waitOn_migrW1 (s : State) (r o b : Nat) (a : VA) : (s.waitOn r o b a).migrW1 = s.migrW1 := rfl
@[simp] theorem State.waitOn_migrW2 (s : State) (r o b : Nat) (a : VA) : (s.waitOn r o b a).migrW2 = s.migrW2 := rfl
@[simp] theorem State.waitOn_migr (s : State) (r o b : Nat) (a : VA) : (s.waitOn r o b a).migr = s.migr := rfl
@[simp] theorem State.waitOn_migrWait (s : State) (r o b : Nat) (a : VA) : (s.waitOn r o b a).migrWait = s.migrWait := rfl
@[simp] theorem State.waitOn_pwrWait (s : State) (r o b : Nat) (a : VA) : (s.waitOn r o b a).pwrWait = s.pwrWait := rfl
@[simp] theorem State.waitOn_excess (s : State) (r o b : Nat) (a : VA) : (s.waitOn r o b a).excess = s.excess := rfl
@[simp] theorem State.waitOn_evq (s : State) (r o b : Nat) (a : VA) : (s.waitOn r o b a).evq = s.evq := rfl
@[simp] theorem State.waitOn_svc (s : State) (r o b : Nat) (a : VA) : (s.waitOn r o b a).svc = s.svc := rfl
@[simp] theorem State.waitOn_ctstat (s : State) (r o b : Nat) (a : VA) : (s.waitOn r o b a).ctstat = s.ctstat := rfl
@[simp] theorem State.waitOn_refused (s : State) (r o b : Nat) (a : VA) : (s.waitOn r o b a).refused = s.refused := rfl
@[simp] theorem State.waitOn_collided (s : State) (r o b : Nat) (a : VA) : (s.waitOn r o b a).collided = s.collided := rfl
@[simp] theorem State.waitOn_markers (s : State) (r o b : Nat) (a : VA) : (s.waitOn r o b a).markers = s.markers := rfl
@[simp] theorem State.waitOn_pwrcfg (s : State) (r o b : Nat) (a : VA) : (s.waitOn r o b a).pwrcfg = s.pwrcfg := rfl
@[simp] theorem State.waitOn_zones (s : State) (r o b : Nat) (a : VA) : (s.waitOn r o b a).zones = s.zones := rfl
@[simp] theorem State.waitOn_pump (s : State) (r o b : Nat) (a : VA) : (s.waitOn r o b a).pump = s.pump := rfl
@[simp] theorem State.waitOn_coolW0 (s : State) (r o b : Nat) (a : VA) : (s.waitOn r o b a).coolW0 = s.coolW0 := rfl
@[simp] theorem State.waitOn_coolW1 (s : State) (r o b : Nat) (a : VA) : (s.waitOn r o b a).coolW1 = s.coolW1 := rfl
@[simp] theorem State.waitOn_drstat (s : State) (r o b : Nat) (a : VA) : (s.waitOn r o b a).drstat = s.drstat := rfl
@[simp] theorem State.waitOn_stretched (s : State) (r o b : Nat) (a : VA) : (s.waitOn r o b a).stretched = s.stretched := rfl
@[simp] theorem State.waitOn_boot (s : State) (r o b : Nat) (a : VA) : (s.waitOn r o b a).boot = s.boot := rfl
@[simp] theorem State.waitOn_booting (s : State) (r o b : Nat) (a : VA) : (s.waitOn r o b a).booting = s.booting := rfl
@[simp] theorem State.waitOn_links (s : State) (r o b : Nat) (a : VA) : (s.waitOn r o b a).links = s.links := rfl
@[simp] theorem State.waitOn_stgt (s : State) (r o b : Nat) (a : VA) : (s.waitOn r o b a).stgt = s.stgt := rfl
@[simp] theorem State.waitOn_ext (s : State) (r o b : Nat) (a : VA) : (s.waitOn r o b a).ext = s.ext := rfl
@[simp] theorem State.waitOn_flash (s : State) (r o b : Nat) (a : VA) : (s.waitOn r o b a).flash = s.flash := rfl
@[simp] theorem State.waitOn_flashErased (s : State) (r o b : Nat) (a : VA) : (s.waitOn r o b a).flashErased = s.flashErased := rfl
@[simp] theorem State.waitOn_mgmtUp (s : State) (r o b : Nat) (a : VA) : (s.waitOn r o b a).mgmtUp = s.mgmtUp := rfl
@[simp] theorem State.waitOn_outbox (s : State) (r o b : Nat) (a : VA) : (s.waitOn r o b a).outbox = s.outbox := rfl
@[simp] theorem State.waitOn_linkOut (s : State) (r o b : Nat) (a : VA) : (s.waitOn r o b a).linkOut = s.linkOut := rfl
@[simp] theorem State.waitOn_rdmaOut (s : State) (r o b : Nat) (a : VA) : (s.waitOn r o b a).rdmaOut = s.rdmaOut := rfl
@[simp] theorem State.waitOn_winOut (s : State) (r o b : Nat) (a : VA) : (s.waitOn r o b a).winOut = s.winOut := rfl
@[simp] theorem State.waitOn_winWait (s : State) (r o b : Nat) (a : VA) : (s.waitOn r o b a).winWait = s.winWait := rfl
@[simp] theorem State.waitOn_rsigs (s : State) (r o b : Nat) (a : VA) : (s.waitOn r o b a).rsigs = s.rsigs := rfl
@[simp] theorem State.waitOn_nvmeOut (s : State) (r o b : Nat) (a : VA) : (s.waitOn r o b a).nvmeOut = s.nvmeOut := rfl
@[simp] theorem State.waitOn_nvmeAsk (s : State) (r o b : Nat) (a : VA) : (s.waitOn r o b a).nvmeAsk = s.nvmeAsk := rfl
@[simp] theorem State.waitOn_summed (s : State) (r o b : Nat) (a : VA) : (s.waitOn r o b a).summed = s.summed := rfl
@[simp] theorem State.waitOn_corrected (s : State) (r o b : Nat) (a : VA) : (s.waitOn r o b a).corrected = s.corrected := rfl
@[simp] theorem State.waitOn_rings (s : State) (r o b : Nat) (a : VA) : (s.waitOn r o b a).rings = s.rings := rfl
@[simp] theorem State.waitOn_slots (s : State) (r o b : Nat) (a : VA) : (s.waitOn r o b a).slots = s.slots := rfl
@[simp] theorem State.waitOn_wqs (s : State) (r o b : Nat) (a : VA) : (s.waitOn r o b a).wqs = s.wqs := rfl
@[simp] theorem State.waitOn_idDev (s : State) (r o b : Nat) (a : VA) : (s.waitOn r o b a).idDev = s.idDev := rfl
@[simp] theorem State.waitOn_powered (s : State) (r o b : Nat) (a : VA) : (s.waitOn r o b a).powered = s.powered := rfl
@[simp] theorem State.waitOn_time (s : State) (r o b : Nat) (a : VA) : (s.waitOn r o b a).time = s.time := rfl
@[simp] theorem State.waitOn_seqNo (s : State) (r o b : Nat) (a : VA) : (s.waitOn r o b a).seqNo = s.seqNo := rfl
@[simp] theorem State.waitOn_freeCtr (s : State) (r o b : Nat) (a : VA) : (s.waitOn r o b a).freeCtr = s.freeCtr := rfl
@[simp] theorem State.waitOn_turn (s : State) (r o b : Nat) (a : VA) : (s.waitOn r o b a).turn = s.turn := rfl
@[simp] theorem State.waitOn_agenda (s : State) (r o b : Nat) (a : VA) : (s.waitOn r o b a).agenda = s.agenda := rfl
@[simp] theorem State.waitOn_retry (s : State) (r o b : Nat) (a : VA) : (s.waitOn r o b a).retry = s.retry := rfl
@[simp] theorem State.wr_cores (s : State) (l : Nat) (b : List Byte) : (s.wr l b).cores = s.cores := rfl
@[simp] theorem State.wr_issue (s : State) (l : Nat) (b : List Byte) : (s.wr l b).issue = s.issue := rfl
@[simp] theorem State.wr_tlb (s : State) (l : Nat) (b : List Byte) : (s.wr l b).tlb = s.tlb := rfl
@[simp] theorem State.wr_cant (s : State) (l : Nat) (b : List Byte) : (s.wr l b).cant = s.cant := rfl
@[simp] theorem State.wr_overs (s : State) (l : Nat) (b : List Byte) : (s.wr l b).overs = s.overs := rfl
@[simp] theorem State.wr_gangs (s : State) (l : Nat) (b : List Byte) : (s.wr l b).gangs = s.gangs := rfl
@[simp] theorem State.wr_gangNext (s : State) (l : Nat) (b : List Byte) : (s.wr l b).gangNext = s.gangNext := rfl
@[simp] theorem State.wr_insts (s : State) (l : Nat) (b : List Byte) : (s.wr l b).insts = s.insts := rfl
@[simp] theorem State.wr_instNext (s : State) (l : Nat) (b : List Byte) : (s.wr l b).instNext = s.instNext := rfl
@[simp] theorem State.wr_serials (s : State) (l : Nat) (b : List Byte) : (s.wr l b).serials = s.serials := rfl
@[simp] theorem State.wr_saved (s : State) (l : Nat) (b : List Byte) : (s.wr l b).saved = s.saved := rfl
@[simp] theorem State.wr_graphs (s : State) (l : Nat) (b : List Byte) : (s.wr l b).graphs = s.graphs := rfl
@[simp] theorem State.wr_ginsts (s : State) (l : Nat) (b : List Byte) : (s.wr l b).ginsts = s.ginsts := rfl
@[simp] theorem State.wr_xfers (s : State) (l : Nat) (b : List Byte) : (s.wr l b).xfers = s.xfers := rfl
@[simp] theorem State.wr_readyQ (s : State) (l : Nat) (b : List Byte) : (s.wr l b).readyQ = s.readyQ := rfl
@[simp] theorem State.wr_shards (s : State) (l : Nat) (b : List Byte) : (s.wr l b).shards = s.shards := rfl
@[simp] theorem State.wr_landings (s : State) (l : Nat) (b : List Byte) : (s.wr l b).landings = s.landings := rfl
@[simp] theorem State.wr_landOk (s : State) (l : Nat) (b : List Byte) : (s.wr l b).landOk = s.landOk := rfl
@[simp] theorem State.wr_writeLog (s : State) (l : Nat) (b : List Byte) : (s.wr l b).writeLog = s.writeLog := rfl
@[simp] theorem State.wr_abut (s : State) (l : Nat) (b : List Byte) : (s.wr l b).abut = s.abut := rfl
@[simp] theorem State.wr_parts (s : State) (l : Nat) (b : List Byte) : (s.wr l b).parts = s.parts := rfl
@[simp] theorem State.wr_fdstat (s : State) (l : Nat) (b : List Byte) : (s.wr l b).fdstat = s.fdstat := rfl
@[simp] theorem State.wr_fdclr (s : State) (l : Nat) (b : List Byte) : (s.wr l b).fdclr = s.fdclr := rfl
@[simp] theorem State.wr_sched (s : State) (l : Nat) (b : List Byte) : (s.wr l b).sched = s.sched := rfl
@[simp] theorem State.wr_xl (s : State) (l : Nat) (b : List Byte) : (s.wr l b).xl = s.xl := rfl
@[simp] theorem State.wr_shootW0 (s : State) (l : Nat) (b : List Byte) : (s.wr l b).shootW0 = s.shootW0 := rfl
@[simp] theorem State.wr_shootW1 (s : State) (l : Nat) (b : List Byte) : (s.wr l b).shootW1 = s.shootW1 := rfl
@[simp] theorem State.wr_shoot (s : State) (l : Nat) (b : List Byte) : (s.wr l b).shoot = s.shoot := rfl
@[simp] theorem State.wr_pinq (s : State) (l : Nat) (b : List Byte) : (s.wr l b).pinq = s.pinq := rfl
@[simp] theorem State.wr_migrW0 (s : State) (l : Nat) (b : List Byte) : (s.wr l b).migrW0 = s.migrW0 := rfl
@[simp] theorem State.wr_migrW1 (s : State) (l : Nat) (b : List Byte) : (s.wr l b).migrW1 = s.migrW1 := rfl
@[simp] theorem State.wr_migrW2 (s : State) (l : Nat) (b : List Byte) : (s.wr l b).migrW2 = s.migrW2 := rfl
@[simp] theorem State.wr_migr (s : State) (l : Nat) (b : List Byte) : (s.wr l b).migr = s.migr := rfl
@[simp] theorem State.wr_migrWait (s : State) (l : Nat) (b : List Byte) : (s.wr l b).migrWait = s.migrWait := rfl
@[simp] theorem State.wr_pwrWait (s : State) (l : Nat) (b : List Byte) : (s.wr l b).pwrWait = s.pwrWait := rfl
@[simp] theorem State.wr_excess (s : State) (l : Nat) (b : List Byte) : (s.wr l b).excess = s.excess := rfl
@[simp] theorem State.wr_evq (s : State) (l : Nat) (b : List Byte) : (s.wr l b).evq = s.evq := rfl
@[simp] theorem State.wr_svc (s : State) (l : Nat) (b : List Byte) : (s.wr l b).svc = s.svc := rfl
@[simp] theorem State.wr_ctstat (s : State) (l : Nat) (b : List Byte) : (s.wr l b).ctstat = s.ctstat := rfl
@[simp] theorem State.wr_refused (s : State) (l : Nat) (b : List Byte) : (s.wr l b).refused = s.refused := rfl
@[simp] theorem State.wr_collided (s : State) (l : Nat) (b : List Byte) : (s.wr l b).collided = s.collided := rfl
@[simp] theorem State.wr_markers (s : State) (l : Nat) (b : List Byte) : (s.wr l b).markers = s.markers := rfl
@[simp] theorem State.wr_pwrcfg (s : State) (l : Nat) (b : List Byte) : (s.wr l b).pwrcfg = s.pwrcfg := rfl
@[simp] theorem State.wr_zones (s : State) (l : Nat) (b : List Byte) : (s.wr l b).zones = s.zones := rfl
@[simp] theorem State.wr_pump (s : State) (l : Nat) (b : List Byte) : (s.wr l b).pump = s.pump := rfl
@[simp] theorem State.wr_coolW0 (s : State) (l : Nat) (b : List Byte) : (s.wr l b).coolW0 = s.coolW0 := rfl
@[simp] theorem State.wr_coolW1 (s : State) (l : Nat) (b : List Byte) : (s.wr l b).coolW1 = s.coolW1 := rfl
@[simp] theorem State.wr_drstat (s : State) (l : Nat) (b : List Byte) : (s.wr l b).drstat = s.drstat := rfl
@[simp] theorem State.wr_stretched (s : State) (l : Nat) (b : List Byte) : (s.wr l b).stretched = s.stretched := rfl
@[simp] theorem State.wr_boot (s : State) (l : Nat) (b : List Byte) : (s.wr l b).boot = s.boot := rfl
@[simp] theorem State.wr_booting (s : State) (l : Nat) (b : List Byte) : (s.wr l b).booting = s.booting := rfl
@[simp] theorem State.wr_links (s : State) (l : Nat) (b : List Byte) : (s.wr l b).links = s.links := rfl
@[simp] theorem State.wr_stgt (s : State) (l : Nat) (b : List Byte) : (s.wr l b).stgt = s.stgt := rfl
@[simp] theorem State.wr_ext (s : State) (l : Nat) (b : List Byte) : (s.wr l b).ext = s.ext := rfl
@[simp] theorem State.wr_flash (s : State) (l : Nat) (b : List Byte) : (s.wr l b).flash = s.flash := rfl
@[simp] theorem State.wr_flashErased (s : State) (l : Nat) (b : List Byte) : (s.wr l b).flashErased = s.flashErased := rfl
@[simp] theorem State.wr_mgmtUp (s : State) (l : Nat) (b : List Byte) : (s.wr l b).mgmtUp = s.mgmtUp := rfl
@[simp] theorem State.wr_outbox (s : State) (l : Nat) (b : List Byte) : (s.wr l b).outbox = s.outbox := rfl
@[simp] theorem State.wr_linkOut (s : State) (l : Nat) (b : List Byte) : (s.wr l b).linkOut = s.linkOut := rfl
@[simp] theorem State.wr_rdmaOut (s : State) (l : Nat) (b : List Byte) : (s.wr l b).rdmaOut = s.rdmaOut := rfl
@[simp] theorem State.wr_winOut (s : State) (l : Nat) (b : List Byte) : (s.wr l b).winOut = s.winOut := rfl
@[simp] theorem State.wr_winWait (s : State) (l : Nat) (b : List Byte) : (s.wr l b).winWait = s.winWait := rfl
@[simp] theorem State.wr_rsigs (s : State) (l : Nat) (b : List Byte) : (s.wr l b).rsigs = s.rsigs := rfl
@[simp] theorem State.wr_nvmeOut (s : State) (l : Nat) (b : List Byte) : (s.wr l b).nvmeOut = s.nvmeOut := rfl
@[simp] theorem State.wr_nvmeAsk (s : State) (l : Nat) (b : List Byte) : (s.wr l b).nvmeAsk = s.nvmeAsk := rfl
@[simp] theorem State.wr_summed (s : State) (l : Nat) (b : List Byte) : (s.wr l b).summed = s.summed := rfl
@[simp] theorem State.wr_corrected (s : State) (l : Nat) (b : List Byte) : (s.wr l b).corrected = s.corrected := rfl
@[simp] theorem State.wr_rings (s : State) (l : Nat) (b : List Byte) : (s.wr l b).rings = s.rings := rfl
@[simp] theorem State.wr_slots (s : State) (l : Nat) (b : List Byte) : (s.wr l b).slots = s.slots := rfl
@[simp] theorem State.wr_wqs (s : State) (l : Nat) (b : List Byte) : (s.wr l b).wqs = s.wqs := rfl
@[simp] theorem State.wr_idDev (s : State) (l : Nat) (b : List Byte) : (s.wr l b).idDev = s.idDev := rfl
@[simp] theorem State.wr_powered (s : State) (l : Nat) (b : List Byte) : (s.wr l b).powered = s.powered := rfl
@[simp] theorem State.wr_time (s : State) (l : Nat) (b : List Byte) : (s.wr l b).time = s.time := rfl
@[simp] theorem State.wr_seqNo (s : State) (l : Nat) (b : List Byte) : (s.wr l b).seqNo = s.seqNo := rfl
@[simp] theorem State.wr_freeCtr (s : State) (l : Nat) (b : List Byte) : (s.wr l b).freeCtr = s.freeCtr := rfl
@[simp] theorem State.wr_turn (s : State) (l : Nat) (b : List Byte) : (s.wr l b).turn = s.turn := rfl
@[simp] theorem State.wr_agenda (s : State) (l : Nat) (b : List Byte) : (s.wr l b).agenda = s.agenda := rfl
@[simp] theorem State.wr_retry (s : State) (l : Nat) (b : List Byte) : (s.wr l b).retry = s.retry := rfl
@[simp] theorem Core.setWk_id (k : Core) (w : Walker) (x : WalkerSt) : (k.setWk w x).id = k.id := by cases w <;> rfl
@[simp] theorem Core.setWk_part (k : Core) (w : Walker) (x : WalkerSt) : (k.setWk w x).part = k.part := by cases w <;> rfl
@[simp] theorem Core.setWk_gangUid (k : Core) (w : Walker) (x : WalkerSt) : (k.setWk w x).gangUid = k.gangUid := by cases w <;> rfl
@[simp] theorem Core.setWk_arrivals (k : Core) (w : Walker) (x : WalkerSt) : (k.setWk w x).arrivals = k.arrivals := by cases w <;> rfl
@[simp] theorem Core.setWk_slip (k : Core) (w : Walker) (x : WalkerSt) : (k.setWk w x).slip = k.slip := by cases w <;> rfl
@[simp] theorem Core.setWk_srkey (k : Core) (w : Walker) (x : WalkerSt) : (k.setWk w x).srkey = k.srkey := by cases w <;> rfl
@[simp] theorem Core.setWk_dscale (k : Core) (w : Walker) (x : WalkerSt) : (k.setWk w x).dscale = k.dscale := by cases w <;> rfl
@[simp] theorem Core.setWk_late (k : Core) (w : Walker) (x : WalkerSt) : (k.setWk w x).late = k.late := by cases w <;> rfl
@[simp] theorem Core.setWk_barPend (k : Core) (w : Walker) (x : WalkerSt) : (k.setWk w x).barPend = k.barPend := by cases w <;> rfl
@[simp] theorem Core.setWk_barCount (k : Core) (w : Walker) (x : WalkerSt) : (k.setWk w x).barCount = k.barCount := by cases w <;> rfl
@[simp] theorem Core.setWk_lost (k : Core) (w : Walker) (x : WalkerSt) : (k.setWk w x).lost = k.lost := by cases w <;> rfl
@[simp] theorem Core.setWk_a (k : Core) (w : Walker) (x : WalkerSt) : (k.setWk w x).a = k.a := by cases w <;> rfl
@[simp] theorem Core.setWk_aPend (k : Core) (w : Walker) (x : WalkerSt) : (k.setWk w x).aPend = k.aPend := by cases w <;> rfl
@[simp] theorem Core.setWk_aBad (k : Core) (w : Walker) (x : WalkerSt) : (k.setWk w x).aBad = k.aBad := by cases w <;> rfl
@[simp] theorem Core.setWk_s (k : Core) (w : Walker) (x : WalkerSt) : (k.setWk w x).s = k.s := by cases w <;> rfl
@[simp] theorem Core.setWk_g (k : Core) (w : Walker) (x : WalkerSt) : (k.setWk w x).g = k.g := by cases w <;> rfl
@[simp] theorem Core.setWk_v (k : Core) (w : Walker) (x : WalkerSt) : (k.setWk w x).v = k.v := by cases w <;> rfl
@[simp] theorem Core.setWk_m (k : Core) (w : Walker) (x : WalkerSt) : (k.setWk w x).m = k.m := by cases w <;> rfl
@[simp] theorem Core.setWk_lq (k : Core) (w : Walker) (x : WalkerSt) : (k.setWk w x).lq = k.lq := by cases w <;> rfl
@[simp] theorem Core.setWk_lqTag (k : Core) (w : Walker) (x : WalkerSt) : (k.setWk w x).lqTag = k.lqTag := by cases w <;> rfl
@[simp] theorem Core.setWk_sq (k : Core) (w : Walker) (x : WalkerSt) : (k.setWk w x).sq = k.sq := by cases w <;> rfl
@[simp] theorem Core.setWk_aq (k : Core) (w : Walker) (x : WalkerSt) : (k.setWk w x).aq = k.aq := by cases w <;> rfl
@[simp] theorem Core.setWk_bq (k : Core) (w : Walker) (x : WalkerSt) : (k.setWk w x).bq = k.bq := by cases w <;> rfl
@[simp] theorem Core.setWk_kq (k : Core) (w : Walker) (x : WalkerSt) : (k.setWk w x).kq = k.kq := by cases w <;> rfl
@[simp] theorem Core.setWk_tiles (k : Core) (w : Walker) (x : WalkerSt) : (k.setWk w x).tiles = k.tiles := by cases w <;> rfl
@[simp] theorem Core.setWk_undefs (k : Core) (w : Walker) (x : WalkerSt) : (k.setWk w x).undefs = k.undefs := by cases w <;> rfl
@[simp] theorem Core.setWk_lateRows (k : Core) (w : Walker) (x : WalkerSt) : (k.setWk w x).lateRows = k.lateRows := by cases w <;> rfl
@[simp] theorem Core.setWk_tileTable (k : Core) (w : Walker) (x : WalkerSt) : (k.setWk w x).tileTable = k.tileTable := by cases w <;> rfl
@[simp] theorem Core.setWk_chans (k : Core) (w : Walker) (x : WalkerSt) : (k.setWk w x).chans = k.chans := by cases w <;> rfl
@[simp] theorem Core.setWk_rings (k : Core) (w : Walker) (x : WalkerSt) : (k.setWk w x).rings = k.rings := by cases w <;> rfl
@[simp] theorem Core.setWk_sems (k : Core) (w : Walker) (x : WalkerSt) : (k.setWk w x).sems = k.sems := by cases w <;> rfl
@[simp] theorem Core.setWk_mat (k : Core) (w : Walker) (x : WalkerSt) : (k.setWk w x).mat = k.mat := by cases w <;> rfl
@[simp] theorem Core.setWk_dft (k : Core) (w : Walker) (x : WalkerSt) : (k.setWk w x).dft = k.dft := by cases w <;> rfl
@[simp] theorem Core.setWk_l1 (k : Core) (w : Walker) (x : WalkerSt) : (k.setWk w x).l1 = k.l1 := by cases w <;> rfl
@[simp] theorem Core.setWk_loads (k : Core) (w : Walker) (x : WalkerSt) : (k.setWk w x).loads = k.loads := by cases w <;> rfl
@[simp] theorem Core.setWk_stores (k : Core) (w : Walker) (x : WalkerSt) : (k.setWk w x).stores = k.stores := by cases w <;> rfl
@[simp] theorem Core.setWk_nm (k : Core) (w : Walker) (x : WalkerSt) : (k.setWk w x).nm = k.nm := by cases w <;> rfl
@[simp] theorem Core.setWk_pubs (k : Core) (w : Walker) (x : WalkerSt) : (k.setWk w x).pubs = k.pubs := by cases w <;> rfl
@[simp] theorem Core.setWk_acqHold (k : Core) (w : Walker) (x : WalkerSt) : (k.setWk w x).acqHold = k.acqHold := by cases w <;> rfl
@[simp] theorem Core.setWk_bankQ (k : Core) (w : Walker) (x : WalkerSt) : (k.setWk w x).bankQ = k.bankQ := by cases w <;> rfl
@[simp] theorem Core.setWk_bkseq (k : Core) (w : Walker) (x : WalkerSt) : (k.setWk w x).bkseq = k.bkseq := by cases w <;> rfl
@[simp] theorem Core.setWk_colls (k : Core) (w : Walker) (x : WalkerSt) : (k.setWk w x).colls = k.colls := by cases w <;> rfl
@[simp] theorem Core.setWk_done (k : Core) (w : Walker) (x : WalkerSt) : (k.setWk w x).done = k.done := by cases w <;> rfl
@[simp] theorem Core.setWk_preempt (k : Core) (w : Walker) (x : WalkerSt) : (k.setWk w x).preempt = k.preempt := by cases w <;> rfl
@[simp] theorem Core.setWk_cut (k : Core) (w : Walker) (x : WalkerSt) : (k.setWk w x).cut = k.cut := by cases w <;> rfl
@[simp] theorem Core.modWk_id (k : Core) (w : Walker) (g : WalkerSt → WalkerSt) : (k.modWk w g).id = k.id := by cases w <;> rfl
@[simp] theorem Core.modWk_part (k : Core) (w : Walker) (g : WalkerSt → WalkerSt) : (k.modWk w g).part = k.part := by cases w <;> rfl
@[simp] theorem Core.modWk_gangUid (k : Core) (w : Walker) (g : WalkerSt → WalkerSt) : (k.modWk w g).gangUid = k.gangUid := by cases w <;> rfl
@[simp] theorem Core.modWk_arrivals (k : Core) (w : Walker) (g : WalkerSt → WalkerSt) : (k.modWk w g).arrivals = k.arrivals := by cases w <;> rfl
@[simp] theorem Core.modWk_slip (k : Core) (w : Walker) (g : WalkerSt → WalkerSt) : (k.modWk w g).slip = k.slip := by cases w <;> rfl
@[simp] theorem Core.modWk_srkey (k : Core) (w : Walker) (g : WalkerSt → WalkerSt) : (k.modWk w g).srkey = k.srkey := by cases w <;> rfl
@[simp] theorem Core.modWk_dscale (k : Core) (w : Walker) (g : WalkerSt → WalkerSt) : (k.modWk w g).dscale = k.dscale := by cases w <;> rfl
@[simp] theorem Core.modWk_late (k : Core) (w : Walker) (g : WalkerSt → WalkerSt) : (k.modWk w g).late = k.late := by cases w <;> rfl
@[simp] theorem Core.modWk_barPend (k : Core) (w : Walker) (g : WalkerSt → WalkerSt) : (k.modWk w g).barPend = k.barPend := by cases w <;> rfl
@[simp] theorem Core.modWk_barCount (k : Core) (w : Walker) (g : WalkerSt → WalkerSt) : (k.modWk w g).barCount = k.barCount := by cases w <;> rfl
@[simp] theorem Core.modWk_lost (k : Core) (w : Walker) (g : WalkerSt → WalkerSt) : (k.modWk w g).lost = k.lost := by cases w <;> rfl
@[simp] theorem Core.modWk_a (k : Core) (w : Walker) (g : WalkerSt → WalkerSt) : (k.modWk w g).a = k.a := by cases w <;> rfl
@[simp] theorem Core.modWk_aPend (k : Core) (w : Walker) (g : WalkerSt → WalkerSt) : (k.modWk w g).aPend = k.aPend := by cases w <;> rfl
@[simp] theorem Core.modWk_aBad (k : Core) (w : Walker) (g : WalkerSt → WalkerSt) : (k.modWk w g).aBad = k.aBad := by cases w <;> rfl
@[simp] theorem Core.modWk_s (k : Core) (w : Walker) (g : WalkerSt → WalkerSt) : (k.modWk w g).s = k.s := by cases w <;> rfl
@[simp] theorem Core.modWk_g (k : Core) (w : Walker) (g : WalkerSt → WalkerSt) : (k.modWk w g).g = k.g := by cases w <;> rfl
@[simp] theorem Core.modWk_v (k : Core) (w : Walker) (g : WalkerSt → WalkerSt) : (k.modWk w g).v = k.v := by cases w <;> rfl
@[simp] theorem Core.modWk_m (k : Core) (w : Walker) (g : WalkerSt → WalkerSt) : (k.modWk w g).m = k.m := by cases w <;> rfl
@[simp] theorem Core.modWk_lq (k : Core) (w : Walker) (g : WalkerSt → WalkerSt) : (k.modWk w g).lq = k.lq := by cases w <;> rfl
@[simp] theorem Core.modWk_lqTag (k : Core) (w : Walker) (g : WalkerSt → WalkerSt) : (k.modWk w g).lqTag = k.lqTag := by cases w <;> rfl
@[simp] theorem Core.modWk_sq (k : Core) (w : Walker) (g : WalkerSt → WalkerSt) : (k.modWk w g).sq = k.sq := by cases w <;> rfl
@[simp] theorem Core.modWk_aq (k : Core) (w : Walker) (g : WalkerSt → WalkerSt) : (k.modWk w g).aq = k.aq := by cases w <;> rfl
@[simp] theorem Core.modWk_bq (k : Core) (w : Walker) (g : WalkerSt → WalkerSt) : (k.modWk w g).bq = k.bq := by cases w <;> rfl
@[simp] theorem Core.modWk_kq (k : Core) (w : Walker) (g : WalkerSt → WalkerSt) : (k.modWk w g).kq = k.kq := by cases w <;> rfl
@[simp] theorem Core.modWk_tiles (k : Core) (w : Walker) (g : WalkerSt → WalkerSt) : (k.modWk w g).tiles = k.tiles := by cases w <;> rfl
@[simp] theorem Core.modWk_undefs (k : Core) (w : Walker) (g : WalkerSt → WalkerSt) : (k.modWk w g).undefs = k.undefs := by cases w <;> rfl
@[simp] theorem Core.modWk_lateRows (k : Core) (w : Walker) (g : WalkerSt → WalkerSt) : (k.modWk w g).lateRows = k.lateRows := by cases w <;> rfl
@[simp] theorem Core.modWk_tileTable (k : Core) (w : Walker) (g : WalkerSt → WalkerSt) : (k.modWk w g).tileTable = k.tileTable := by cases w <;> rfl
@[simp] theorem Core.modWk_chans (k : Core) (w : Walker) (g : WalkerSt → WalkerSt) : (k.modWk w g).chans = k.chans := by cases w <;> rfl
@[simp] theorem Core.modWk_rings (k : Core) (w : Walker) (g : WalkerSt → WalkerSt) : (k.modWk w g).rings = k.rings := by cases w <;> rfl
@[simp] theorem Core.modWk_sems (k : Core) (w : Walker) (g : WalkerSt → WalkerSt) : (k.modWk w g).sems = k.sems := by cases w <;> rfl
@[simp] theorem Core.modWk_mat (k : Core) (w : Walker) (g : WalkerSt → WalkerSt) : (k.modWk w g).mat = k.mat := by cases w <;> rfl
@[simp] theorem Core.modWk_dft (k : Core) (w : Walker) (g : WalkerSt → WalkerSt) : (k.modWk w g).dft = k.dft := by cases w <;> rfl
@[simp] theorem Core.modWk_l1 (k : Core) (w : Walker) (g : WalkerSt → WalkerSt) : (k.modWk w g).l1 = k.l1 := by cases w <;> rfl
@[simp] theorem Core.modWk_loads (k : Core) (w : Walker) (g : WalkerSt → WalkerSt) : (k.modWk w g).loads = k.loads := by cases w <;> rfl
@[simp] theorem Core.modWk_stores (k : Core) (w : Walker) (g : WalkerSt → WalkerSt) : (k.modWk w g).stores = k.stores := by cases w <;> rfl
@[simp] theorem Core.modWk_nm (k : Core) (w : Walker) (g : WalkerSt → WalkerSt) : (k.modWk w g).nm = k.nm := by cases w <;> rfl
@[simp] theorem Core.modWk_pubs (k : Core) (w : Walker) (g : WalkerSt → WalkerSt) : (k.modWk w g).pubs = k.pubs := by cases w <;> rfl
@[simp] theorem Core.modWk_acqHold (k : Core) (w : Walker) (g : WalkerSt → WalkerSt) : (k.modWk w g).acqHold = k.acqHold := by cases w <;> rfl
@[simp] theorem Core.modWk_bankQ (k : Core) (w : Walker) (g : WalkerSt → WalkerSt) : (k.modWk w g).bankQ = k.bankQ := by cases w <;> rfl
@[simp] theorem Core.modWk_bkseq (k : Core) (w : Walker) (g : WalkerSt → WalkerSt) : (k.modWk w g).bkseq = k.bkseq := by cases w <;> rfl
@[simp] theorem Core.modWk_colls (k : Core) (w : Walker) (g : WalkerSt → WalkerSt) : (k.modWk w g).colls = k.colls := by cases w <;> rfl
@[simp] theorem Core.modWk_done (k : Core) (w : Walker) (g : WalkerSt → WalkerSt) : (k.modWk w g).done = k.done := by cases w <;> rfl
@[simp] theorem Core.modWk_preempt (k : Core) (w : Walker) (g : WalkerSt → WalkerSt) : (k.modWk w g).preempt = k.preempt := by cases w <;> rfl
@[simp] theorem Core.modWk_cut (k : Core) (w : Walker) (g : WalkerSt → WalkerSt) : (k.modWk w g).cut = k.cut := by cases w <;> rfl

end Sys2Proof.Machine
end

