-- ==== Sys2Proof/Laws/Ops.lean ====
section
/-! SUPPORT. The shared operations: what each can do, said once. -/

namespace Sys2Proof.Machine

/-! ## Cores and walkers -/

/-- A core just set is read back; every other is as before. -/
theorem State.core_setCore (s : State) (c d : Nat) (k : Core) (h : c < 480) :
    (s.setCore c k).core d = if c = d then k else s.core d := by
  unfold State.core State.setCore
  rw [vget_vset]
  by_cases e : c = d
  · subst e; simp [h]
  · simp [e]

@[simp] theorem State.core_modW_other (s : State) (f : WalkerSt → WalkerSt) (d : Nat) (h : s.issue.core ≠ d) :
    (s.modW f).core d = s.core d := by
  unfold State.modW State.modCur State.modCore State.core State.setCore
  rw [vget_vset, if_neg (fun e => h e.1)]

@[simp] theorem Core.wk_setWk (k : Core) (w : Walker) (x : WalkerSt) : (k.setWk w x).wk w = x := by cases w <;> rfl
theorem Core.wk_setWk_other (k : Core) (w v : Walker) (x : WalkerSt) (h : w ≠ v) : (k.setWk w x).wk v = k.wk v := by
  cases w <;> cases v <;> first | rfl | exact absurd rfl h
@[simp] theorem Core.setWk_wk (k : Core) (w : Walker) : k.setWk w (k.wk w) = k := by cases w <;> rfl
@[simp] theorem Core.setWk_setWk (k : Core) (w : Walker) (x y : WalkerSt) : (k.setWk w x).setWk w y = k.setWk w y := by
  cases w <;> rfl
@[simp] theorem Core.wk_modWk (k : Core) (w : Walker) (f : WalkerSt → WalkerSt) : (k.modWk w f).wk w = f (k.wk w) := by
  cases w <;> rfl

theorem State.cur_modCur (s : State) (f : Core → Core) (h : s.issue.core < 480) : (s.modCur f).cur = f s.cur := by
  show (s.setCore s.issue.core (f s.cur)).core s.issue.core = _
  rw [State.core_setCore _ _ _ _ h, if_pos rfl]

theorem State.curW_modW (s : State) (f : WalkerSt → WalkerSt) (h : s.issue.core < 480) : (s.modW f).curW = f s.curW := by
  unfold State.curW State.modW
  rw [State.cur_modCur _ _ h, State.modCur_issue, Core.wk_modWk]

theorem State.cur_modW (s : State) (f : WalkerSt → WalkerSt) (h : s.issue.core < 480) : (s.modW f).cur = s.cur.modWk s.issue.w f :=
  State.cur_modCur _ _ h

/-- Two changes of the issuing core are one. -/
theorem State.modCur_modCur (s : State) (f g : Core → Core) (h : s.issue.core < 480) :
    (s.modCur f).modCur g = s.modCur fun k => g (f k) := by
  have e : (s.modCur f).core s.issue.core = f (s.core s.issue.core) := State.cur_modCur s f h
  show (s.modCur f).setCore s.issue.core (g ((s.modCur f).core s.issue.core)) = s.setCore s.issue.core (g (f (s.core s.issue.core)))
  rw [e]
  simp [State.modCur, State.modCore, State.setCore]

/-! ## Registers -/

/-- A k register after a write (R60). -/
theorem State.wrK_curW_k (s : State) (c : BitVec 6) (v : W64) (h : s.issue.core < 480) :
    (s.wrK c v).curW.k = if c = 0 then s.curW.k else vset s.curW.k c.toNat v := by
  unfold State.wrK
  split_ifs
  · rfl
  · rw [State.curW_modW _ _ h]

/-- An a register after a write (R187). -/
theorem State.wrA_cur_a (s : State) (c : BitVec 6) (v : W64) (h : s.issue.core < 480) :
    (s.wrA c v).cur.a = if c = 0 then s.cur.a else vset s.cur.a c.toNat v := by
  unfold State.wrA
  split_ifs
  · rfl
  · rw [State.cur_modCur _ _ h]

/-- An s register after a write (R187). -/
theorem State.wrS_cur_s (s : State) (c : BitVec 6) (v : W64) (h : s.issue.core < 480) :
    (s.wrS c v).cur.s = if c = 0 then s.cur.s else vset s.cur.s c.toNat v := by
  unfold State.wrS
  split_ifs
  · rfl
  · rw [State.cur_modCur _ _ h]

/-- A g register after a write (R72). -/
theorem State.wrG_cur_g (s : State) (c : BitVec 6) (v : GReg) (h : s.issue.core < 480) :
    (s.wrG c v).cur.g = if c = 0 then s.cur.g else vset s.cur.g c.toNat v := by
  unfold State.wrG
  split_ifs
  · rfl
  · rw [State.cur_modCur _ _ h]

/-! ## Waits and stops -/

/-- A wait is recorded at the issue (R67); `State.waitOn_…` says that nothing else changes. -/
theorem State.waitOn_waits (s : State) (r o b : Nat) (a : VA) :
    (s.waitOn r o b a).issue.waits ≠ [] := by
  simp [State.waitOn]

/-- A queue that holds nothing makes its pop wait (R58). -/
theorem State.popSQ_empty (s : State) (b : Nat) (h : s.cur.sq = []) : s.popSQ b = .error (s.waitOn 1 0 b) := by
  simp [State.popSQ, h]

/-- The oldest entry leaves SQ, and nothing else changes (R55). -/
theorem State.popSQ_clean (s : State) (b : Nat) (e : QEnt) (r : List QEnt) (h : s.cur.sq = e :: r) (hp : e.psn = false) :
    s.popSQ b = .ok (e.value, s.modCur fun k => { k with sq := r }) := by
  simp [State.popSQ, h, hp]

/-! ## Frames of the register writes -/

@[simp] theorem State.wrK_issue (s : State) (c : BitVec 6) (v : W64) : (s.wrK c v).issue = s.issue := by unfold State.wrK; split <;> rfl
@[simp] theorem State.wrK_mem (s : State) (c : BitVec 6) (v : W64) : (s.wrK c v).mem = s.mem := by unfold State.wrK; split <;> rfl
@[simp] theorem State.wrA_issue (s : State) (c : BitVec 6) (v : W64) : (s.wrA c v).issue = s.issue := by unfold State.wrA; split <;> rfl
@[simp] theorem State.wrA_mem (s : State) (c : BitVec 6) (v : W64) : (s.wrA c v).mem = s.mem := by unfold State.wrA; split <;> rfl
@[simp] theorem State.wrS_issue (s : State) (c : BitVec 6) (v : W64) : (s.wrS c v).issue = s.issue := by unfold State.wrS; split <;> rfl
@[simp] theorem State.wrS_mem (s : State) (c : BitVec 6) (v : W64) : (s.wrS c v).mem = s.mem := by unfold State.wrS; split <;> rfl
@[simp] theorem State.wrG_issue (s : State) (c : BitVec 6) (v : GReg) : (s.wrG c v).issue = s.issue := by unfold State.wrG; split <;> rfl
@[simp] theorem State.wrG_mem (s : State) (c : BitVec 6) (v : GReg) : (s.wrG c v).mem = s.mem := by unfold State.wrG; split <;> rfl
@[simp] theorem State.wrK_zero (s : State) (v : W64) : s.wrK 0 v = s := rfl
@[simp] theorem State.wrA_zero (s : State) (v : W64) : s.wrA 0 v = s := rfl
@[simp] theorem State.wrS_zero (s : State) (v : W64) : s.wrS 0 v = s := rfl
@[simp] theorem State.wrG_zero (s : State) (v : GReg) : s.wrG 0 v = s := rfl
/-- A k register is read back after a write; k0 reads 0. -/
theorem State.wrK_vget (s : State) (c : BitVec 6) (v : W64) (j : Nat) (h : s.issue.core < 480) (hc : c.toNat < 16) (h0 : c ≠ 0) :
    vget (s.wrK c v).curW.k j 0 = if c.toNat = j then v else vget s.curW.k j 0 := by
  rw [State.wrK_curW_k _ _ _ h, if_neg h0, vget_vset]
  by_cases e : c.toNat = j
  · simp [e, e ▸ hc]
  · simp [e]

/-! ## Operands: every case of a source, said once -/

/-- A source of A answers a value, or waits for a load, or meets the data error of a loaded register (R186, R256, R266). -/
theorem State.srcA_cases (s : State) (st : BitVec 2) (c : BitVec 6) :
    (∃ v, s.srcA st c = .ok v)
    ∨ (c.toNat < 32 ∧ s.issue.pre.aPend.getLsbD c.toNat = true ∧ s.srcA st c = .error s.interlock)
    ∨ (c.toNat < 32 ∧ s.issue.pre.aPend.getLsbD c.toNat = false ∧ ∃ n, s.srcA st c = .error (s.dataError 1 n)) := by
  unfold State.srcA
  split
  · rename_i h
    split
    · exact .inl ⟨_, rfl⟩
    · split
      · rename_i e; exact .inr (.inl ⟨h, e, rfl⟩)
      · rename_i e
        split
        · exact .inr (.inr ⟨h, by simpa using e, _, rfl⟩)
        · exact .inl ⟨_, rfl⟩
  · split <;> exact .inl ⟨_, rfl⟩
/-- A source of A that has no load on its way and no error is the register, the k register or the loop counter (R186). -/
theorem State.srcA_reg (s : State) (st : BitVec 2) (c : BitVec 6) (h : c.toNat < 32) (h0 : c ≠ 0) (hp : s.issue.pre.aPend.getLsbD c.toNat = false)
    (hb : (s.issue.pre.aBad.find? fun e => e.1 = c.toNat) = none) : s.srcA st c = .ok (vget s.issue.pre.a c.toNat 0) := by
  unfold State.srcA
  simp only [h, if_true, h0, if_false, hp, Bool.false_eq_true, hb]
theorem State.srcA_k (s : State) (st : BitVec 2) (c : BitVec 6) (h : 32 ≤ c.toNat) (h' : c.toNat < 48) : s.srcA st c = .ok (s.rdK (c.toNat - 32)) := by
  unfold State.srcA
  rw [if_neg (by omega), if_pos h']
theorem State.srcA_zero (s : State) (st : BitVec 2) : s.srcA st 0 = .ok 0 := rfl
/-- A source of S answers a value and leaves the state, or pops SQ (R186). -/
theorem State.srcS_cases (s : State) (st : BitVec 2) (b : Nat) (c : BitVec 6) : (∃ v, s.srcS st b c = .ok (v, s)) ∨ (c.toNat = 63 ∧ s.srcS st b c = s.popSQ b) := by
  unfold State.srcS
  split
  · exact .inl ⟨_, rfl⟩
  · split
    · rename_i h; exact .inr ⟨h, rfl⟩
    · split <;> exact .inl ⟨_, rfl⟩
/-- A clean g operand is its value; a poisoned one traps (R73). -/
theorem State.cleanG_clean (s : State) (c : BitVec 6) (h : (s.rdG c).psn = false) : s.cleanG c = .ok (s.rdG c).value := by
  unfold State.cleanG
  simp only [h, Bool.false_eq_true, if_false]
theorem State.cleanG_poisoned (s : State) (c : BitVec 6) (h : (s.rdG c).psn = true) : s.cleanG c = .error (s.poisonTrap (fld (s.rdG c).value 0 8)) := by
  unfold State.cleanG
  simp only [h, if_true]

/-! ## Queues: every case of a pop and a push -/

/-- A poisoned entry of SQ traps and stays (R73). -/
theorem State.popSQ_poisoned (s : State) (b : Nat) (e : QEnt) (r : List QEnt) (h : s.cur.sq = e :: r) (hp : e.psn = true) :
    s.popSQ b = .error (s.poisonTrap (fld e.value 0 8)) := by
  simp [State.popSQ, h, hp]
theorem State.popAQ_empty (s : State) (b : Nat) (h : s.cur.aq = []) : s.popAQ b = .error (s.waitOn 2 0 b) := by
  simp [State.popAQ, h]
theorem State.popAQ_clean (s : State) (b : Nat) (e : QEnt) (r : List QEnt) (h : s.cur.aq = e :: r) (hp : e.psn = false) :
    s.popAQ b = .ok (e.value, s.modCur fun k => { k with aq := r }) := by
  simp [State.popAQ, h, hp]
theorem State.popAQ_poisoned (s : State) (b : Nat) (e : QEnt) (r : List QEnt) (h : s.cur.aq = e :: r) (hp : e.psn = true) :
    s.popAQ b = .error (s.poisonTrap (fld e.value 0 8)) := by
  simp [State.popAQ, h, hp]
theorem State.popLQ_empty (s : State) (b : Nat) (h : s.cur.lq = []) : s.popLQ b = .error (s.waitOn 0 0 b) := by
  simp [State.popLQ, h]
/-- A reserved entry waits for its data (R56). -/
theorem State.popLQ_reserved (s : State) (b : Nat) (e : LQEnt) (r : List LQEnt) (h : s.cur.lq = e :: r) (hp : e.here = false) :
    s.popLQ b = .error (s.waitOn 0 0 b) := by
  simp [State.popLQ, h, hp]
theorem State.popLQ_here (s : State) (b : Nat) (e : LQEnt) (r : List LQEnt) (h : s.cur.lq = e :: r) (hp : e.here = true) :
    s.popLQ b = .ok (e, s.modCur fun k => { k with lq := r }) := by
  simp [State.popLQ, h, hp]
/-- A walker with nothing left in BQ or KQ waits; else it takes the entry at its own position (R57). -/
theorem State.popBQ_none (s : State) (b : Nat) (h : s.issue.pre.bq[s.curW.bqPos]? = none) : s.popBQ b = .error (s.waitOn 3 0 b) := by
  simp only [State.popBQ, h]
theorem State.popBQ_some (s : State) (b : Nat) (v : Bool) (h : s.issue.pre.bq[s.curW.bqPos]? = some v) :
    s.popBQ b = .ok (v, s.modW fun x => { x with bqPos := s.curW.bqPos + 1 }) := by
  simp only [State.popBQ, h]
theorem State.popKQ_none (s : State) (b : Nat) (h : s.issue.pre.kq[s.curW.kqPos]? = none) : s.popKQ b = .error (s.waitOn 4 0 b) := by
  simp only [State.popKQ, h]
theorem State.popKQ_some (s : State) (b : Nat) (v : W64) (h : s.issue.pre.kq[s.curW.kqPos]? = some v) :
    s.popKQ b = .ok (v, s.modW fun x => { x with kqPos := s.curW.kqPos + 1 }) := by
  simp only [State.popKQ, h]
/-- A push goes in at the tail, or waits under wb0 while the queue is full (R58). -/
theorem State.pushSQ_cases (s : State) (g : GReg) :
    (s.cur.sq.length < 64 ∧ s.pushSQ g = .ok (s.modCur fun k => { k with sq := k.sq ++ [⟨g.value, g.psn⟩] }))
    ∨ (64 ≤ s.cur.sq.length ∧ s.pushSQ g = .error (s.waitOn 1 0 0)) := by
  unfold State.pushSQ sqSize
  split
  · rename_i h; exact .inl ⟨h, rfl⟩
  · rename_i h; exact .inr ⟨by omega, rfl⟩
theorem State.pushAQ_cases (s : State) (g : GReg) :
    (s.cur.aq.length < 32 ∧ s.pushAQ g = .ok (s.modCur fun k => { k with aq := k.aq ++ [⟨g.value, g.psn⟩] }))
    ∨ (32 ≤ s.cur.aq.length ∧ s.pushAQ g = .error (s.waitOn 2 0 0)) := by
  unfold State.pushAQ aqSize
  split
  · rename_i h; exact .inl ⟨h, rfl⟩
  · rename_i h; exact .inr ⟨by omega, rfl⟩
theorem State.pushBQ_cases (s : State) (b : Bool) :
    (s.cur.bq.length < 32 ∧ s.pushBQ b = .ok (s.modCur fun k => { k with bq := k.bq ++ [b] }))
    ∨ (32 ≤ s.cur.bq.length ∧ s.pushBQ b = .error (s.waitOn 3 0 0)) := by
  unfold State.pushBQ bqSize
  split
  · rename_i h; exact .inl ⟨h, rfl⟩
  · rename_i h; exact .inr ⟨by omega, rfl⟩
theorem State.pushKQ_cases (s : State) (v : W64) :
    (s.cur.kq.length < 16 ∧ s.pushKQ v = .ok (s.modCur fun k => { k with kq := k.kq ++ [v] }))
    ∨ (16 ≤ s.cur.kq.length ∧ s.pushKQ v = .error (s.waitOn 4 0 0)) := by
  unfold State.pushKQ kqSize
  split
  · rename_i h; exact .inl ⟨h, rfl⟩
  · rename_i h; exact .inr ⟨by omega, rfl⟩
/-- A load that goes to LQ reserves its entry at issue, or waits while LQ is full (R56). -/
theorem State.reserveLQ_cases (s : State) :
    (s.cur.lq.length < 64 ∧ s.reserveLQ
      = .ok (s.cur.lqTag, s.modCur fun k => { k with lqTag := s.cur.lqTag + 1, lq := k.lq ++ [⟨s.cur.lqTag, false, 0, false, false⟩] }))
    ∨ (64 ≤ s.cur.lq.length ∧ s.reserveLQ = .error (s.waitOn 0 0 0)) := by
  unfold State.reserveLQ lqSize
  split
  · rename_i h; exact .inl ⟨h, rfl⟩
  · rename_i h; exact .inr ⟨by omega, rfl⟩

end Sys2Proof.Machine
end

