-- ==== Sys2Proof/Laws/Events.lean ====
section
/-! SUPPORT. Posting an event and taking a stop: what each can do, said once. -/

namespace Sys2Proof.Machine

/-! ## Events (R503) -/

/-- s with what posting an event may change taken from t: memory with its marks and exclusive lines, the event queues, the messages sent. -/
def State.evOf (s t : State) : State := { s with mem := t.mem, ue := t.ue, excl := t.excl, evq := t.evq, outbox := t.outbox }

theorem State.evOf_trans {s t u : State} (h : t = s.evOf t) (h' : u = t.evOf u) : u = s.evOf u := by
  rw [h] at h'
  exact h'
theorem State.evOf_cores {s t : State} (h : t = s.evOf t) : t.cores = s.cores := by rw [h]; rfl
theorem State.evOf_issue {s t : State} (h : t = s.evOf t) : t.issue = s.issue := by rw [h]; rfl
theorem State.evOf_core {s t : State} (h : t = s.evOf t) (c : Nat) : t.core c = s.core c := by rw [h]; rfl

theorem State.send_frame (s : State) (m : MgmtMsg) : s.send m = s.evOf (s.send m) := by
  unfold State.send
  split <;> rfl
theorem State.writeEvent_frame (s : State) (q : Nat) (ev : List W64) : s.writeEvent q ev = s.evOf (s.writeEvent q ev) := by
  unfold State.writeEvent
  dsimp only
  split
  · exact State.evOf_trans (t := s.wr _ _) rfl (State.evOf_trans rfl (State.send_frame ..))
  · rfl
theorem State.flushEvents_frame (n : Nat) : ∀ (s : State) (q : Nat), State.flushEvents n s q = s.evOf (State.flushEvents n s q) := by
  induction n with
  | zero => intro s q; rfl
  | succ n ih =>
    intro s q
    simp only [State.flushEvents]
    split
    · rfl
    · split
      · exact State.evOf_trans (State.evOf_trans rfl (State.writeEvent_frame ..)) (ih _ _)
      · rfl
theorem State.postEventH_frame (s : State) (q cls : Nat) (h b : List W64) : s.postEventH q cls h b = s.evOf (s.postEventH q cls h b) := by
  unfold State.postEventH
  refine State.evOf_trans (State.flushEvents_frame (vget s.evq q .none0).waiting.length s q) ?_
  dsimp only
  split
  · exact State.evOf_trans rfl (State.writeEvent_frame ..)
  · split <;> rfl
/-- Posting an event leaves every core, the control registers outside the event queues and all that issues as they are. -/
theorem State.postEvent_frame (s : State) (q cls : Nat) (c : Option Nat) (b : List W64) : s.postEvent q cls c b = s.evOf (s.postEvent q cls c b) :=
  State.postEventH_frame ..

theorem State.send_mem_wf {s : State} (m : MgmtMsg) (h : s.mem.wf = true) : (s.send m).mem.wf = true := by
  unfold State.send
  split <;> exact h
theorem State.writeEvent_mem_wf {s : State} (q : Nat) (ev : List W64) (h : s.mem.wf = true) : (s.writeEvent q ev).mem.wf = true := by
  unfold State.writeEvent
  dsimp only
  split
  · exact State.send_mem_wf _ (State.wr_mem_wf s _ _ h)
  · exact State.wr_mem_wf s _ _ h
theorem State.flushEvents_mem_wf (n : Nat) : ∀ {s : State} (q : Nat), s.mem.wf = true → (State.flushEvents n s q).mem.wf = true := by
  induction n with
  | zero => intro s q h; exact h
  | succ n ih =>
    intro s q h
    simp only [State.flushEvents]
    split
    · exact h
    · split
      · exact ih _ (State.writeEvent_mem_wf _ _ h)
      · exact h
/-- Posting an event keeps the canonical form of memory. -/
theorem State.postEvent_mem_wf {s : State} (q cls : Nat) (c : Option Nat) (b : List W64) (h : s.mem.wf = true) : (s.postEvent q cls c b).mem.wf = true := by
  unfold State.postEvent State.postEventH
  have h' := State.flushEvents_mem_wf (vget s.evq q .none0).waiting.length q h
  dsimp only
  split
  · exact State.writeEvent_mem_wf _ _ h'
  · split <;> exact h'

/-! ## Stops (R74) -/

theorem State.stopPosts_frame (l : List W64) (c : Nat) : ∀ s : State,
    l.foldl (fun (s : State) e => s.postEvent (s.core c).part 4 (some c) [e]) s
      = s.evOf (l.foldl (fun (s : State) e => s.postEvent (s.core c).part 4 (some c) [e]) s) := by
  induction l with
  | nil => intro s; rfl
  | cons e r ih => intro s; exact State.evOf_trans (State.postEvent_frame ..) (ih _)

theorem State.evOf_curW {s t : State} (h : t = s.evOf t) : t.curW = s.curW := by rw [h]; rfl

/-- The walker that stops: its record is kept, its position and registers stay, its stall counts, registration and what its part had read end. -/
theorem State.takeStop_curW (s : State) (r : Rec8) (h : s.issue.core < 480) :
    (s.takeStop r).curW = { s.curW with run := .stopped, stop := some r, stalls := [], await := none, got := [] } := by
  have f := State.stopPosts_frame s.issue.errs s.issue.core s
  unfold State.takeStop
  dsimp only
  rw [State.evOf_curW (State.postEvent_frame ..), State.curW_modW _ _ (by rw [State.evOf_issue f]; exact h), State.evOf_curW f]
/-- Every other core stays as it is. -/
theorem State.takeStop_core (s : State) (r : Rec8) (c : Nat) (hc : c ≠ s.issue.core) : (s.takeStop r).core c = s.core c := by
  have f := State.stopPosts_frame s.issue.errs s.issue.core s
  unfold State.takeStop
  dsimp only
  rw [State.evOf_core (State.postEvent_frame ..), State.core_modW_other _ _ _ (by rw [State.evOf_issue f]; exact fun e => hc e.symm), State.evOf_core f]
/-- What issues stays as it is. -/
theorem State.takeStop_issue (s : State) (r : Rec8) : (s.takeStop r).issue = s.issue := by
  have f := State.stopPosts_frame s.issue.errs s.issue.core s
  unfold State.takeStop
  dsimp only
  rw [State.evOf_issue (State.postEvent_frame ..), State.modW_issue, State.evOf_issue f]
theorem State.stopPosts_mem_wf (l : List W64) (c : Nat) : ∀ {s : State}, s.mem.wf = true →
    (l.foldl (fun (s : State) e => s.postEvent (s.core c).part 4 (some c) [e]) s).mem.wf = true := by
  induction l with
  | nil => intro s h; exact h
  | cons e r ih => intro s h; exact ih (State.postEvent_mem_wf _ _ _ _ h)
/-- A stop keeps the canonical form of memory. -/
theorem State.takeStop_mem_wf {s : State} (r : Rec8) (h : s.mem.wf = true) : (s.takeStop r).mem.wf = true := by
  unfold State.takeStop
  exact State.postEvent_mem_wf _ _ _ _ (by rw [State.modW_mem]; exact State.stopPosts_mem_wf _ _ h)
/-- The poison trap's record names the index (R505, R506). -/
theorem State.poisonTrap_is_stop (s : State) (n : Nat) : ∃ r, s.poisonTrap n = s.takeStop r := ⟨_, rfl⟩
theorem State.illegal_is_stop (s : State) (n : Nat) : s.illegal n = s.takeStop (s.stopRec 7 n 0 0 0 0 0) := rfl

end Sys2Proof.Machine
end

