-- ==== Sys2Proof/Tests/Slice0.lean ====
section
/-! SUPPORT. Tests of the model's own author: ill-formed terms, decoded words, single steps; and, for every statement with hypotheses, concrete
states and operands that meet them, clause by clause. -/

open Sys2Proof Sys2Proof.Machine

namespace Sys2Proof.Tests

set_option Elab.async false

/-! ## Helpers -/

theorem isOk_of {ε α : Type} {e : Except ε α} (h : e.isOk = true) : ∃ x, e = .ok x := by
  cases e with
  | ok x => exact ⟨x, rfl⟩
  | error _ => cases h
theorem isErr_of {ε α : Type} {e : Except ε α} (h : e.isOk = false) : ∃ x, e = .error x := by
  cases e with
  | ok _ => cases h
  | error x => exact ⟨x, rfl⟩
theorem isSome_of {α : Type} {o : Option α} (h : o.isSome = true) : ∃ x, o = some x := Option.isSome_iff_exists.mp h
/-- The next state of an outcome; the state given where there is none. -/
def nextOf (o : Host.Outcome State Fault Refusal) (s : State) : State :=
  match o with
  | .next t => t
  | _ => s
def isNext (o : Host.Outcome State Fault Refusal) : Bool :=
  match o with
  | .next _ => true
  | _ => false
def okInstr (x : Except Nat Instr) (i : Instr) : Bool :=
  match x with
  | .ok j => decide (j = i)
  | .error _ => false
def badWord (x : Except Nat Instr) (c : Nat) : Bool :=
  match x with
  | .ok _ => false
  | .error d => decide (d = c)
/-- Walker w of core 0 issues a part at address 0, on the machine fresh from reset but for what f does to the core. -/
def onCore0 (w : Walker) (f : Core → Core) : State :=
  let s := State.reset
  let s := { s with issue := { s.issue with w := w } }
  let s := s.modCur f
  { s with issue := { s.issue with pre := s.cur, preMem := s.mem } }

/-! ## Hypotheses met: registers, control -/

/-- KRegisterResults, XRegisterResults: the highest register, a poisoned and a clean operand, the highest immediate count. -/
theorem hyp_registers : ∃ s : State, s.issue.core < 480 ∧ (15 : BitVec 6).toNat < 16 ∧ (s.rdG 5).psn = true ∧ (s.rdG 6).psn = false
    ∧ immVal (63 : BitVec 10).toNat 10 false s.issue.exts = (63 : Nat) ∧ (63 : Nat) < 64 :=
  ⟨onCore0 .X fun k => { k with g := vset k.g 5 ⟨7, true⟩ }, by decide +kernel⟩
/-- ARegisterResults: both operands readable, the highest registers; an AQ with a clean and with a poisoned entry, and an empty one. -/
theorem hyp_aRegisters : ∃ s : State, s.issue.core < 480 ∧ (31 : BitVec 6).toNat < 32 ∧ (∃ x, s.srcA 0 31 = .ok x) ∧ (∃ y, s.srcA 0 48 = .ok y) :=
  ⟨onCore0 .A id, by decide +kernel, by decide, isOk_of (by decide +kernel), isOk_of (by decide +kernel)⟩
/-- SRegisterResults: operands readable, SQ among them; each range of codes at its ends; SQ with an entry and without. -/
theorem hyp_sRegisters : ∃ s : State, s.issue.core < 480 ∧ (15 : BitVec 6).toNat < 16 ∧ s.sSource 0 63 s.cur.sq = some (9, []) ∧ s.sSource 0 15 [] = some (0, [])
    ∧ s.cur.sq = [⟨9, false⟩] ∧ (32 : BitVec 6).toNat < 48 ∧ 32 ≤ (47 : BitVec 6).toNat ∧ 48 ≤ (51 : BitVec 6).toNat ∧ (51 : BitVec 6).toNat < 52 :=
  ⟨onCore0 .S fun k => { k with sq := [⟨9, false⟩] }, by decide +kernel⟩
theorem hyp_sqEmpty : (onCore0 .S id).cur.sq = [] ∧ (onCore0 .S fun k => { k with sq := [⟨9, true⟩] }).cur.sq = [⟨9, true⟩]
    ∧ ∃ t, (onCore0 .S id).srcS 0 0 63 = .error t := ⟨by decide +kernel, by decide +kernel, isErr_of (by decide +kernel)⟩
/-- LaneResults, MasksAndLanes: a core; clean and poisoned g operands (an abutment engine: hyp_engine below). -/
theorem hyp_lanes : hasUnit (onCore0 .X id) ∧ onCore (onCore0 .X id) ∧ ((onCore0 .X id).rdG 3).psn = false
    ∧ ((onCore0 .X fun k => { k with g := vset k.g 3 ⟨7, true⟩ }).rdG 3).psn = true :=
  ⟨⟨fun _ => by decide +kernel, fun h => absurd h (by decide +kernel)⟩, ⟨by decide +kernel, by decide +kernel⟩, by decide +kernel⟩

/-- Walker o has reached bundle 0 too. -/
def twoReached (w o : Walker) : State := onCore0 w fun k => { k with arrivals := [(0, [w, o])] }
/-- MarksAndBarriers: MARK with and without the other walker; phase 0 complete and not; every range of BARW's d, at its ends. -/
theorem hyp_marks : (twoReached .A .S).issue.core < 480 ∧ (twoReached .A .S).cur.hasReached 0 .S = true
    ∧ (twoReached .S .A).cur.hasReached 0 .A = true ∧ (onCore0 .A id).cur.hasReached 0 .S = false := by decide +kernel
/-- A gang of one on core 0, whose arrivals are given. -/
def gang0 (arr : List Nat) : Gang :=
  { uid := 0, inst := 0, idx := 0, st := .bound, cores := [0], saves := [], nsave := 0, arr := arr, endedRanks := [], carve := 0,
    motion := [], carveDie := some 0, readySeq := 0, boundSeq := 0, level := 0, overrun := false, reqAt := 0, want := none, text := [], path := [], kib := none }
def ganged (w : Walker) (arr : List Nat) (f : Core → Core) : State :=
  let s := onCore0 w fun k => f { k with gangUid := some 0 }
  { s with gangs := [gang0 arr] }
theorem hyp_barriers : (let s := ganged .A [1] fun k => { k with barCount := 1 }
      s.reachBar.barHeld = false ∧ s.reachBar.gangAt 0 = some (gang0 [1]) ∧ s.reachBar.curW.bars < nth [1] s.reachBar.cur.rank 0
        ∧ (gang0 [1]).complete s.reachBar.curW.bars = true)
    ∧ (let s := ganged .A [0] id
      s.reachBar.gangAt 0 = some (gang0 [0]) ∧ (gang0 [0]).complete s.reachBar.curW.bars = false)
    ∧ (let d (v : W64) := (let s := ganged .A [1] fun k => { k with wA := { k.wA with k := vset k.wA.k 1 v } }
        ((s.srcK 0 1).toNat % 0x10000 + 0x10000 - s.lastPhase s.issue.core) % 0x10000)
      d 0 = 0 ∧ d 1 = 1 ∧ d 2 = 2 ∧ d 0x8000 = 0x8000 ∧ d 0x8001 = 0x8001) := by decide +kernel
/-- SharedControl: an entry of KQ and of BQ, either outcome, and empty queues; the budget's number and value at their ends. -/
theorem hyp_shared : (let s := onCore0 .A fun k => { k with kq := [5], bq := [true, false] }
      s.issue.core < 480 ∧ s.issue.pre.kq[s.curW.kqPos]? = some 5 ∧ s.issue.pre.bq[s.curW.bqPos]? = some true
        ∧ s.issue.addr.toNat + 32 * immVal (3 : BitVec 17).toNat 17 true s.issue.exts = (96 : Nat))
    ∧ (let s := onCore0 .X fun k => { k with bq := [false] }
      s.issue.pre.kq[s.curW.kqPos]? = none ∧ s.issue.pre.bq[s.curW.bqPos]? = some false)
    ∧ (15 : BitVec 4) ≠ 0 ∧ immVal (0xFFFF : BitVec 16).toNat 16 false [] = (0xFFFF : Nat) := by decide +kernel
def loop0 (first last : VA) : Loop := { first, last, n := 2, d := 1, pl := false, opened := 0, j := 1, lo := 0, cut := [] }
/-- LoopsOpen: a full loop stack, a loop that reaches past its outer one, one that fits, with a count of 0 and of 1. -/
theorem hyp_loops : (onCore0 .A fun k => { k with wA := { k.wA with loops := .replicate 4 (loop0 32 64) } }).curW.loops.length = 4
    ∧ (let s := onCore0 .A fun k => { k with wA := { k.wA with loops := [loop0 32 64] } }
      s.issue.core < 480 ∧ s.curW.loops.length < 4 ∧ s.curW.loops.getLast? = some (loop0 32 64) ∧ s.curW.callBase < 1
        ∧ ¬ (s.issue.addr + BitVec.ofNat 52 (32 * ((2 : BitVec 13).toNat + 1)) ≤ (64 : VA))
        ∧ s.issue.addr + BitVec.ofNat 52 (32 * ((1 : BitVec 13).toNat + 1)) ≤ (64 : VA)
        ∧ (immVal (0 : BitVec 6).toNat 6 false s.issue.exts).toNat = 0 ∧ (immVal (1 : BitVec 6).toNat 6 false s.issue.exts).toNat ≠ 0) := by
  decide +kernel
/-- BranchesAndCalls: a value on which each branch is taken and one on which it is not; a target at the end of translated space, one below it; a
call stack full, with room, empty, with an entry. -/
theorem hyp_branches : ((0 : Int) = 0 ∧ (1 : Int) ≠ 0 ∧ (-1 : Int) < 0 ∧ (0 : Int) ≤ 0)
    ∧ (let s := onCore0 .A id
      s.issue.core < 480 ∧ (s.issue.addr.toNat : Int) + 32 * immVal (0x3FFFFF : BitVec 22).toNat 22 true s.issue.exts < 0
        ∧ (s.issue.addr.toNat : Int) + 32 * immVal (0 : BitVec 22).toNat 22 true s.issue.exts = (0 : Nat)
        ∧ s.curW.calls.length < 8 ∧ s.curW.calls = [])
    ∧ (let s := onCore0 .A fun k => { k with wA := { k.wA with calls := .replicate 7 ⟨0, 0⟩ ++ [⟨32, 0⟩] } }
      8 ≤ s.curW.calls.length ∧ s.curW.calls = .replicate 7 ⟨0, 0⟩ ++ [⟨32, 0⟩]) := by decide +kernel
/-- EndsAndPhases: the last and not the last walker to end; PHASE passed, waited for, refused, granted. -/
theorem hyp_ends : ((otherWalkers .A).all (fun o => ((onCore0 .A fun k => { k with wX := { k.wX with run := .ended }, wS := { k.wS with run := .ended } }).cur.wk o).run == .ended) = true)
    ∧ ((otherWalkers .A).any (fun o => ((onCore0 .A id).cur.wk o).run != .ended) = true)
    ∧ (let s := ganged .A [0] fun k => { k with arrivals := [(0, [.X, .S, .A])] }
      s.issue.core < 480 ∧ s.mem.wf = true ∧ ((otherWalkers .A).any fun o => (s.cur.wk o).passed s.walk) = false
        ∧ ((otherWalkers .A).all (fun o => s.cur.hasReached s.walk o) && (s.cur.reached s.walk).getLast? == some .A) = true
        ∧ s.gangAt 0 = some (gang0 [0]) ∧ s.carveDecl (gang0 [0]) < 1 ∧ 0 ≤ s.carveDecl (gang0 [0]))
    ∧ (let s := onCore0 .A fun k => { k with wX := { k.wX with walk := 1 } }
      ((otherWalkers .A).any fun o => (s.cur.wk o).passed s.walk) = true)
    ∧ (let s := onCore0 .A id
      ((otherWalkers .A).any fun o => (s.cur.wk o).passed s.walk) = false ∧ (otherWalkers .A).all (fun o => s.cur.hasReached s.walk o) = false) := by
  decide +kernel
/-- TileDefinitions: the first walker on an undefined and on a defined tile, a good and a bad image; a later walker; the last on either tile. -/
theorem hyp_tiles : (let s := onCore0 .A fun k => { k with arrivals := [(0, [.A])] }
      s.issue.core < 480 ∧ s.isFirst = true ∧ (s.cur.tile 1).defd = false ∧ tileOk (s.srcK 0 0) = true ∧ tileOk (-1) = false
        ∧ s.cur.tileTable[64 * ((1 : BitVec 3).toNat - 1) + (0 : BitVec 6).toNat]? = none ∧ s.isLast = false)
    ∧ (onCore0 .A id).isFirst = false
    ∧ (onCore0 .A id).cur.lastPassed 0 = false
    ∧ (let s := onCore0 .A fun k => { k.setTile 1 { k.tile 1 with defd := true } with arrivals := [(0, [.A])] }
      s.isFirst = true ∧ (s.cur.tile 1).defd = true)
    ∧ (let s := onCore0 .A fun k => { k.setTile 1 { k.tile 1 with defd := true } with arrivals := [(0, [.X, .S, .A])] }
      s.isLast = true ∧ (s.cur.tile 1).defd = true ∧ (s.cur.tile 2).defd = false) := by decide +kernel

/-! ## Hypotheses met: addresses, loads, stores, tiles, atomics -/

/-- Words as the bytes of memory. -/
def words (ws : List W64) : List Byte := ws.flatMap fun w => toBytes 8 w.toNat
/-- Partition 0's translation is enabled, and its first GiB lies at 1 GiB, readable, writable and executable: a table at 64 KiB, one at
128 KiB, a leaf of level 1 (R474, R475). -/
def paged (s : State) : State :=
  { s with
    xl := vset s.xl 0 { w0 := 0x8000000000000000, w1 := 0, w2 := 0, w3 := 0, root := 1 }
    mem := [(65538, 0x02), (65543, 0x80), (131075, 0x40), (131079, 0xF8)] }
/-- The bytes from address n on that are not zero. -/
def cellsAt (n : Nat) : List Byte → Memory
  | [] => []
  | b :: r => if b = 0 then cellsAt (n + 1) r else (n, b) :: cellsAt (n + 1) r
/-- Bytes placed at an address of that GiB. -/
def put (s : State) (va : Nat) (ws : List W64) : State := s.wr (0x40000000 + va) (words ws)
/-- Walker w of core 0 at a part, with the pages in place, words in memory (in rising order of address), and what f does to the core. -/
def pagedCore (w : Walker) (at' : List (Nat × List W64)) (f : Core → Core) : State :=
  let s := paged (onCore0 w f)
  let s := { s with mem := s.mem ++ at'.flatMap fun (p : Nat × List W64) => cellsAt (0x40000000 + p.1) (words p.2) }
  { s with issue := { s.issue with pre := s.cur, preMem := s.mem } }
/-- The snapshot of the first page. -/
def snap0 : Snap := [(0, 0x40000000)]

/-- ARegisterResults: operands readable for AMOVK; AQ with a clean and a poisoned entry. -/
theorem hyp_addressForms : (∃ x, (onCore0 .A id).srcA 0 1 = .ok x) ∧ (onCore0 .S id).sSource 0 1 [] = some (0, []) ∧ (onCore0 .S id).sSource 0 63 [⟨5, false⟩] = some (5, [])
    ∧ (onCore0 .A fun k => { k with aq := [⟨5, false⟩] }).cur.aq = [⟨5, false⟩]
    ∧ (onCore0 .A fun k => { k with aq := [⟨5, true⟩] }).cur.aq = [⟨5, true⟩] ∧ (onCore0 .A id).cur.aq = [] :=
  ⟨isOk_of (by decide +kernel), by decide +kernel⟩
/-- The cause of an access that fails. -/
def failWith (x : Except AccErr (Snap × State)) : Option Nat :=
  match x with
  | .error (.fail f) => some f.cause
  | _ => none
/-- LoadsWhole, issue: an address readable, not readable, in the gang window; an LQ with room and full. -/
theorem hyp_loadsIssue : (∃ s : State, s.issue.core < 480 ∧ (∃ va, mrAddr 0 0 0 3 0 s = .ok va) ∧ (∃ p, s.access 2 permR 0 8 = .ok p)
      ∧ s.cur.lq.length < 64 ∧ (∃ p, s.reach (s.xctx 0) permR (0 / 128 * 128) 128 = .ok p))
    ∧ (∃ s : State, (∃ p, s.access 2 permR 0 8 = .ok p) ∧ s.cur.lq.length = 64)
    ∧ failWith ((onCore0 .A id).reach ((onCore0 .A id).xctx 2) permR 0 8) = some 1
    ∧ spaceOf (0xF * 2 ^ 48) = 2 ∧ spaceOf 0 ≠ 2 :=
  ⟨⟨pagedCore .A [] id, by decide +kernel, isOk_of (by decide +kernel), isOk_of (by decide +kernel), by decide +kernel, isOk_of (by decide +kernel)⟩,
    ⟨pagedCore .A [] fun k => { k with lq := .replicate 64 ⟨0, false, 0, false, false⟩ }, isOk_of (by decide +kernel), by decide +kernel⟩,
    by decide +kernel, by decide, by decide⟩
/-- LoadsWhole, arrival: a load at the head of A's order, into a5, into a0, into LQ, from good and from marked bytes. -/
def loadOf (dst : Option (BitVec 5)) : LoadOp := ⟨.ld 0x100 3 false dst 0 false, 0, 0, snap0, [], []⟩
def quietCore (k : Core) : Bool :=
  k.nm.isEmpty && k.bankQ.isEmpty && k.colls.toList.all Option.isNone && k.chans.toList.all fun n => n.state != .active
theorem vget_all {α : Type} {n : Nat} {v : Vector α n} {p : α → Bool} (h : v.toList.all p = true) (i : Nat) (hi : i < n) (d : α) : p (vget v i d) = true := by
  unfold vget
  rw [List.getD_eq_getElem _ _ (by simpa using hi)]
  exact List.all_eq_true.mp h _ (List.getElem_mem _)
theorem quietAll {s : State} (hx : s.xfers = [] ∧ s.landOk = []) (h : s.cores.toList.all quietCore = true) : quiet s := by
  refine ⟨hx, fun c hc => ?_⟩
  have := vget_all h c hc Core.reset
  simp only [quietCore, Bool.and_eq_true, List.isEmpty_iff] at this
  exact ⟨this.1.1.1, this.1.1.2, fun i hi => by simpa [State.core] using vget_all this.1.2 i hi none, fun n hn => by simpa [State.core] using vget_all this.2 n hn Chan.reset⟩
theorem hyp_loadArrives : let s (d : Option (BitVec 5)) := pagedCore .A [(0x100, [7])] fun k => { k with loads := [loadOf d], lq := [⟨0, false, 0, false, false⟩] }
    quiet (s (some 5)) ∧ (∀ d, d = some 5 ∨ d = some 0 ∨ d = none → ((s d).core 0).l1 = [] ∧ ((s d).core 0).stores = [] ∧ ((s d).core 0).loads = [loadOf d])
      ∧ (s none).markedV snap0 0x100 8 = none ∧ { s none with ue := [(0x40000100) / 8] }.markedV snap0 0x100 8 = some 0x40000100
      ∧ (pagedCore .A [] fun k => { k with loads := [⟨.deferred 0 1 5, 0, 0, [], [], []⟩] }).cur.loads = [⟨.deferred 0 1 5, 0, 0, [], [], []⟩] := by
  refine ⟨quietAll (by decide +kernel) (by decide +kernel), ?_, by decide +kernel⟩
  rintro d (rfl | rfl | rfl) <;> decide +kernel

/-- A clean, filled tile of 4 × 4 FP32 elements at scratchpad offset 0, pitch 64. -/
def tileF32 : Tile := { w0 := 0x0000180018008000, defd := true, psn := false, fill := 1, use := 0, idx := 0, gen := 1 }
/-- A 4 × 4 row-major FP32 layout at 0x2000 (R119), an 8 × 8 E4M3 layout with an 8 × 8 scale block grid at 0x3000, a row-blocked MX one. -/
def layF32 : List W64 := [0x0400000000002000, 0, 0x0000000400000004, 0, 16, 0, 0, 0]
def layMx : List W64 := [0x3500000000002000, 0x3000, 0x0000001000000010, 0, 16, 0, 0, 2]
def layMx2 : List W64 := [0x3600000000002000, 0x3000, 0x0000002000000020, 0, 32, 0, 0, 1]
/-- A stash header: base 0x4000, two slots of 256 bytes, nothing in it, and the same when full. -/
def stashHdr (head : W64) : List W64 := [0x4000, 0x0000010000000002, 0, head, 0, 0, 0, 0]
/-- k1 holds an address, l the words there; register codes 33 to 36 are k1 to k4. -/
def withK (w : Walker) (l : List W64) (k2 k3 k4 : W64) (f : Core → Core) : State :=
  pagedCore w [(0x1000, l)] fun k =>
    let k := k.setWk w (let x := k.wk w; { x with k := vset (vset (vset (vset x.k 1 0x1000) 2 k2) 3 k3) 4 k4 })
    f (k.setTile 1 tileF32)

/-- StoresWhole, issue: ST's operands and room; STASH on a ring with room and a full one; STASHDROP on an empty ring and not; DISCARD and CLEAN on an
aligned, a misaligned and an empty range; INVL1R. -/
theorem hyp_storesIssue : let s (h : W64) := withK .S (stashHdr h) 0x80 0x81 0 id
    (s 0).issue.core < 480 ∧ (∃ p, (s 0).srcS 0 0 33 = .ok p) ∧ (∃ p, (s 0).access 2 permW 0x1000 8 = .ok p) ∧ (∃ u, (s 0).roomFor snap0 0x1000 8 = .ok u)
      ∧ (∃ t, (s 0).tileTest 1 0 = .ok t) ∧ ((s 0).issue.pre.tile 1).psn = false ∧ (∃ p, stashHeader 0x1000 (s 2) = .ok p)
      ∧ tRows tileF32.w0 * tRowBytes tileF32.w0 ≤ 256 ∧ (∃ p, (s 0).access 0 permW 0x4000 64 = .ok p)
      ∧ ((0 : W64) - 0).toNat < 2 ∧ 2 ≤ ((2 : W64) - 0).toNat ∧ (0x80 : W64).toNat % 128 = 0 ∧ (0x81 : W64).toNat % 128 ≠ 0
      ∧ 0xE * 2 ^ 48 < 0x000DFFFFFFFFFF00 + 2 * 0x100 ∧ ((stashHdr 0).drop 2).head? = some (nth (stashHdr 0) 3 0) ∧ nth (stashHdr 2) 2 0 ≠ nth (stashHdr 2) 3 0
      ∧ (∃ p, (s 0).access 0 permR 0x1000 0x80 = .ok p) ∧ (∃ p, (s 0).access 0 ⟨false, false, false⟩ 0x1000 0x80 = .ok p) :=
  ⟨by decide +kernel, isOk_of (by decide +kernel), isOk_of (by decide +kernel), isOk_of (by decide +kernel), isOk_of (by decide +kernel), by decide +kernel,
    isOk_of (by decide +kernel), by decide +kernel, isOk_of (by decide +kernel), by decide, by decide, by decide, by decide, by decide, by decide, by decide,
    isOk_of (by decide +kernel), isOk_of (by decide +kernel)⟩
theorem hyp_storePerforms : let s := pagedCore .S [] fun k => { k with stores := [⟨.st 0x100 8 7, 0, 0, snap0, [], []⟩] }
    quiet s ∧ s.mem.wf = true ∧ (s.core 0).stores = [⟨.st 0x100 8 7, 0, 0, snap0, [], []⟩] ∧ (s.core 0).loads = [] ∧ (s.core 0).pubs = [] ∧ 0x100 % 65536 + 8 ≤ 65536
      ∧ (unitsOf (snap0.pieces 0x100 8)).length ≤ 1 ∧ 2 ≤ (unitsOf (snap0.pieces 0x104 8)).length :=
  ⟨quietAll (by decide +kernel) (by decide +kernel), by decide +kernel, by decide +kernel, by decide +kernel, by decide +kernel, by decide, by decide +kernel⟩
/-- The words of a layout record. -/
def rec8 (l : List W64) : Rec8 := vecOf 8 fun i => nth l i 0
/-- TileLoadsWhole, issue: a group, a record that reads, boxes that reach, a scratchpad address for TLDP; and records and origins that each check refuses. -/
theorem hyp_tileLoads : let s := withK .A layF32 0 0 0x000F000000000000 id
    s.issue.core < 480 ∧ (∃ m, s.grpA 0 3 33 = .ok m) ∧ (∃ m, s.grpA 0 4 33 = .ok m) ∧ (s.issue.pre.tile 1).defd = true ∧ (s.issue.pre.tile 0).defd = false
      ∧ (∃ p, s.readLayout 0x1000 = .ok p) ∧ (∃ e, s.readLayout 0x5000 = .error e) ∧ (0x1001 : W64).toNat % 64 ≠ 0
      ∧ ¬ (lMxl (rec8 layF32) = 2 ∨ tFmt tileF32.w0 ≠ lFmt (rec8 layF32)) ∧ lMxl (rec8 layMx2) = 2 ∧ mxOriginOk (rec8 layF32) (originOf 0 0) = true
      ∧ mxOriginOk (rec8 layMx) (originOf 1 0) = false ∧ addrArithBad (rec8 layF32) (boxSegs (rec8 layF32) (originOf 0 0) 4 4) = false
      ∧ addrArithBad (rec8 [0x0400000000002000, 0, 0x7FFFFFFF00000004, 0, 0x00007FFFFFFFFFF0, 0, 0, 0])
          (boxSegs (rec8 [0x0400000000002000, 0, 0x7FFFFFFF00000004, 0, 0x00007FFFFFFFFFF0, 0, 0, 0]) (originOf 0 0) 4 4) = true
      ∧ (∃ p, s.accessAll 2 permR (segRanges (boxSegs (rec8 layF32) (originOf 0 0) 4 4)) = .ok p)
      ∧ (∃ p, State.specPages (segPages (boxSegs (rec8 layF32) (originOf 0 0) 4 4)) s (s.xctx 2) [] [] = .ok p)
      ∧ (0x000F000000000000 : W64).toNat / 2 ^ 48 = 0xF :=
  by refine ⟨?_, isOk_of ?_, isOk_of ?_, ?_, ?_, isOk_of ?_, isErr_of ?_, ?_, ?_, ?_, ?_, ?_, ?_, ?_, isOk_of ?_, isOk_of ?_, ?_⟩ <;> decide +kernel
/-- TileLoadsWhole, TLDP: its tile's place lies in the core's own scratchpad. -/
def gangedK : State := { withK .A layF32 0 0 0 (fun k => { k with gangUid := some 0, id := { k.id with gsize := 1 } }) with gangs := [gang0 [0]] }
theorem hyp_tldp : gangedK.cur.id.gsize = 1 ∧ ∃ p, gangedK.accessAll 2 permW ((List.range 4).map fun k => (((0x000F000000000000 + k * 64 : Nat) : Int), 16)) = .ok p :=
  ⟨by decide +kernel, isOk_of (by decide +kernel)⟩
/-- TileLoadsIssue: a layout record that TLDS reads and one whose page it may not read; a box whose rows lie in two ranges of R108 (a stride of one
row, from 16 bytes below the carve window) and one in a single range; a TLDP address that is misaligned, and one outside the gang window. -/
def specGood (x : Except State (Except (Nat × Nat) Rec8 × State)) : Option Bool :=
  match x with
  | .ok (.ok _, _) => some true
  | .ok (.error _, _) => some false
  | .error _ => none
def laySpan : Rec8 := rec8 [0x040DFFFFFFFFFFF0, 0, 0x0000000400000004, 0, 16, 0, 0, 0]
theorem hyp_tlds : let s := withK .A layF32 0 0 0 id
    specGood (specLayout 0x1000 s) = some true ∧ specGood (specLayout 0x40000000 s) = some false
      ∧ spansRanges (segRanges (boxSegs laySpan (originOf 0 0) 4 4)) = some 0x000DFFFFFFFFFFF0
      ∧ addrArithBad laySpan (boxSegs laySpan (originOf 0 0) 4 4) = false ∧ lFmt laySpan = tFmt tileF32.w0 ∧ mxOriginOk laySpan (originOf 0 0) = true
      ∧ spansRanges (segRanges (boxSegs (rec8 layF32) (originOf 0 0) 4 4)) = none
      ∧ (0x000F000000000004 : W64).toNat % 64 ≠ 0 ∧ (0x1000 : W64).toNat % 64 = 0 ∧ (0x1000 : W64).toNat / 2 ^ 48 ≠ 0xF := by decide +kernel
/-- ScalesAndReduces: a TLDSC whose box runs past its extents' arithmetic, the scale queue with room and full; a record NMRED reads and one in a window. -/
def layFar : Rec8 := rec8 [0x3500000000002000, 0x3000, 0x7FFFFFFF00000010, 0, 0x00007FFFFFFFFFF0, 0, 0, 2]
theorem hyp_reduces : let s := withK .A layMx 0 0 0 id
    addrArithBad layFar (boxSegs layFar (originOf 0 0) 4 4) = true ∧ lMxl layFar = 1 ∧ mxOriginOk layFar (originOf 0 0) = true
      ∧ addrArithBad (rec8 layMx) (boxSegs (rec8 layMx) (originOf 0 0) 4 4) = false
      ∧ s.cur.mat.scaleQ.length + s.cur.loads.length < 4
      ∧ 4 ≤ (withK .A layMx 0 0 0 fun k => { k with mat := { k.mat with scaleQ := .replicate 4 ⟨1, 1, [127], []⟩ } }).cur.mat.scaleQ.length
      ∧ (s.nmLayout 0x1000).isOk = true ∧ 0xE * 2 ^ 48 ≤ (0x000F000000000040 : W64).toNat ∧ (0x000F000000000040 : W64).toNat < 2 ^ 52
      ∧ (0x000F000000000040 : W64).toNat % 64 = 0 := by decide +kernel
/-- ScalesAndTileStores: TLDSC's checks and NMRED's, each met and refused. -/
theorem hyp_scales : let s := withK .A layMx 0 0 0 id
    let r := withK .A layF32 0 0 0 id
    (∃ m, s.grpA 0 3 33 = .ok m) ∧ (∃ p, s.readLayout 0x1000 = .ok p) ∧ lMxl (rec8 layMx) = 1 ∧ lMxl (rec8 layF32) ≠ 1
      ∧ mxOriginOk (rec8 layMx) (originOf 0 0) = true ∧ mxOriginOk (rec8 layMx) (originOf 1 0) = false
      ∧ (scaleShape (rec8 layMx) tileF32.w0).1 * (scaleShape (rec8 layMx) tileF32.w0).2 ≤ 4096
      ∧ 4096 < (scaleShape (rec8 layMx) 0x007FF87FF8008000).1 * (scaleShape (rec8 layMx) 0x007FF87FF8008000).2
      ∧ (∃ p, s.accessAll 2 permR [((0x3000 : Nat), 1)] = .ok p)
      ∧ tFmt tileF32.w0 = 0 ∧ lFmt (rec8 layF32) = 0 ∧ lNdim (rec8 layF32) = 2 ∧ lMxl (rec8 layF32) = 0
      ∧ addrArithBad (rec8 layF32) (redSegs (rec8 layF32) 0 4 [0, 1]) = false ∧ addrArithBad (rec8 layF32) (redSegs (rec8 layF32) (-0x80000000) 4 [0]) = false
      ∧ (∃ p, r.accessNm permR (segRanges (redSegs (rec8 layF32) 0 4 [0, 1])) = .ok p) :=
  by refine ⟨isOk_of ?_, isOk_of ?_, ?_, ?_, ?_, ?_, ?_, ?_, isOk_of ?_, ?_, ?_, ?_, ?_, ?_, ?_, isOk_of ?_⟩ <;> decide +kernel
/-- ScalesAndTileStores, TST and TSCAT: every fill state of the tile at its ends, poison, a record, the segments stored to. -/
theorem hyp_tileStores : let s := withK .S layF32 0 0 0 id
    s.issue.core < 480 ∧ (∃ m, s.grpS 0 3 33 = .ok m) ∧ (∃ m, s.grpS 0 4 33 = .ok m) ∧ (s.issue.pre.tile 0).defd = false
      ∧ (tileF32.fill - tileF32.use).toNat = 1 ∧ ((2 : BitVec 16) - 0).toNat = 2 ∧ ((0x7FFF : BitVec 16) - 0).toNat < 2 ^ 15 ∧ 2 ^ 15 ≤ ((0 : BitVec 16) - 1).toNat
      ∧ s.issue.pre.chanOverlap tileF32.w0 0 4 = none ∧ (∃ p, s.readLayout 0x1000 = .ok p) ∧ lMxl (rec8 layF32) = 0 ∧ tFmt tileF32.w0 = lFmt (rec8 layF32)
      ∧ lMxl (rec8 layMx) ≠ 0 ∧ (∃ p, storeSegs (rec8 layF32) (boxSegs (rec8 layF32) (originOf 0 0) 4 4) s = .ok p)
      ∧ (∃ p, storeSegs (rec8 layF32) (scatSegs (rec8 layF32) (originOf 0 0) tileF32.w0 [0, 1, 2, 3]) s = .ok p) ∧ 4 * tRows tileF32.w0 ≤ spadSize :=
  ⟨by decide +kernel, isOk_of (by decide +kernel), isOk_of (by decide +kernel), by decide +kernel, by decide +kernel, by decide, by decide, by decide,
    by decide +kernel, isOk_of (by decide +kernel), by decide +kernel, by decide +kernel, by decide +kernel, isOk_of (by decide +kernel),
    isOk_of (by decide +kernel), by decide +kernel⟩
/-- A channel that still writes into the tile (TST waits for it). -/
def busyChan : Chan :=
  ⟨.active, true, 0, 0, [], [], [], some ⟨.tcopy, rec8 layF32, 0, 0, rec8 layF32, some ⟨1, tileF32.w0, 1⟩, 0, none, false, 0, 0⟩⟩
theorem hyp_chanOverlap : Core.reset.chanOverlap tileF32.w0 0 4 = none
    ∧ ({ Core.reset with chans := vset Core.reset.chans 3 busyChan } : Core).chanOverlap tileF32.w0 0 4 = some 3 := by decide +kernel
/-- TileLoadsWhole, arrival: a TLD and a TLDSC at the head of A's order, on the tile's present definition and on an earlier one. -/
theorem hyp_tileFills : let s (k : LoadKind) := pagedCore .A [(0x2000, [1, 2, 3])] fun c => { c.setTile 1 { tileF32 with fill := 0 } with loads := [⟨k, 0, 0, snap0, [], []⟩] }
    let b : Box := ⟨rec8 layF32, 0, 0⟩
    let a := s (.tld b ⟨1, tileF32.w0, 1⟩ false [])
    let y := s (.tldsc ⟨rec8 layMx, 0, 0⟩ ⟨1, tileF32.w0, 1⟩)
    quiet a ∧ a.ue = [] ∧ a.mem.wf = true ∧ (a.core 0).stores = [] ∧ (a.core 0).loads = [⟨.tld b ⟨1, tileF32.w0, 1⟩ false [], 0, 0, snap0, [], []⟩]
      ∧ tileOk tileF32.w0 = true ∧ lFmt b.lay = tFmt tileF32.w0 ∧ ((a.core 0).tile 1).defd = true ∧ ((a.core 0).tile 1).gen = 1
      ∧ ((a.core 0).tile 2).gen ≠ 1 ∧ quiet y ∧ (y.core 0).loads = [⟨.tldsc ⟨rec8 layMx, 0, 0⟩ ⟨1, tileF32.w0, 1⟩, 0, 0, snap0, [], []⟩] :=
  by refine ⟨quietAll ?_ ?_, ?_, ?_, ?_, ?_, ?_, ?_, ?_, ?_, ?_, quietAll ?_ ?_, ?_⟩ <;> decide +kernel
/-- AtomicsWhole, issue: operands, an aligned and a misaligned address, LQ with room and full, for ATOM and ATOMNR. -/
theorem hyp_atomsIssue : let a := withK .A [] 3 5 0 id
    let s := withK .S [] 3 5 0 id
    (∃ v, a.srcA 0 33 = .ok v) ∧ (∃ m, a.grpA 0 2 34 = .ok m) ∧ (∃ p, a.access 0 permRW 0x1000 8 = .ok p) ∧ (∃ u, a.roomFor snap0 0x1000 8 = .ok u)
      ∧ (0x1000 : W64).toNat % 8 = 0 ∧ (0x1004 : W64).toNat % 8 ≠ 0 ∧ a.cur.lq.length < 64
      ∧ (∃ v, s.srcS 0 0 33 = .ok v) ∧ (∃ m, s.grpS 0 2 34 = .ok m) ∧ (∃ p, s.access 0 permRW 0x1000 8 = .ok p) :=
  ⟨isOk_of (by decide +kernel), isOk_of (by decide +kernel), isOk_of (by decide +kernel), isOk_of (by decide +kernel), by decide, by decide, by decide +kernel,
    isOk_of (by decide +kernel), isOk_of (by decide +kernel), isOk_of (by decide +kernel)⟩
/-- AtomicsWhole, performance: an ATOM at the head of A's order, an ATOMNR alone in S's, with a walker registered on the word. -/
theorem hyp_atomsPerform : let l : LoadOp := ⟨.atom 13 3 3 0x100 1 0 0, 0, 0, snap0, [], []⟩
    let t : StoreOp := ⟨.atomnr 13 3 2 0x100 1 0, 0, 0, snap0, [], []⟩
    let s := pagedCore .A [] fun k => { k with loads := [l], wX := { k.wX with await := some ⟨0, 0x100, 0x40000100, 8, 5, 0, false⟩ } }
    let u := pagedCore .S [] fun k => { k with stores := [t] }
    quiet s ∧ s.ue = [] ∧ s.mem.wf = true ∧ (s.core 0).pubs = [] ∧ (s.core 0).releaseDone 0 = true ∧ (s.core 0).loads = [l] ∧ (s.core 0).stores = []
      ∧ ((s.core 0).wk .X).await = some ⟨0, 0x100, 0x40000100, 8, 5, 0, false⟩ ∧ quiet u ∧ (u.core 0).stores = [t] ∧ (u.core 0).loads = [] :=
  by refine ⟨quietAll ?_ ?_, ?_, ?_, ?_, ?_, ?_, ?_, ?_, quietAll ?_ ?_, ?_⟩ <;> decide +kernel
/-- AddressWaits: operands of either form, not registered and registered with a value that reaches the threshold, one below, a damaged one; a registration
of another slot; a core with one and without; no accepted add on the word. -/
theorem hyp_addressWaits : let s (r : Option AwaitReg) := withK .A [] 3 5 0 fun k => { k with wA := { k.wA with await := r } }
    (s none).issue.core < 480 ∧ (∃ v, (s none).srcA 0 33 = .ok v) ∧ (∃ v, (withK .S [] 3 5 0 id).srcS 0 0 33 = .ok v) ∧ (s none).preW.await = none
      ∧ (s (some ⟨0, 0x1000, 0x40001000, 8, 5, 4, false⟩)).preW.await = some ⟨0, 0x1000, 0x40001000, 8, 5, 4, false⟩
      ∧ (s (some ⟨1, 0x1000, 0x40001000, 8, 5, 4, true⟩)).preW.await = some ⟨1, 0x1000, 0x40001000, 8, 5, 4, true⟩ ∧ (s none).issue.slot = 0
      ∧ (s none).registered = false ∧ (s (some ⟨1, 0x1000, 0x40001000, 8, 5, 4, true⟩)).registered = true
      ∧ (∃ p, (s none).access 0 permR 0x1000 8 = .ok p) ∧ (s none).nmHits [(snap0.place 0x1000, 8)] = []
      ∧ (s none).marked (snap0.place 0x1000) 8 = false ∧ (s none).rdN (snap0.place 0x1000) 8 = 0 :=
  ⟨by decide +kernel, isOk_of (by decide +kernel), isOk_of (by decide +kernel), by decide +kernel, by decide +kernel, by decide +kernel, by decide +kernel,
    by decide +kernel, by decide +kernel, isOk_of (by decide +kernel), by decide +kernel⟩

/-! ## Hypotheses met: rings, queues, stops, system registers, rows -/

/-- Core 0 is rank 0 of a gang of one; walker w stands at a part. -/
def solo (w : Walker) (f : Core → Core) : State :=
  let s := onCore0 w fun k => f { k with gangUid := some 0, id := { k.id with gsize := 1 } }
  { s with gangs := [gang0 [0]] }
/-- StageRings: configurations that are good and bad at each end; an empty and a used ring; the owner of ring 7 of rank 0, with the ring full, with
room, disabled; ranks within and beyond the gang. -/
theorem hyp_ringsClaim : let good : W64 := 0x3000
    let r : Ring := ⟨0, 2, 2, 2, true, 0, 3⟩
    let s := solo .A fun k => { k with rings := vset k.rings 7 r }
    (good.getLsbD 13 = true ∧ fld good 6 7 = 64 ∧ fld good 0 6 + fld good 6 7 ≤ 64) ∧ (fld (0x2000 : W64) 6 7 < 1) ∧ (64 < fld (0x3001 : W64) 0 6 + fld (0x3001 : W64) 6 7)
      ∧ s.issue.core < 480 ∧ (∃ p, asVal 0 0 0 33 s = .ok p) ∧ s.rdG 1 = ⟨0, false⟩ ∧ (vget s.cur.rings 7 .reset).tail ≠ (vget s.cur.rings 7 .reset).head
      ∧ (vget s.cur.rings 6 .reset).tail = (vget s.cur.rings 6 .reset).head ∧ fld (0x70 : W64) 4 3 = 7 ∧ fld (0x70 : W64) 0 4 < fld s.cur.id.gsize 0 4
      ∧ fld s.cur.id.gsize 0 4 ≤ fld (0x71 : W64) 0 4 ∧ s.peerCore 0 0 = some 0 ∧ (s.core 0).done = false ∧ (vget (s.core 0).rings 7 .reset).en = true
      ∧ (vget (s.core 0).rings 6 .reset).en = false ∧ r.nslot.toNat ≤ (r.tail - r.head).toNat ∧ ((1 : BitVec 16) - 0).toNat < r.nslot.toNat :=
  ⟨by decide, by decide, by decide, by decide +kernel, isOk_of (by decide +kernel), by decide +kernel⟩
/-- RPUB of a claimed and an unclaimed slot, of a tile defined and not; RWAITF and RREL at each fill state. -/
theorem hyp_ringsPublish : let s := solo .A fun k => ({ k with rings := vset k.rings 7 ⟨0, 2, 2, 2, true, 0, 3⟩ }).setTile 0 tileF32
    s.peerCore 0 0 = some 0 ∧ (s.core 0).done = false ∧ (vget (s.core 0).rings 7 .reset).en = true ∧ (vget (s.core 0).rings 7 .reset).bits.getLsbD 1 = true
      ∧ (vget (s.core 0).rings 7 .reset).bits.getLsbD 2 = false ∧ ((s.core 0).tile 0).defd = true ∧ ((s.core 0).tile 1).defd = false
      ∧ fld (0x0100000000000000 : W64) 56 6 = 1 ∧ (let t := s.cur.tile 0; (t.fill - t.use).toNat = 1) ∧ (let t := { tileF32 with use := 1 }; (t.fill - t.use).toNat = 0)
      ∧ (let t := { tileF32 with fill := 2 }; 2 ≤ (t.fill - t.use).toNat ∧ (t.fill - t.use).toNat < 2 ^ 15)
      ∧ (let t := { tileF32 with use := 2 }; 2 ^ 15 ≤ (t.fill - t.use).toNat) := by decide +kernel
/-- SemaphoreCounts, QueuesAndChecks: sums at the bound, S's order empty, with a SEMSIG and with one at its head and a store behind; each queue full and with room; LQ entries here, awaited, poisoned; tiles. -/
theorem hyp_semaphores : (31 : BitVec 6).toNat < 32 ∧ 0xFFFFFFFE + ((0 : BitVec 6).toNat + 1) < 2 ^ 32 ∧ 2 ^ 32 ≤ 0xFFFFFFFF + ((0 : BitVec 6).toNat + 1)
    ∧ (onCore0 .S id).cur.stores = [] ∧ (onCore0 .S fun k => { k with stores := [⟨.semsig 0 1, 0, 0, [], [], []⟩] }).cur.stores ≠ []
    ∧ (let r : List StoreOp := [⟨.st 0x100 8 7, 0, 0, [], [], []⟩]
      (onCore0 .S fun k => { k with stores := ⟨.semsig 31 64, 0, 0, [], [], []⟩ :: r }).cur.stores = ⟨.semsig ((31 : BitVec 6).setWidth 5) ((63 : BitVec 6).toNat + 1), 0, 0, [], [], []⟩ :: r
        ∧ Core.reset.pubs = []) := by decide +kernel
theorem hyp_semsigAlone : ∀ p ∈ ([⟨.st 0x100 8 7, 0, 0, [], [], []⟩] : List StoreOp), ∀ q j, p.kind ≠ .semsig q j := by
  intro p hp q j h
  simp only [List.mem_singleton] at hp
  subst hp
  cases h
theorem hyp_queues : let s := onCore0 .X fun k => ({ k with sq := .replicate 64 ⟨0, false⟩, aq := .replicate 32 ⟨0, false⟩, bq := .replicate 32 false, kq := .replicate 16 0,
                                                            lq := [⟨0, true, 7, true, false⟩], g := vset k.g 1 ⟨5, true⟩ } : Core).setTile 1 { tileF32 with psn := true }
    let e := onCore0 .X fun k => ({ k with lq := [⟨0, false, 0, false, false⟩] } : Core).setTile 1 tileF32
    64 ≤ s.cur.sq.length ∧ 32 ≤ s.cur.aq.length ∧ 32 ≤ s.cur.bq.length ∧ 16 ≤ s.cur.kq.length ∧ (s.rdG 0).psn = false ∧ (s.rdG 1).psn = true
      ∧ s.cur.lq = [⟨0, true, 7, true, false⟩] ∧ e.cur.sq.length < 64 ∧ e.cur.aq.length < 32 ∧ e.cur.bq.length < 32 ∧ e.cur.kq.length < 16
      ∧ e.cur.lq = [⟨0, false, 0, false, false⟩] ∧ (s.issue.pre.tile 0).defd = false ∧ (s.issue.pre.tile 1).psn = true ∧ (e.issue.pre.tile 1).defd = true
      ∧ (e.issue.pre.tile 1).psn = false := by decide +kernel
/-- TakingStops, EventsPosted: a part; a queue with room, a queue without. -/
theorem hyp_events : let q : EvqRegs := ⟨0x8010000000010000, 0, 0, 0, 0, []⟩
    let s := { State.reset with evq := vset State.reset.evq 0 q }
    s.issue.core < 480 ∧ s.issue.slot < 8 ∧ s.mem.wf = true ∧ (vget s.evq 0 .none0).hasRoom = true ∧ (vget s.evq 0 .none0).waiting = []
      ∧ (vget s.evq 8 .none0).hasRoom = false ∧ (vget s.evq 8 .none0).waiting = [] := by decide +kernel
/-- SystemRegisters: a core in a gang, a clean and a poisoned source, each number named. -/
theorem hyp_systemRegisters : (solo .X id).issue.core < 480 ∧ (solo .X id).gangAt 0 = some (gang0 [0]) ∧ ((solo .X id).rdG 1).psn = false
    ∧ ((solo .X fun k => { k with g := vset k.g 1 ⟨0, true⟩ }).rdG 1).psn = true ∧ (0x11F : BitVec 14).toNat = 0x100 + 31 := by decide +kernel
/-- RowLanes: a row within and beyond the tile; every fill state; a clean and a poisoned tile. -/
theorem hyp_rowLanes : let s (p : W64) (x : Tile) := onCore0 .X fun k => ({ k with g := vset k.g 1 ⟨p, false⟩ } : Core).setTile 1 x
    onCore (s 3 tileF32) ∧ ((s 3 tileF32).rdG 1).psn = false ∧ ((s 3 tileF32).issue.pre.tile 1).defd = true ∧ fld (3 : W64) 0 32 < tRows tileF32.w0
      ∧ tRows tileF32.w0 ≤ fld (4 : W64) 0 32 ∧ fld (0x0000000300000003 : W64) 32 32 < tCols tileF32.w0 ∧ tFmt tileF32.w0 ≠ 7 ∧ tFmt tileF32.w0 ≠ 9
      ∧ tileF32.fill - tileF32.use = 1 ∧ (s 3 tileF32).issue.pre.chanOverlap tileF32.w0 3 4 = none ∧ quiet (s 3 tileF32) ∧ (s 3 tileF32).mem.wf = true
      ∧ tileOk tileF32.w0 = true ∧ ((s 3 tileF32).cur.tile 1).gen = tileF32.gen :=
  ⟨⟨by decide +kernel, by decide +kernel⟩, by decide +kernel, by decide +kernel, by decide, by decide, by decide, by decide, by decide, by decide, by decide +kernel,
    quietAll (by decide +kernel) (by decide +kernel), by decide +kernel, by decide, by decide +kernel⟩

/-! ## Hypotheses met: the matrix unit -/

/-- Filled tiles: BF16 4 × 4, E4M3 4 × 4, E8M0 1 × 1, I32 4 × 4 and FP32 4 × 4. -/
def tileOf (w0 : W64) : Tile := { tileF32 with w0 := w0 }
def tBf := tileOf 0x0080180018008000
def tE4 := tileOf 0x0180180018008000
def tSc := tileOf 0x0400000000008040
def tIx := tileOf 0x0300180018008080
/-- Walker X at a part; tiles 1 to 5 as above; what f does to the matrix unit. -/
def matCore (f : Matrix → Matrix) : State :=
  onCore0 .X fun k => ((((({ k with mat := f k.mat } : Core).setTile 1 tBf).setTile 2 tSc).setTile 3 tE4).setTile 4 tIx).setTile 5 tileF32
def fullQueue : State := matCore fun m => { m with queue := .replicate 8 ((onCore0 .X id).matNew .wswap 0 noTile) }
def scaleOne (b : Nat) : ScaleEnt := ⟨b, 1, [127], []⟩
/-- MatrixIssues: room and none; tiles that WLD and WLDX take and refuse; a scale entry that fits, one that does not, none. -/
theorem hyp_matrixPlanes : let s := matCore fun m => { m with scaleQ := [scaleOne 1] }
    s.issue.core < 480 ∧ s.cur.mat.queue.length < 8 ∧ ¬ (fullQueue.cur.mat.queue.length < 8) ∧ (∃ r, matRead 1 0 s = .ok r) ∧ (∃ r, matRead 3 0 s = .ok r)
      ∧ (∃ r, matRead 5 0 s = .ok r) ∧ matE (tFmt tBf.w0) = 1 ∧ matE (tFmt tE4.w0) = 2 ∧ matE (tFmt tileF32.w0) = 0 ∧ tRows tE4.w0 ≤ matD (tFmt tE4.w0)
      ∧ tCols tE4.w0 ≤ 256 ∧ s.cur.mat.scaleQ = [scaleOne 1] ∧ (scaleOne 1).brows = cdiv (tRows tE4.w0) 8 ∧ (scaleOne 2).brows ≠ cdiv (tRows tE4.w0) 8
      ∧ (scaleOne 1).bcols = cdiv (tCols tE4.w0) 8 ∧ (matCore id).cur.mat.scaleQ = [] :=
  ⟨by decide +kernel, by decide +kernel, by decide +kernel, isOk_of (by decide +kernel), isOk_of (by decide +kernel), isOk_of (by decide +kernel), by decide +kernel⟩
/-- Streams: a tile that fits in either form and one that does not; a scale tile that fits and none; the windows and indexes of MMU and MMUS. -/
theorem hyp_matrixStreams : let s := matCore id
    (∃ r, matRead 1 0 s = .ok r) ∧ (∃ r, matRead (1 + 1) 0 s = .ok r) ∧ matE (tFmt tBf.w0) ≠ 0 ∧ matD s.cur.mat.futureFmt.1 = 256 ∧ tCols tBf.w0 ≤ 256
      ∧ 128 * (3 : BitVec 2).toNat + tRows tBf.w0 ≤ 512 ∧ (3 : BitVec 2).toNat + 256 / 256 ≤ 4 ∧ tFmt tSc.w0 = 8 ∧ cdiv (tRows tBf.w0) 8 ≤ tRows tSc.w0
      ∧ tFmt tBf.w0 ≠ 8 ∧ matE (tFmt tileF32.w0) = 0 ∧ s.rdG 0 = ⟨0, false⟩ ∧ s.rdG (0 + 1) = ⟨0, false⟩
      ∧ (let v := windowOf 0; 1 ≤ v.ow ∧ 1 ≤ v.oh ∧ 1 ≤ v.od ∧ v.id * v.ih * v.iw ≤ tRows tBf.w0 ∧ ((0 + 1 : Nat) : Int) ≤ v.od * v.oh * v.ow
          ∧ v.kd * v.kh * v.kw * tCols tBf.w0 ≤ 256)
      ∧ (let v := windowOf 0x3FC0000000000000; ¬ (v.id * v.ih * v.iw ≤ tRows tBf.w0))
      ∧ BitVec.ofNat 6 (fld (0x1000000000000000 : W64) 58 6) = 4 ∧ (s.issue.pre.tile 4).defd = true ∧ (s.issue.pre.tile 0).defd = false ∧ (∃ r, matRead 4 0 s = .ok r)
      ∧ tFmt tIx.w0 = 6 ∧ 0 + 1 ≤ tRows tIx.w0 ∧ tCols tBf.w0 * tCols tIx.w0 ≤ 256 :=
  by refine ⟨isOk_of ?_, isOk_of ?_, ?_, ?_, ?_, ?_, ?_, ?_, ?_, ?_, ?_, ?_, ?_, ?_, ?_, ?_, ?_, ?_, isOk_of ?_, ?_⟩ <;> decide +kernel
/-- Drains: an output tile with a scale tile after it, one without, one not defined; a clean and a poisoned gc; DRNA's tile. -/
theorem hyp_matrixDrains : let s := onCore0 .X fun k => ((({ k with g := vset k.g 1 ⟨5, true⟩ } : Core).setTile 1 tE4).setTile 2 tSc).setTile 5 tileF32
    (s.issue.pre.tile 1).defd = true ∧ (s.issue.pre.tile 0).defd = false ∧ tFmt tE4.w0 = 3 ∧ 128 * (3 : BitVec 2).toNat + (drainShape tE4.w0).1 ≤ 512
      ∧ (drainShape tE4.w0).2 ≤ 256 ∧ (s.rdG 1).psn = true ∧ s.rdG 0 = ⟨0, false⟩ ∧ (s.issue.pre.tile (1 + 1)).defd = true ∧ tFmt tSc.w0 = 8
      ∧ cdiv (drainShape tE4.w0).1 8 ≤ tRows tSc.w0 ∧ cdiv (drainShape tE4.w0).2 8 ≤ tCols tSc.w0 ∧ fld (0 : W64) 24 3 = 0 ∧ (s.issue.pre.tile (5 + 1)).defd = false
      ∧ (∃ r, matRead 5 0 s = .ok r) ∧ tFmt tileF32.w0 = 0 :=
  by refine ⟨?_, ?_, ?_, ?_, ?_, ?_, ?_, ?_, ?_, ?_, ?_, ?_, ?_, isOk_of ?_, ?_⟩ <;> decide +kernel
/-- MatrixUnits: an idle unit and a busy one; a log with and without entries; each kind of syllable at the head of the queue, in the preload path and
in the compute path. -/
def mop (k : MatKind) (w0 : W64) : MatOp := { (onCore0 .X id).matNew k 0 ⟨1, w0, 1⟩ with walk := 0 }
theorem hyp_matrixUnits : let s (f : Matrix → Matrix) := matCore f
    ((s id).cur.mat.queue = [] ∧ (s id).cur.mat.preload = none ∧ (s id).cur.mat.compute = [] ∧ (s id).cur.mat.log = [])
      ∧ fullQueue.cur.mat.queue ≠ [] ∧ (s fun m => { m with log := .replicate 16 1 }).cur.mat.log.length = 16
      ∧ ((s fun m => { m with queue := [mop .wld tBf.w0] }).core 0).mat.queue = [mop .wld tBf.w0]
      ∧ ((s fun m => { m with queue := [mop .wswap 0], preload := some (mop .wld tBf.w0) }).core 0).mat.preload = some (mop .wld tBf.w0)
      ∧ (MatKind.mm).streams = true ∧ (∀ o ∈ [{ mop .mm tBf.w0 with streamed := true }], o.kind.streams = true → o.streamed = true)
      ∧ (∀ b, b < 4 → (0x3 : BitVec 4).getLsbD b = true → (0xF : BitVec 4).getLsbD b = true)
      ∧ ((0xF : BitVec 4).getLsbD 3 = true ∧ (0x7 : BitVec 4).getLsbD 3 = false)
      ∧ ((s fun m => { m with compute := [mop .ashape 0] }).core 0).mat.compute = [mop .ashape 0] ∧ (mop .mmz 0).sem = none
      ∧ (s id).ue = [] ∧ matE (tFmt tBf.w0) ≠ 0 ∧ tCols tBf.w0 ≤ 256 ∧ (mop .wld 0).rel = false ∧ ({ mop .wld 0 with sem := some 31 }).sem = some 31
      ∧ (let t := s fun m => { m with compute := [mop .mm tBf.w0] }
        (t.core 0).mat.active.badCells = [] ∧ (t.core 0).mat.active.badScales = [] ∧ (t.core 0).mat.accBad = [] ∧ (mop .mm tBf.w0).streamed = false
          ∧ matE (t.core 0).mat.active.fmtN ≠ 0)
      ∧ (mop (.drn 0) tileF32.w0).t1 = none ∧ tileOk tileF32.w0 = true ∧ tFmt tileF32.w0 = (MatKind.drn 0).outFmt ∧ tFmt tileF32.w0 = MatKind.drna.outFmt
      ∧ fmtF (tFmt tileF32.w0) = some .fp32 := by decide +kernel
theorem hyp_matrixQuiet : quiet (matCore fun m => { m with compute := [mop (.drn 0) tileF32.w0] }) := quietAll (by decide +kernel) (by decide +kernel)
/-- MatrixErrors, MatrixResults: each of MERRQ, MERRS and MERRC at the head of the queue of an idle unit and of a busy one, the log with an entry and
without; a drain of a single unit and one of several. -/
theorem hyp_matrixErrors : let s (k : MatKind) (f : Matrix → Matrix) := matCore fun m => f { m with queue := [mop k 0] }
    (∀ k ∈ [MatKind.merrq 63, .merrs 63, .merrc], ((s k id).core 0).mat.queue = [mop k 0] ∧ ((s k id).core 0).mat.compute = [] ∧ ((s k id).core 0).mat.log = [])
      ∧ ((s .merrc fun m => { m with compute := [mop .mmz 0] }).core 0).mat.compute ≠ [] ∧ ((s (.merrq 1) fun m => { m with log := [7] }).core 0).mat.log = [7]
      ∧ (unitsOf ((mop .drna 0x0000000000008000).drainPieces 0)).length ≤ 1 ∧ 2 ≤ (unitsOf ((mop .drna tileF32.w0).drainPieces 0)).length := by decide +kernel

/-- MatrixResults: MMT among the streams; a drain to MX with a scale tile clear of the output, one to BX24, a tile of each. -/
theorem hyp_matrixDrained : let op : MatOp := { mop (.drnmx 0) tE4.w0 with t1 := some ⟨2, tSc.w0, 1⟩ }
    MatKind.mmt.streams = true ∧ (mop .mmt tBf.w0).streamed = false ∧ (mop .mmt tBf.w0).got = [] ∧ op.kind.drains = true ∧ tileOk op.t.w0 = true ∧ op.kind.isMx = true
      ∧ tFmt op.t.w0 = op.kind.outFmt ∧ tileOk tSc.w0 = true ∧ tFmt tSc.w0 = 8 ∧ cdiv (tRows tE4.w0) 8 ≤ tRows tSc.w0 ∧ cdiv (tCols tE4.w0) 8 ≤ tCols tSc.w0
      ∧ (∀ i, i < 4 → ∀ b, b < 1 → (tileRow 0 tE4.w0 i).1 + (tileRow 0 tE4.w0 i).2 ≤ (tileRow 0 tSc.w0 b).1)
      ∧ tRows tE4.w0 = 4 ∧ tRows tSc.w0 = 1 ∧ fmtF (tFmt tE4.w0) = some .e4m3 ∧ (MatKind.drnmx 6).isMx = false ∧ (MatKind.drnmx 6).drains = true
      ∧ (MatKind.drnmx 6).outFmt = 9 ∧ tFmt 0x0480000000008000 = 9 ∧ op.units = [] := by decide +kernel

/-! ## Hypotheses met: near memory, landing, abutment programs -/

/-- NearAdds: operands, an aligned and a misaligned address, a page in HBM, one in the cantilever, room and none; BKWAIT's count below and at its bound. -/
def oneAdd (after : Nat) (acc : Option Nat) : NmOp := ⟨0x40001000, 0x1000, 0x3F800000, acc, after⟩
theorem hyp_nearAdds : let s (f : Core → Core) := withK .S [0x3F800000] 0 0 0 f
    (∃ p, (s id).srcS 0 0 33 = .ok p) ∧ (∃ p, (s id).access 0 permW 0x1000 4 = .ok p) ∧ (0x1002 : Int) % 4 ≠ 0 ∧ isCant (snap0.place 0x1000) = false
      ∧ isCant placeCant = true ∧ (s id).cur.nm.length < 64 ∧ 64 ≤ (s fun k => { k with nm := .replicate 64 (oneAdd 0 none) }).cur.nm.length ∧ (s id).cur.nm = [] ∧ (s id).issue.pre.nm = []
      ∧ (s fun k => { k with nm := [oneAdd 0 none] }).issue.pre.nm ≠ []
      ∧ (vget (s id).cur.sems 31 .reset).count.toNat < (0 : BitVec 6).toNat + 1
      ∧ (0 : BitVec 6).toNat + 1 ≤ (vget (s fun k => { k with sems := vset k.sems 31 ⟨1, false⟩ }).cur.sems 31 .reset).count.toNat :=
  ⟨isOk_of (by decide +kernel), isOk_of (by decide +kernel), by decide, by decide +kernel, by decide, by decide +kernel⟩
/-- k1 to k6: destination, LENK, completion record, sources (R343). -/
def bankS (g1 : W64) (f : Core → Core) : State :=
  pagedCore .S [] fun k => f { k with wS := { k.wS with k := vset (vset (vset (vset (vset (vset k.wS.k 1 0x4000) 2 g1) 3 0x1000) 4 0x8000) 5 0xC000) 6 0x10000 } }
def bankX : XCtx := { core := some 0, part := 0, unit := .bank 0, die := 0, win := 0 }
def bankPages : List BkPage := [⟨0x4000, true, 0xF800000040000000, 1⟩, ⟨0x8000, false, 0xF800000040000000, 1⟩, ⟨0x1000, true, 0xF800000040000000, 1⟩]
def bankOne : BankCmd :=
  { op := 0, part := 0, kept := [], dst := 0x4000, lenk := 1, crec := 0x1000, fill := 0, srcs := [0x8000], snap := snap0, seq := 0, inst := 0, serial := 0, gang := 0, rank := 0,
    after := 0, afterNm := 0, afterLd := 0, chans := [], started := false, rows := [], fast := 0, seqr := 0, copy := 0, err := 0, complete := false, native := [], spoiled := false, tns := 0 }
/-- Bank commands at issue: groups of each length, fields clean and not, lengths at their ends, pages that translate, a queue with room and full. -/
theorem hyp_bankIssues : let s := bankS 1 id
    (∃ m, s.grpS 0 4 33 = .ok m) ∧ (∃ m, s.grpS 0 3 33 = .ok m) ∧ (∃ m, s.grpS 0 6 33 = .ok m) ∧ fld (1 : W64) 32 2 ≠ 2 ∧ fld (0x200000001 : W64) 32 2 = 2
      ∧ sGrp 4 33 = none ∧ fld (1 : W64) 34 30 = 0 ∧ fld (0x400000001 : W64) 34 30 ≠ 0 ∧ fld (0x300000001 : W64) 32 2 = 3 ∧ 0x4000 % 1024 = 0 ∧ fld (0x4001 : W64) 0 32 > 16384
      ∧ 0x1000 % 64 = 0 ∧ (∃ p, State.bkLeaves [(0x4000, true), (0x8000, false), (0x1000, true)] s bankX [] = .ok p)
      ∧ (∃ p, s.bkPlaces bankX bankPages = .ok p) ∧ (s.cur.bankQ.countP fun b => !b.complete) < 16
      ∧ 16 ≤ ((bankS 1 fun k => { k with bankQ := .replicate 16 bankOne }).cur.bankQ.countP fun b => !b.complete) :=
  ⟨isOk_of (by decide +kernel), isOk_of (by decide +kernel), isOk_of (by decide +kernel), by decide, by decide, by decide +kernel, by decide, by decide, by decide, by decide, by decide,
    by decide, isOk_of (by decide +kernel), isOk_of (by decide +kernel), by decide +kernel⟩
/-- The steps: an add not accepted and accepted; a command not started, held back, at a row, at its end, complete. -/
theorem hyp_nearSteps : let s (f : Core → Core) := bankS 1 f
    (s id).ue = [] ∧ (s id).mem.wf = true ∧ ((s fun k => { k with nm := [oneAdd 0 none] }).core 0).nm = [oneAdd 0 none] ∧ (oneAdd 0 (some 3)).accepted ≠ none
      ∧ ((s fun k => { k with bankQ := [bankOne] }).core 0).bankQ = [bankOne] ∧ bankOne.after = 0 ∧ bankOne.afterNm = 0 ∧ ¬ (({ bankOne with after := 1 } : BankCmd).after = 0)
      ∧ 0 < bankOne.lenk ∧ 0 ∉ bankOne.rows ∧ ((List.range 1024).all fun o => bankOne.overlaps (1024 * 0 + o) == false) = true
      ∧ bankOne.spoiled = false ∧ bankOne.op.toNat ≤ 5 ∧ bankOne.lenk ≤ ({ bankOne with rows := [0] } : BankCmd).rows.length ∧ (s id).instDone bankOne.inst = true := by decide +kernel
theorem hyp_nearQuiet : quiet ((bankS 1 fun k => { k with nm := [oneAdd 0 (some 3)] }).modCore 0 fun k => { k with nm := [] }) :=
  quietAll (by decide +kernel) (by decide +kernel)
theorem hyp_rowQuiet : quiet ((bankS 1 fun k => { k with bankQ := [bankOne] }).modCore 0 fun k => { k with bankQ := [] }) :=
  quietAll (by decide +kernel) (by decide +kernel)

/-- A run on the block at 0x8000, with slot 0 bound to an FP32 layout at 0x2000. -/
def run0 : AbutRun :=
  { lrec := 0x1000, part := 0, blk := 0, key := 0, prog := [Vector.replicate 8 padSyl], pc := 0, v := .replicate 32 (.replicate 64 0), m := .replicate 8 0,
    p := .replicate 16 0, acc := 0x8000, rows := 8, cols := 8, bi := 0, bj := 0, slots := [(0, rec8 [0x0400000000002000, 0, 0x0000000800000008, 0, 32, 0, 0, 0])],
    snap := snap0, isLanding := true, sparse := none, undo := none, late := [], closed := false, skipped := false, ended := false }
def engine : State :=
  let s := pagedCore .X [] id
  { s with issue := { s.issue with abut := true, preMem := s.mem, preAbut := some run0 }, abut := some run0 }
/-- AbutmentSyllables, LaneResults: a core's text; an engine with a run at hand, a block of zeros and one that is not, a slot. -/
theorem hyp_engine : hasUnit engine ∧ engine.issue.abut = true ∧ engine.abut = some run0 ∧ engine.ue = [] ∧ engine.retry = false ∧ quiet engine ∧ (onCore0 .X id).issue.abut = false
    ∧ (bxOf (engine.rdV snap0 0x8000 256)).rsv = 0 ∧ engine.rdV snap0 0x8000 256 = bxBytes bxZero
    ∧ (put engine 0x8000 [1]).rdV snap0 0x8000 256 ≠ bxBytes bxZero ∧ (∃ l, run0.slot 0 = some l) :=
  ⟨⟨fun h => absurd h (by decide +kernel), fun _ => by decide +kernel⟩, by decide +kernel, by decide +kernel, by decide +kernel, by decide +kernel, quietAll (by decide +kernel) (by decide +kernel), by decide +kernel,
    by decide +kernel, by decide +kernel, by decide +kernel, isSome_of (by decide +kernel)⟩

/-- A landing record in a state (R368), its update record, and its update program, which ends at once. -/
def landMem (st cnt : W64) : List (Nat × List W64) :=
  [(0x1000, [st <<< 62 ||| 0x8000, 0x08000008, 0, 0x0001000000000000 ||| cnt <<< 32, 0x1100, 0, 0, 0]),
   (0x1100, 0x1200 :: List.replicate 23 0), (0x1200, [0x003FFFFF8E800000, 0x003FFFFF003FFFFF, 0x003FFFFF003FFFFF, 0x003FFFFF003FFFFF])]
def landS (st cnt : W64) : State := pagedCore .X (landMem st cnt) id
def land0 : Landing := ⟨0, 0x1000, some (.replicate 64 0), none, [0], none, true⟩
def upd0 : Landing := ⟨0, 0x1000, none, none, [], none, true⟩
def shard0 : Shard := ⟨0, 0x1000, 0, .replicate 64 0, none⟩
theorem hyp_landRec : (∀ st : W64, st < 4 → (List.range 4).all (fun n => (((landS (BitVec.ofNat 64 n) 0).landRec 0 0x1000).map (fun r => lrState r.1)).toOption == some n) = true)
    ∧ (∃ p, (landS 1 0).landRec 0 0x1000 = .ok p) :=
  ⟨fun _ _ => by decide +kernel, isOk_of (by decide +kernel)⟩
set_option maxRecDepth 10000000 in
theorem landValid_ok : ((landS 1 0).landValidate 0 0x1000 (rec8 ((landMem 1 0).head!).2)).isOk = true := by decide +kernel
set_option maxRecDepth 10000000 in
theorem updEnd_ok : ((landS 2 0).updateFinish upd0).isOk = true := by decide +kernel
/-- LandingSteps: records of each state, a good and a damaged one; a shard at its micro-batch; a landing with a block to do; an update with its generation's
readers at work and gone, and at its end. -/
theorem hyp_landing : let r := rec8 ((landMem 1 0).head!).2
    lrRows r * lrCols r = 64 ∧ lrCnt r = shard0.mb.toNat ∧ (landS 1 0).landBusy 0 0x1000 = false ∧ (∃ t, (landS 1 0).landValidate 0 0x1000 r = .ok t)
      ∧ (∃ e, (landS 1 0).landValidate 0 0x1000 (rec8 [0x4010000000008000, 0x08000008, 0, 0x0001000000000000, 0x1100, 0, 0, 0]) = .error e)
      ∧ ({ landS 1 0 with shards := [shard0] }).shards[0]? = some shard0 ∧ ({ landS 1 0 with landings := [land0] }).landings[0]? = some land0
      ∧ (landS 1 0).abut = none ∧ 0 ∈ land0.todo ∧ (∃ t, (landS 1 0).runStart land0 0 = .ok t) ∧ (∃ e, (onCore0 .X id).runStart land0 0 = .error e)
      ∧ (∃ t, (landS 2 0).updateFinish upd0 = .ok t) ∧ upd0.todo = [] :=
  ⟨by decide +kernel, by decide +kernel, by decide +kernel, isOk_of landValid_ok, isErr_of (by decide +kernel), by decide +kernel, by decide +kernel, by decide +kernel, by decide,
    isOk_of (by decide +kernel), isErr_of (by decide +kernel), isOk_of updEnd_ok, by decide⟩
/-- A generation record at 0x1300: no reader of generation 1, one of generation 0. -/
def genS : State := put (put (landS 2 0) 0x1108 [0x1300]) 0x1308 [0x0000000000000001]
theorem hyp_genBegin : (∃ p, genS.bdWords (bdX 0 (genS.stackAt 0 0x1000)) 0x1100 24 = .ok p) ∧ (∃ p, genS.bdWords (bdX 0 (genS.stackAt 0 0x1000)) 0x1308 1 = .ok p)
    ∧ fld (1 : W64) (32 * (0 % 2)) 32 ≠ 0 ∧ fld (1 : W64) (32 * (1 % 2)) 32 = 0 :=
  ⟨isOk_of (by decide +kernel), isOk_of (by decide +kernel), by decide, by decide⟩
/-- What the base die meets: an ERR code, or 0 on a page that is being moved. -/
def bdCode {α : Type} (x : Except BdErr α) : Option Nat :=
  match x with
  | .error e => some e.code
  | .ok _ => none
/-- The record's update record lies on a page that is being moved: the leaf of the second GiB, where UREC points, has MIG set. -/
def movingS : State :=
  let s := pagedCore .X [(0x1000, [0x4000000000008000, 0x08000008, 0, 0x0001000000000000, 0x40001100, 0, 0, 0])] id
  s.wr (131072 + 8) (words [0xF820000040000000])
/-- The record's accumulator block lies on a page that is not mapped. -/
def noAcc : State :=
  pagedCore .X [(0x1000, [0x4000000080000000, 0x08000008, 0, 0x0001000000000000, 0x1100, 0, 0, 0]), (0x1100, 0x1200 :: List.replicate 23 0)] id
/-- LandingSteps: a record armed before and one not; a validation that is held, one that fails on a page where STATE 3 can be written; a block whose run
cannot start for the same reason; an engine at work. -/
theorem hyp_landErrors : { landS 1 0 with landOk := [⟨0, 0x1000, [], []⟩] }.armed 0 0x1000 = true ∧ (landS 1 0).armed 0 0x1000 = false
    ∧ bdCode (movingS.landValidate 0 0x1000 (rec8 [0x4000000000008000, 0x08000008, 0, 0x0001000000000000, 0x40001100, 0, 0, 0])) = some 0
    ∧ bdCode ((landS 1 0).landValidate 0 0x1000 (rec8 [0x4010000000008000, 0x08000008, 0, 0x0001000000000000, 0x1100, 0, 0, 0])) = some 1
    ∧ (((landS 1 0).bdMet 0 (bdErr 1)).landFail 0 0x1000 1).isSome = true
    ∧ bdCode (noAcc.runStart land0 0) = some 2 ∧ ((noAcc.bdMet 0 (bdErr 2)).landFail 0 0x1000 5).isSome = true
    ∧ { landS 1 0 with abut := some run0 }.abut ≠ none ∧ { land0 with begun := false }.begun = false ∧ 1 ∉ land0.todo := by decide +kernel
/-- NearSteps: a command one of whose sources overlaps its destination, and what it keeps of it. LandingSteps: the record as it shows at a shard. -/
theorem hyp_kept : let b : BankCmd := { bankOne with lenk := 2, srcs := [0x4400], kept := [⟨0x8000480, .replicate 8 0, false⟩] }
    b.overlaps 1024 = true ∧ b.overlaps 0 = false ∧ (∀ g ∈ b.kept, g.bad = false) ∧ (((landS 1 0).landLate 0 0x1000).landRec 0 0x1000).isOk = true := by decide +kernel

/-! ## Hypotheses met: copy channels and collectives -/

/-- A 4 × 4 row-major FP32 layout at 0x3000. -/
def layTo : List W64 := [0x0400000000003000, 0, 0x0000000400000004, 0, 16, 0, 0, 0]
/-- A copy from the layout at 0x1000 to the one that group member 3 names, from origin 0. -/
def chanS (g3 : W64) (f : Core → Core) : State := withK .A (layF32 ++ layTo) 0 0 g3 f
def copy0 : ChCmd :=
  { kind := .tcopy, src := rec8 layF32, o01 := 0, o23 := 0, dst := rec8 layTo, tile := none, mask := 0, picked := none, sig := true, sem := 1, walk := 0 }
/-- One element of it. -/
def copy1 : ChCmd := { copy0 with src := rec8 [0x3400000000002000, 0, 0x0000000100000001, 0, 1, 0, 0, 0], dst := rec8 [0x3400000000003000, 0, 0x0000000100000001, 0, 1, 0, 0, 0] }
def chan0 : Chan := { state := .active, dsp := false, wmark := 0, pcount := 0, written := [], underway := [], raced := [], cmd := some copy1 }
def chanR (x : Chan) : State := chanS 0x1040 fun k => { k with chans := vset k.chans 0 x }
/-- ChannelsIssue: groups of 4 and 5; a channel idle and active; reserved bits clear and not; layouts; a tile defined and not; checks passed and failed. -/
theorem hyp_channelsIssue : let s := chanS 0x1040 id
    s.issue.core < 480 ∧ (∃ m, s.grpA 0 4 33 = .ok m) ∧ (∃ m, s.grpA 0 5 33 = .ok m) ∧ (vget s.cur.chans 0 .reset).state = .idle ∧ s.activeRanges = []
      ∧ (vget (chanR chan0).cur.chans 0 .reset).state ≠ .idle ∧ fld (0x1040 : W64) 52 6 = 0 ∧ fld (0x10000000001040 : W64) 52 6 ≠ 0
      ∧ (∃ p, s.readLayout 0x1000 = .ok p) ∧ (∃ p, s.readLayout 0x1040 = .ok p) ∧ (s.issue.pre.tile 1).defd = true ∧ (s.issue.pre.tile 2).defd = false
      ∧ (∃ u, chanChecks copy0 s = .ok u) ∧ (∃ e, chanChecks { copy0 with kind := .txp, src := rec8 [0x9400000000002000], dst := rec8 [0x9400000000003000] } s = .error e) :=
  ⟨by decide +kernel, isOk_of (by decide +kernel), isOk_of (by decide +kernel), by decide +kernel, by decide +kernel, by decide +kernel, by decide, by decide, isOk_of (by decide +kernel),
    isOk_of (by decide +kernel), by decide +kernel, by decide +kernel, isOk_of (by decide +kernel), isErr_of (by decide +kernel)⟩
def failsAt {α : Type} (x : Except ChErr α) : Bool :=
  match x with
  | .error (.fail _ _ none) => true
  | _ => false
theorem failsAt_of {α : Type} {x : Except ChErr α} (h : failsAt x = true) : ∃ f va, x = .error (.fail f va none) := by
  unfold failsAt at h
  split at h
  · exact ⟨_, _, rfl⟩
  · cases h
/-- The granule of a channel's command, translated; its source byte is written to one place of the destination. -/
def planOf (x : Chan) (cmd : ChCmd) : Option (Granule × State) := ((chanR x).granPlan 0 0 0 cmd).toOption
/-- Steps: a granule in the window with all its translations, and of one byte of it the source element, the value and its place; one already written; a
command at its end and short of it, with and without a tile; an access that fails. -/
theorem hyp_channelSteps : let s := chanR chan0
    (vget (s.core 0).chans 0 .reset).cmd = some copy1 ∧ (vget (s.core 0).chans 0 .reset).state = .active ∧ copy1.granules = 1
      ∧ (s.granPlan 0 0 0 copy1).isOk = true ∧ s.ue = [] ∧ (chan0.part 0).got = [] ∧ (chan0.part 0).units = []
      ∧ (vget ((chanR { chan0 with written := [0] }).core 0).chans 0 .reset).written = [0]
      ∧ copy1.granules ≤ (vget ((chanR { chan0 with wmark := 1 }).core 0).chans 0 .reset).wmark
      ∧ failsAt ((onCore0 .A fun k => { k with chans := vset k.chans 0 chan0 }).granTry 0 0 0 copy1) = true
      ∧ (List.range 64).all (fun i => !failsAt (s.granTry 0 0 (0 + i) copy1)) = true := by decide +kernel
def elem0 : Coord := ⟨0, 0, 0, 0⟩
set_option maxRecDepth 10000000 in
theorem hyp_granule :
    (planOf chan0 copy1).any (fun q => decide (q.2.ue = []) && q.2.mem.wf && (q.2.cantTake ((q.1.places copy1 0 0).map fun l => (l, 1)) (some (.chan 0 0))).isOk
        && q.1.places copy1 0 0 == [0x40003000] && q.1.at' 0x3000 == 0x40003000 && q.2.granFree 0 0 0 copy1 q.1 == [] && q.1.codes copy1 == []) = true
      ∧ ((copy1.granElems 0 0).head? = some elem0) ∧ copy1.dBytes = 1 ∧ copy1.dWidth ≠ 4 ∧ copy1.origin.c0 + elem0.c0 = elem0.c0 ∧ (copy1.dAddr 0 elem0).toNat = 0x3000
      ∧ copy1.granSpan 0 0 = (0x3000, 0x3001) := by decide +kernel
theorem hyp_chanAlone : quiet ((chanR chan0).modCore 0 fun k => { k with chans := vset k.chans 0 .reset }) := quietAll (by decide +kernel) (by decide +kernel)
/-- ChannelSteps: a gather that has not read its mask, which it can reach; a destination in a cantilever page of the second GiB that has no room. -/
def gath1 : ChCmd := { copy1 with kind := .tgath, mask := 0x4000 }
def cantS (x : Chan) : State :=
  let s := chanR x
  { s with mem := (s.mem.setN 131080 (words [0x8000000000030000])).setN 196608 (words [0xF100000000000000]),
           parts := vset s.parts 0 ⟨0x8000000000000001, 0, 0, 0⟩ }
def toCant : ChCmd := { copy1 with dst := rec8 [0x3400000040000000, 0, 0x0000000100000001, 0, 1, 0, 0, 0] }
def roomAt {α : Type} (x : Except ChErr α) : Option (Nat × Nat × Nat) :=
  match x with
  | .error (.room p d va) => some (p, d, va)
  | _ => none
set_option maxRecDepth 10000000 in
theorem hyp_channelWaits : (chReach (chanR { chan0 with cmd := some gath1 }) 0 0 permR [gath1.maskRange] []).isOk = true ∧ gath1.picked = none
    ∧ 1 ≤ gath1.granules ∧ roomAt ((cantS { chan0 with cmd := some toCant }).granTry 0 0 0 toCant) = some (0, 0, 0x40000000) := by decide +kernel

/-- A collective of sub 0 on one FP32 element without neighbours: SRC 0x2000, DST 0x3000, CSEM 0x4000, STAT 0x4008, TAG 7. -/
def collWords (dims : W64) : List W64 := [dims <<< 53 ||| 0x2000, 0x3000, 0x0000000100000007, 0x4000, 0x4008, 0, 0, 0]
def coll0 : Coll :=
  { sub := 0, desc := rec8 (collWords 0), part := 0, walk := 0, snap := snap0, released := true, owner := none, met := false, data := [], bad := [], sent := false, answered := false,
    held := none, delivered := false, raced := [], wrote := false, code := none, serial := 0, gang := 0, rank := 0 }
/-- A CPUT of four bytes to a device at coordinates t. -/
def put0 (t : W64) : Coll := { coll0 with sub := 3, desc := rec8 [0x2000, 0, 0x0000000400000000, 0x4000, 0x4008, t, 0, 0] }
def collS (x : Coll) : State := withK .S (collWords 0) 0 0 0 fun k => { k with colls := vset k.colls 0 (some x) }
/-- Collectives, issue: a slot free and none, a descriptor that passes and one that fails its checks or has reserved bits, TAGs free and in flight. -/
theorem hyp_collIssues : let s := withK .S (collWords 0) 0 0 0 id
    s.issue.core < 480 ∧ (∃ p, s.srcS 0 0 33 = .ok p) ∧ vget s.cur.colls 0 none = none
      ∧ (∀ j, j < 8 → vget (withK .S [] 0 0 0 fun k => { k with colls := .replicate 8 (some coll0) }).cur.colls j none ≠ none)
      ∧ (0x1000 : W64).toNat % 64 = 0 ∧ (0x1008 : W64).toNat % 64 ≠ 0 ∧ (∃ p, collDesc 0x1000 s = .ok p) ∧ (∃ p, collChecks 0 (rec8 (collWords 0)) s = .ok p)
      ∧ (∃ e, collChecks 0 (rec8 [0x2000, 0x3000, 0x0000000100000007, 0x4001]) s = .error e) ∧ cdUnusedBits 0 (rec8 [0x0010000000000000]) = true
      ∧ s.tagBusy 0 7 = false ∧ (collS coll0).tagBusy 0 7 = true :=
  ⟨by decide +kernel, isOk_of (by decide +kernel), by decide +kernel, by decide +kernel, by decide, by decide, isOk_of (by decide +kernel), isOk_of (by decide +kernel),
    isErr_of (by decide +kernel), by decide +kernel⟩
def peer0 : PeerColl := { fctx := 0, tag := 7, index := 1, sub := 0, dims := 0, fmt := 1, ofmt := 0, count := 1 }
/-- Steps: a slot empty and in use; peers that disagree, that are missing (a line of two devices), all met; a target outside the torus and one inside. -/
theorem hyp_collMeets : vget ((collS coll0).core 0).colls 0 none = some coll0 ∧ vget ((collS coll0).core 0).colls 1 none = none ∧ (collS coll0).collReleased 0 coll0 = true
    ∧ [peer0].filter ((collS coll0).matched coll0) = [peer0] ∧ [{ peer0 with tag := 8 }].filter ((collS coll0).matched coll0) = []
    ∧ [peer0].any coll0.disagrees = true ∧ ([] : List PeerColl).any coll0.disagrees = false ∧ (collS coll0).collLinks coll0 = []
    ∧ (∀ p, p < (collS coll0).partCount (cdDims coll0.desc) → p = (collS coll0).partIndex (cdDims coll0.desc))
    ∧ (let s := { collS coll0 with idDev := 0x001000 }; let x := { coll0 with desc := rec8 (collWords 1) }
        s.partCount (cdDims x.desc) = 2 ∧ s.partIndex (cdDims x.desc) = 0 ∧ cdSrcLen 0 x.desc = 4)
    ∧ (collS (put0 1)).targetOut (put0 1) = true
    ∧ (let s := { collS (put0 1) with idDev := 0x001000 };
        s.targetOut (put0 1) = false ∧ s.targetSelf (put0 1) = false ∧ s.collLinks (put0 1) = [List.range 4, List.range 4] ∧ (List.range 4).all (fun l => !s.linkUp l) = true
          ∧ (List.range 4).all ({ s with links := .replicate 12 0x8000000000000000 } : State).linkUp = true) := by decide +kernel
/-- What arrives: for a CPUT whose request has left, a CGET's four bytes; and a code to write at STAT, with its raise of CSEM. -/
theorem hyp_collEnds : let s := collS { coll0 with code := some 3 }
    cdCount (put0 0).desc = 4 ∧ quiet (s.modCore 0 fun k => { k with colls := vset k.colls 0 none }) ∧ s.mem.wf = true ∧ cdStat coll0.desc % 8 = 0
      ∧ snap0.place (cdStat coll0.desc) = 0x40004008 ∧ snap0.place (cdCsem coll0.desc) = 0x40004000 ∧ isCant 0x40004008 = false ∧ isCant 0x40004000 = false ∧ isCant 0x4000400F = false
      ∧ 0x40004008 / 128 = 0x4000400F / 128 :=
  ⟨by decide +kernel, quietAll (by decide +kernel) (by decide +kernel), by decide +kernel, by decide +kernel, by decide +kernel, by decide +kernel, by decide, by decide, by decide, by decide⟩
/-- A local part that cannot be read, and one that can; a link up and down. -/
theorem hyp_collHeld : let x := { coll0 with met := true }
    (onCore0 .S id).collFailure x ≠ none ∧ (collS x).collFailure x = none ∧ State.reset.linkUp 0 = false
      ∧ ({ State.reset with links := .replicate 12 0x8000000000000000 } : State).linkUp 0 = true
      ∧ (∀ j k, j < 480 → k < 8 → vget (State.reset.core j).colls k none = none) :=
  ⟨by decide +kernel, by decide +kernel, by decide +kernel, by decide +kernel, fun j k hj hk => by
    have h := vget_all (p := fun c : Core => c.colls.toList.all (· == none)) (v := State.reset.cores) (by decide +kernel) j hj .reset
    simpa [State.core] using vget_all (p := fun x : Option Coll => x == none) h k hk none⟩
/-- CollectiveSteps: a fabric context and a TAG that are the collective's own, and others; a write to a window that is made; a raise to come. -/
theorem hyp_collFlits : (collS coll0).fctx coll0.part = 0 ∧ cdTag coll0.desc = 7 ∧ (0 : BitVec 16).toNat = 0 ∧ (7 : BitVec 32).toNat = 7 ∧ (8 : BitVec 32).toNat ≠ 7
    ∧ (collS { coll0 with held := some (1, 0x2000) }).collReady coll0 = false := by decide +kernel
/-- CollectiveSteps, ends: a CRS that has all its parts, its destination reached; one ended with code 5, part of it moving; a CRSL to be delivered. -/
def collAll (sub : BitVec 3) : Coll := { coll0 with sub := sub, met := true, sent := true, data := [(0, [0, 0, 0x80, 0x3F])] }
theorem hyp_collResult : let x := collAll 0
    let s := collS x
    s.collReady x = true ∧ x.bad = [] ∧ x.raced = [] ∧ s.ue = [] ∧ (s.ioReach x.part permW (cdDst x.desc) 4).isOk = true
      ∧ cdDstLen 0 (s.partCount (cdDims x.desc)) x.desc = 4 ∧ (s.collResult x).1.length = 4 ∧ ((List.range 4).map fun j => snap0.place (cdDst x.desc + j)).Nodup
      ∧ (List.range 4).all (fun j => isCant (snap0.place (cdDst x.desc + j) / 128 * 128) == false && decide (snap0.place (cdDst x.desc + j) < 0x40004000)) = true
      ∧ (collAll 1).sub = 1 ∧ (collS (collAll 1)).collReady (collAll 1) = true ∧ (collAll 1).delivered = false ∧ ({ collAll 1 with delivered := true } : Coll).delivered = true
      ∧ (let y := { x with code := some 5 }
        (collS y).peek (ioX y.part) permW (cdDst y.desc) 4 = snap0 ∧ cdDst y.desc = 0x3000 ∧ y.moving = true ∧ (collS y).collByte y 0 = some 0) := by decide +kernel
/-- A device with a window of 4 KiB at 0x5000 for partition 0, its table at 0x30000. -/
def windowed : State :=
  let s := { withK .S [] 0 0 0 id with parts := vset State.reset.parts 0 ⟨0x8000000000000000, 0, 0x0080000000030000, 0⟩ }
  { s with mem := s.mem.setN 0x30000 (words [0xE000000000005000, 0x1000]) }
theorem hyp_windows : windowed.window 0 0 8 4 false = some (0, 0x5000) ∧ windowed.window 0 0 8 8 true = some (0, 0x5000) ∧ windowed.window 1 0 8 4 false = none
    ∧ windowed.window 0 0 0x1000 8 true = none ∧ windowed.ue = [] ∧ windowed.mem.wf = true ∧ (windowed.ioReach 0 permR 0x5008 4).isOk = true
    ∧ (windowed.ioReach 0 permRW 0x5008 8).isOk = true
    ∧ (windowed.ioReach 0 permW 0x5008 4).isOk = true ∧ (windowed.ioWrite 0 snap0 0x5008 [1, 2, 3, 4]).1 = true
    ∧ (0, 0, 8) ∈ ({ windowed with rsigs := [(0, 0, 8)] } : State).rsigs ∧ (0, 0, 8) ∉ windowed.rsigs ∧ isCant 0x40005008 = false
    ∧ windowed.window 0 0 8 8 true ≠ none := by decide +kernel
theorem hyp_windowsQuiet : quiet windowed := quietAll (by decide +kernel) (by decide +kernel)

/-! ## Hypotheses met: walkers and cores -/

/-- Walker w of core 0 runs at address 0x1000, where the first GiB of partition 0 lies, and has the waits given. -/
def fetchS (w : Walker) (l : List Stall) (f : Core → Core) : State :=
  pagedCore w [(0x1000, [0x1111111122222222])] fun k => f (k.setWk w { k.wk w with run := .running, pc := 0x1000, stalls := l })
def wait0 (budget count : Nat) : Stall := { slot := 3, res := 12, obj := 0, bidx := 0, budget := budget, addr := 0, stash := false, fetch := false, drain := false, count := count }
/-- BundleFetch: a walker that runs, with no budget exceeded and no stopping place; A in reach of S's slip bound and not; a fetch that translates and one that fails. -/
theorem hyp_fetch : let s := fetchS .A [] id
    let b := s.beginIssue 0 .A
    let x := (s.core 0).wk .A
    x.run = .running ∧ x.due = none ∧ x.atPoint = false ∧ ((fetchS .A [] fun k => { k with slip := 0 }).core 0).slipOk = false
      ∧ ((fetchS .A [] fun k => { k with slip := 8 }).core 0).slipOk = true ∧ (s.core 0).acqHold = [] ∧ (s.core 0).acqHolds .A = false ∧ (b.reach (b.xctx 0) permX x.pc.toNat 32).isOk = true
      ∧ (∀ i, i < 32 → b.marked (snap0.place (x.pc.toNat + i)) 1 = false) := by decide +kernel
def failsReach {α : Type} (x : Except AccErr α) : Bool :=
  match x with
  | .error (.fail _) => true
  | _ => false
theorem hyp_fetchFails : failsReach (let b := (onCore0 .A id).beginIssue 0 .A; b.reach (b.xctx 0) permX 0x1000 32) = true := by decide +kernel
/-- WalkerEvents: a wait past its budget. -/
theorem hyp_progress : let x := ((fetchS .X [wait0 4 5] id).core 0).wk .X
    x.run = .running ∧ x.due = some (wait0 4 5) ∧ (wait0 4 5).slot < 8 := by decide +kernel
def endedCore (k : Core) : Core :=
  { k with gangUid := some 0, wA := { k.wA with run := .ended }, wX := { k.wX with run := .ended }, wS := { k.wS with run := .ended } }
/-- A gang of one or two whose first core has ended, and whose second has ended or not. -/
def endedS (n : Nat) (f : Core → Core) : State :=
  let s := (onCore0 .A endedCore).modCore 1 f
  { s with gangs := [{ gang0 [0] with cores := List.range n }] }
theorem hyp_coreEnds : let s := endedS 1 id
    let k := s.core 0
    k.gangUid = some 0 ∧ k.done = false ∧ k.wA.run = .ended ∧ k.wX.run = .ended ∧ k.wS.run = .ended ∧ k.loads = [] ∧ k.stores = [] ∧ k.nm = [] ∧ k.pubs = [] ∧ k.lateRows = none
      ∧ (∀ i, i < 16 → (vget k.chans i .reset).state = .idle) ∧ (s.gangs.find? fun g => g.uid = 0) = some { gang0 [0] with cores := List.range 1 }
      ∧ (∀ d, d ∈ List.range 1 → d < 480 ∧ (d ≠ 0 → (s.core d).done = true)) ∧ ((endedS 2 endedCore).core 1).done = false
      ∧ ((endedS 2 fun k => { endedCore k with done := true }).core 1).done = true := by decide +kernel
theorem hyp_barrierArrives : let s := ganged .A [0] fun k => { k with barPend := [(0, 0)], wX := { k.wX with walk := 1 } }
    (s.core 0).barPend = [(0, 0)] ∧ s.gangAt 0 = some (gang0 [0]) ∧ (s.core 0).rank < (gang0 [0]).arr.length ∧ (s.core 0).releaseDone 0 = true
      ∧ walkLt (s.core 0).wX.walk 0 = false ∧ (gang0 [0]).holds (s.core 0).rank = false := by decide +kernel
theorem hyp_carveMoves : (∀ added : Bool, ({ gang0 [0] with motion := [(1, added, 0)] }).motion = [(1, added, 0)]) ∧ (gang0 [0]).carve ≤ 1
    ∧ (({ State.reset with gangs := [{ gang0 [0] with motion := [(1, true, 0)] }] }).gangs.find? fun g => g.uid = 0) = some { gang0 [0] with motion := [(1, true, 0)] }
    ∧ State.reset.mem.wf = true := by decide +kernel

/-! ## Hypotheses met: the host port and boot -/

theorem hyp_rdma : let s := pagedCore .A [] id
    (s.ioReach 0 permW 0x5000 4).isOk = true ∧ (s.ioReach 0 permR 0x5000 4).isOk = true ∧ s.mem.wf = true ∧ 0x5000 % 65536 + 4 ≤ 65536 ∧ snap0.place 0x5000 + 4 ≤ 2 ^ 40 := by
  decide +kernel
theorem hyp_rdmaQuiet : quiet (pagedCore .A [] id) := quietAll (by decide +kernel) (by decide +kernel)
def ioFails {α : Type} (x : Except (Option AccFail) α) : Option Bool :=
  match x with
  | .error (some _) => some true
  | .error none => some false
  | .ok _ => none
/-- A page that is not present: absent until partition 0's HELD answer, or a failure (R495). -/
theorem hyp_rdmaFails : ioFails (State.reset.ioReach 0 permW 0x5000 4) = some true ∧ ioFails (State.reset.ioReach 0 permR 0x5000 4) = some true := by decide +kernel
/-- A module at stage n with the management channel connected. -/
def staged (n : W64) : State := { State.reset with mgmtUp := true, powered := true, boot := n <<< 60 }
theorem hyp_hostRequests : (staged 4).powered = true ∧ (staged 4).mgmtUp = true ∧ fld (staged 4).boot 60 4 = 4 ∧ fld (staged 3).boot 60 4 = 3 ∧ fld (staged 2).boot 60 4 = 2
    ∧ fld (staged 5).boot 60 4 = 5 ∧ fld (staged 0).boot 60 4 = 0 ∧ fld (staged 1).boot 60 4 = 1 ∧ fld (staged 3).boot 60 4 ∉ [2]
    ∧ (3 : BitVec 8).toNat ∉ [1, 2, 5, 6, 7, 8, 9] ∧ (staged 2).flash.wf = true ∧ (staged 2).flashErased = false ∧ ({ staged 2 with flashErased := true } : State).flashErased = true
    ∧ (0 : W64).toNat < 16 ∧ (List.replicate 32 (0 : Byte)).length = 32 := by decide +kernel
/-- A chunk that fits in a flash of any size. -/
theorem hyp_chunk : (0 : W64).toNat + ([] : List Byte).length ≤ Config.flashSize ∧ ([] : List Byte).length ≤ 4096 := ⟨Nat.zero_le _, by decide⟩
/-- Offsets: in no register, misaligned, and the first and last of each group. -/
theorem hyp_controlSpace : csReg 0xF00000 = none ∧ 1 % 8 ≠ 0 ∧ (∀ n : Nat, n ∈ [0, 0x3038, 0x6118, 0x7238, 0x8158, 0x2077C0 - 0x20] → n % 8 = 0)
    ∧ State.reset.slotState 0 = 0 ∧ State.reset.slotState 479 = 0 ∧ csReg 0x3040 = none := by decide +kernel
theorem hyp_boot_links : linkTrains ⟨none, 0, 3, 1, 0xF000, false⟩ 0 = true ∧ (1 : BitVec 12).getLsbD 0 = true
    ∧ linkTrains ⟨none, 0, 3, 1, 0xF000, false⟩ 1 = true ∧ (1 : BitVec 12).getLsbD 1 = false := by decide +kernel

theorem hyp_boots : (∃ e : BootEnv, e.failStack = none) ∧ (∃ e : BootEnv, e.failStack = some 3) ∧ State.reset.flashErased = false
    ∧ ({ State.reset with flashErased := true } : State).flash.wf = true ∧ State.reset.booting = none ∧ ({ State.reset with booting := some ⟨none, 0, 0, 0, 0, false⟩ } : State).booting = some ⟨none, 0, 0, 0, 0, false⟩ :=
  ⟨⟨⟨none, 0, 0, 0, 0, false⟩, rfl⟩, ⟨⟨some 3, 0, 0, 0, 0, false⟩, rfl⟩, by decide +kernel, by decide +kernel, by decide +kernel, by decide +kernel⟩
/-- RdmaAccesses: a write that is held, with a later write of its queue pair on the agenda and one of another's. -/
theorem hyp_rdmaHeld : let r : List Instr := [.rdmaWrite ⟨1, 0⟩ 0x5000 [2], .rdmaWrite ⟨2, 0⟩ 0x5000 [3]]
    let u := { pagedCore .A [] id with retry := true, agenda := r }
    u.retry = true ∧ u.agenda = r ∧ (r.filter fun j => instrLine j == some (1 + 1)) = [.rdmaWrite ⟨1, 0⟩ 0x5000 [2]]
    ∧ ioFails (({ pagedCore .A [] id with mem := movingS.mem } : State).ioReach 0 permR 0x40001100 4) = some false := by decide +kernel

/-! ## Hypotheses met: work queues, launches and graphs -/

/-- A root RCB at 0x30000 (480 cores, any priority, pool at 0x30080) and its pool of 16 slots at 1 MiB. -/
def rcbWords : List W64 := [0x41FF000000000000, 1, 480, 0, 0, 0, 0x30080, 0, 0, 0, 0, 0, 0, 0, 0, 0, 0x100000, 0x0000098000000010]
/-- A launch of the image at 0x6800 under it, one gang of one core; and a launch or a seal of the graph object at 0x7000. -/
def launchRec : List W64 := [0x1000000000006800, 0x30000, 0x10001, 0, 0, 0, 0, 0, 0, 0, 0, 0, 0, 0, 0, 0]
def graphRec (kind : W64) : List W64 := [kind <<< 60 ||| 0x7000, 0x30000]
def imageWords : List W64 := [0x0101100000000000, 0x0000002000000000]
/-- A graph object of one node, a host signal. -/
def graphWords : List W64 := [1, 0x7100, 0, 0x7200, 0x7300, 8]
/-- Partition 0 on die 0 with that root; work queue 0 of two records at 0x6000, the first of them at HEAD; words further up. -/
def keystone (rec' : List W64) (more : List (Nat × List W64)) : State :=
  let s := pagedCore .A [] id
  { s with
    mem := s.mem ++ cellsAt 0x30000 (words rcbWords) ++ ([(0x6000, rec'), (0x6800, imageWords), (0x7000, graphWords), (0x7100, [0x8000000000000000, 0x55])] ++ more).flatMap
      fun (p : Nat × List W64) => cellsAt (0x40000000 + p.1) (words p.2)
    parts := vset s.parts 0 ⟨0x8000000000000001, 0x30000, 0, 0⟩
    wqs := vset s.wqs 0 ⟨0x8010000000006000, 0, 0, 1, [], false⟩
    boot := 4 <<< 60 }
/-- Whether a record is taken that satisfies p. -/
def takes (s : State) (p : List W64 → Answer → State → Bool) : Bool :=
  match s.takeRecord 0 with
  | .ok (w, a, u) => p w a u
  | .error _ => false
def refused {α : Type} (x : Except Refuse α) (c : Nat) : Bool :=
  match x with
  | .error (.code d) => c == d
  | _ => false
/-- KernelLaunches: a record that is accepted, a malformed one, and one whose image is refused. -/
theorem hyp_launch : takes (keystone launchRec []) (fun w a u => recKind w == 1 && (u.checkKernel a w).isOk) = true := by decide +kernel
theorem hyp_launchRefused : takes (keystone [0x1000000000006800, 0x30000, 0x110001] []) (fun w a u => recMalformed w && !(keystone launchRec []).answerHeld a && refused (u.checkKernel a w) 1) = true
    ∧ takes (keystone [0x1000000000007000, 0x30000, 0x10001] []) (fun w a u => refused (u.checkKernel a w) 2) = true := by decide +kernel
def waits {α : Type} (x : Except Refuse α) : Bool :=
  match x with
  | .error .wait => true
  | _ => false
def damagedAt {α : Type} (x : Except Refuse α) : Bool :=
  match x with
  | .error (.damaged _) => true
  | _ => false
/-- KernelLaunches: a record whose region is being edited, and one whose region is damaged; a record that the keystone has kept. -/
theorem hyp_launchWaits : takes (let s := keystone launchRec []; { s with mem := s.mem.setN 0x30000 (words [0x61FF000000000000]) }) (fun w a u => waits (u.checkKernel a w)) = true
    ∧ takes { keystone launchRec [] with ue := [0x30000 / 8] } (fun w a u => damagedAt (u.checkKernel a w)) = true
    ∧ takes (let s := keystone launchRec []; { s with wqs := vset s.wqs 0 ⟨0x8010000000006000, 0, 1, 1, launchRec, false⟩ }) (fun w a u =>
        recKind w == 1 && a.idx == 0 && (u.wq 0).head == 1) = true := by decide +kernel
/-- A status word at 0x5000. -/
theorem hyp_refusal : let s := pagedCore .A [] id
    s.mem.wf = true ∧ (s.ioReach 0 permW 0x5000 8).isOk = true ∧ snap0.place 0x5000 + 8 ≤ 2 ^ 40 ∧ 0x5000 % 8 = 0 := by decide +kernel
/-- GraphInstances: a seal that passes; a launch of the current version. -/
theorem hyp_seal : takes (keystone (graphRec 3) []) (fun w a u => recKind w == 3 && a.stat == 0 && a.done == 0 && (u.checkSeal a w).isOk) = true := by decide +kernel
theorem hyp_sealQuiet : quiet (keystone (graphRec 3) []) ∧ (keystone (graphRec 3) []).mem.wf = true := ⟨quietAll (by decide +kernel) (by decide +kernel), by decide +kernel⟩
/-- A version of the graph whose nodes are the words given, without edges, kernel template at node 0; an instance of it in slot 0. -/
def ver0 (ns : List Rec8) : GraphVer :=
  { uid := 1, part := 0, obj := 0x7000, version := 1, cbase := 0x7300, cstride := 8, nodes := ns, edges := [], templates := [(0, vecOf 16 (wd launchRec))], current := true, bad := false }
def gi0 (ns : List NodeSt) : GraphInst :=
  { id := 2, ver := 1, part := 0, wq := 0, recIdx := 0, lrec := vecOf 16 (wd (graphRec 2)), serial := 1, fdom := 0, slot := some 0, nodes := ns, edges := [],
    insts := [], trips := [], regs := [], fails := [], ending := none, ended := false }
def graphS (ns : List Rec8) (g : GraphInst) : State := { keystone (graphRec 2) [] with graphs := [ver0 ns], ginsts := [g] }
theorem hyp_graphLaunch : takes (graphS [rec8 [0x8000000000000000]] (gi0 [.waiting])) (fun w a u => recKind w == 2 && !recMalformed w && (u.checkRegion a.part w).isOk
    && (match u.ksWords a.part (recObj w) 8 10 with | .ok o => !goMalformed o | .error _ => false) && (u.currentVer a.part (recObj w)).isSome && (u.checkWords a).isOk) = true := by decide +kernel
theorem hyp_graphStart : let g := { gi0 [.waiting] with slot := none }
    let s := graphS [rec8 [0x8000000000000000]] g
    s.gi 2 = some g ∧ ((s.ginsts.filter fun h => h.ver = g.ver && !h.ended).find? fun h => h.slot.isNone && h.ending.isNone) = some g
      ∧ (∀ h, h ∈ s.ginsts → h.slot ≠ some (BitVec.ofNat 3 0)) := by decide +kernel
/-- Instances that end: a kernel's with its gang done and not, and a graph's. -/
def inst0 : Inst :=
  { id := 0, part := 0, wq := none, node := none, serial := 1, gslot := 0, lrec := vecOf 16 (wd launchRec), image := vecOf 16 (wd imageWords), tileTable := [], fdom := 0,
    level := 0, gen := none, areas := [], bkQueued := 0, bkReported := 0, ending := none, ended := false }
theorem hyp_instancesEnd : (let i := { inst0 with ending := some (0, 0) }
      ({ State.reset with insts := [i] }).inst 0 = some i ∧ fld (vget i.lrec 7 0) 0 52 = 0 ∧ fld (vget i.lrec 6 0) 0 52 = 0 ∧ (gang0 [0]).st ≠ .done
        ∧ ({ gang0 [0] with st := .done }).st = .done)
    ∧ (let g := { gi0 [.resolved] with ending := some 0 }
      ({ State.reset with ginsts := [g] }).inst 2 = none ∧ ({ State.reset with ginsts := [g] }).gi 2 = some g ∧ fld (vget g.lrec 7 0) 0 52 = 0) := by decide +kernel
/-- A node of each kind that is due: words 0, 1 and 2, and what the instance says of it. -/
def dueS (w0 w1 w2 : W64) (st : NodeSt) : State := graphS [rec8 [w0, w1, w2], rec8 [0x8000000000000000]] (gi0 [st, .waiting])
def isDue (s : State) (k : Nat) (on : Bool) : Bool :=
  match s.nodeDue 2 0 k with
  | some (_, _, _, o) => o == on
  | none => false
theorem hyp_nodesDue : isDue (dueS 0x1000000000000000 0x6000 0 .waiting) 1 false = true ∧ isDue (dueS 0x2000000000000000 0 0 .waiting) 2 false = true
    ∧ isDue (dueS 0x3000000000000000 0 0x0000000300010001 .waiting) 3 false = true ∧ isDue (dueS 0x4000000000000000 0 0 .waiting) 4 false = true
    ∧ isDue (dueS 0x5000000000000000 0 1 .waiting) 5 false = true ∧ isDue (dueS 0x6000000000000000 0x7300 1 .waiting) 6 false = true
    ∧ isDue (dueS 0x6000000000000000 0x7300 1 .running) 6 true = true ∧ isDue (dueS 0x7000000000000000 0x7400 0 .waiting) 7 false = true
    ∧ isDue (dueS 0x8000000000000000 0x55 0 .waiting) 8 false = true := by decide +kernel
/-- NodesBranch: a due node of a version that holds uncorrectable data, and one that does not. -/
theorem hyp_nodeBad : isDue { dueS 0x8000000000000000 0x55 0 .waiting with graphs := [{ ver0 [rec8 [0x8000000000000000, 0x55, 0], rec8 [0x8000000000000000]] with bad := true }] } 8 false = true
    ∧ (ver0 []).bad = false := by decide +kernel
theorem hyp_nodesQuiet : quiet (dueS 0x2000000000000000 0 0 .waiting) ∧ (gi0 [.waiting, .waiting]).fits (ver0 [rec8 [0x2000000000000000, 0, 0], rec8 [0x8000000000000000]]) :=
  ⟨quietAll (by decide +kernel) (by decide +kernel), rfl, rfl⟩
def okWord (x : Except (Option State) (Nat × W64 × State)) (v : W64) : Bool :=
  match x with
  | .ok (_, w, _) => w == v
  | .error _ => false
def badRead (x : Except (Option State) (Nat × W64 × State)) : Bool :=
  match x with
  | .error (some _) => true
  | .error none => false
  | .ok _ => false
set_option maxRecDepth 10000000 in
/-- NodesBranch: a condition word that is 0, one that is not, and one that cannot be read; a template accepted, and refused. -/
theorem hyp_nodeWords : okWord ((dueS 0x2000000000000000 0 0 .waiting).nodeWord 0 0x7300) 0 = true ∧ okWord ((dueS 0x2000000000000000 0 0 .waiting).nodeWord 0 0x7108) 0x55 = true
    ∧ badRead (State.reset.nodeWord 0 0x7300) = true ∧ nMaxit (rec8 [0, 0, 0x0000000300010001]) = 3 ∧ nFirst (rec8 [0, 0, 0x0000000300010001]) = 1 := by decide +kernel
theorem hyp_nodeKernel : ((dueS 0x1000000000000000 0x6000 0 .waiting).checkKernel { part := 0, stat := 0, done := 0, wq := 0, idx := 0 } launchRec).isOk = true := by
  decide +kernel
theorem hyp_nodeKernelRefused : refused (State.reset.checkKernel { part := 0, stat := 0, done := 0, wq := 0, idx := 0 } launchRec) 2 = true := by decide +kernel
/-- NodesComplete: a source resolved with its instance, ended and all reported or not, and skipped; a registration below and at its threshold. -/
theorem hyp_nodesComplete : let s := dueS 0x8000000000000000 0x55 0 .waiting
    (gi0 [.waiting, .resolved]).st 1 = .resolved ∧ (gi0 [.waiting, .skipped]).st 1 = .skipped
      ∧ (({ gi0 [] with insts := [(1, 0)] }).insts.find? fun i => i.1 = 1) = some (1, 0) ∧ ({ s with insts := [{ inst0 with ended := true }] }).inst 0 = some { inst0 with ended := true }
      ∧ inst0.bkQueued = inst0.bkReported ∧ inst0.ended = false ∧ (({ gi0 [] with regs := [(0, 0x40007300, 0, false)] }).regs.find? fun r => r.1 = 0) = some (0, 0x40007300, 0, false)
      ∧ s.mgmtUp = false ∧ ({ s with mgmtUp := true } : State).mgmtUp = true := by decide +kernel
/-- StorageTransfers: descriptors malformed and not, targets up and not; one command to run in each direction. -/
def xferWords (dir : W64) : List W64 := [dir <<< 62 ||| 0x8000, 0, 1, 0, 0, 0, 0, 0]
def xfer0 (dir : W64) : Xfer := { gi := 2, node := 0, desc := rec8 (xferWords dir), left := [0], code := 0, nvme := 0, spoiled := [] }
theorem hyp_transfers : let s := { dueS 0x7000000000000000 0x7108 0 .running with xfers := [xfer0 1], stgt := .replicate 16 0x8009000000000000 }
    xferMalformed (rec8 (xferWords 1)) 9 = false ∧ xferMalformed (rec8 (xferWords 0)) 9 = true ∧ (vget s.stgt 0 0).getLsbD 63 = true ∧ (vget State.reset.stgt 0 0).getLsbD 63 = false
      ∧ (match s.ksWords 0 0x8000 8 1 with | .ok l => l.length == 8 | .error _ => false) = true ∧ 0 ∈ (xfer0 1).left ∧ s.gi (xfer0 1).gi = some (gi0 [.running, .waiting])
      ∧ fld (vget s.stgt 0 0) 48 8 = 9 := by decide +kernel
set_option maxRecDepth 10000000 in
theorem hyp_transferMoves : let s := { dueS 0x7000000000000000 0x7108 0 .running with xfers := [xfer0 1], stgt := .replicate 16 0x8009000000000000 }
    ({ s with xfers := [] }.ioReach 0 permR 0x8000 512).isOk = true ∧ s.markedV snap0 0x8000 512 = none
      ∧ ({ s with xfers := [] }.ioReach 0 permW 0x8000 512).isOk = true ∧ 0x8000 % 65536 + 512 ≤ 65536 := by decide +kernel
theorem hyp_transfersQuiet : quiet { { dueS 0x7000000000000000 0x7108 0 .running with xfers := [xfer0 1], stgt := .replicate 16 0x8009000000000000 } with xfers := [] } :=
  quietAll (by decide +kernel) (by decide +kernel)

/-! ## Hypotheses met: slots, gangs and scheduling -/

/-- Core 0's slot with bits 63 to 0 of its word 0, a gang of one on it, and what f does to the core. -/
def slotS (w0 : W64) (st : GangSt) (f : Core → Core) : State :=
  let s := onCore0 .A fun k => f { k with gangUid := some 0 }
  { s with gangs := [{ gang0 [0] with st := st }], insts := [inst0], slots := vset s.slots 0 ⟨w0, 0, 0, 0x100000, 0, 0, 0⟩ }
/-- SlotTable: a slot in each state, with and without a gang. -/
theorem hyp_slots : State.reset.slotState 0 = 0 ∧ fld (0x2000000000000000 : W64) 61 3 = 1 ∧ fld (0x4000000000000000 : W64) 61 3 ≠ 1
    ∧ (slotS 0x2000000000000000 .bound id).slotState 0 = 1 ∧ (slotS 0x4000000000000000 .bound id).slotState 0 = 2 ∧ (slotS 0xA000000000000000 .preempting id).slotState 0 = 5
    ∧ (State.reset.core 0).gangUid = none ∧ (let s := slotS 0x4000000000000000 .bound id
      (s.core 0).gangUid = some 0 ∧ (s.gangs.find? fun g => g.uid = 0) = some (gang0 [0]) ∧ (∀ d, d ∈ (gang0 [0]).cores → d < 480 ∧ s.slotState d = 2)
        ∧ s.inst (gang0 [0]).inst = some inst0 ∧ inst0.ending = none) := by decide +kernel
/-- SlotTable: bind records and refusals of a FREE and a bound slot, the value that STATE holds among them. -/
theorem hyp_slotRefused : (State.reset.slotState 0, fld (0x2000000000000000 : W64) 61 3) ∈ [(0, 1), (1, 0)]
    ∧ ((slotS 0x4000000000000000 .bound id).slotState 0, fld (0x4000000000000000 : W64) 61 3) ∉ [(0, 1), (1, 0), (2, 3), (2, 4), (5, 4)]
    ∧ (State.reset.slotState 0, fld (0 : W64) 61 3) ∉ [(0, 1), (1, 0), (2, 3), (2, 4), (5, 4)] := by decide +kernel
theorem hyp_slotWords : (0, fld (0x2000000000000000 : W64) 61 3) ∈ [(0, 1), (1, 0)] ∧ (2, fld (0x2000000000000000 : W64) 61 3) ∉ [(0, 1), (1, 0), (2, 3), (2, 4), (5, 4)]
    ∧ (slotS 0xA000000000000000 .preempting id).slotState 0 ≠ 2 ∧ (slotS 0x4000000000000000 .bound id).slotState 0 = fld (0x5000000000000000 : W64) 61 3 := by decide +kernel
theorem recall_none {s : State} (h : s.excl = []) (l n : Nat) : s.recall l n = s :=
  congrArg (fun e => ({ s with excl := e } : State)) (show s.excl.filter _ = s.excl by rw [h]; rfl)
/-- One level of a walk at a leaf, and at a table entry that the walk cache holds. -/
theorem walk_leaf {s : State} {r : List Nat} {lv part die va t : Nat} {e : W64}
    (ho : (s.tlb.find? fun x => x.part == part && x.unit == .walkCache die && x.level == lv && x.vbase == va / lvSpan lv * lvSpan lv) = none)
    (hm : s.rd64 (t + 8 * tblIndex lv va) = e) (hu : s.ue = []) (hr : s.excl = []) (e63 : e.getLsbD 63 = true) (hv : s.malformed part lv e = false) (e62 : e.getLsbD 62 = true) (e53 : e.getLsbD 53 = false) :
    State.walkGo (lv :: r) s part die va t = (.leaf e lv, s) := by
  simp [-BitVec.getLsbD_eq_getElem, State.walkGo, recall_none hr, ho, hm, State.marked, hu, e63, hv, e62, e53]
theorem walk_table {s : State} {r : List Nat} {lv part die va t : Nat} {e : W64} {o : TlbEnt}
    (ho : (s.tlb.find? fun x => x.part == part && x.unit == .walkCache die && x.level == lv && x.vbase == va / lvSpan lv * lvSpan lv) = some o)
    (hm : s.rd64 (t + 8 * tblIndex lv va) = e) (hp : o.pte = e) (hu : s.ue = []) (hr : s.excl = []) (e63 : e.getLsbD 63 = true) (hv : s.malformed part lv e = false) (e62 : e.getLsbD 62 = false) :
    State.walkGo (lv :: r) s part die va t = State.walkGo r (s.tlbAdd ⟨part, .walkCache die, va / lvSpan lv * lvSpan lv, lv, e, none⟩) part die va (fld e 8 36 * 256) := by
  simp [-BitVec.getLsbD_eq_getElem, State.walkGo, recall_none hr, ho, hm, hp, State.marked, hu, e63, hv, e62]
/-- The I/O die holds the translations of the first GiB. -/
def warm (s : State) (e : W64) : State := { s with tlb := [⟨0, .walkCache 8, 0, 0, 0x8000000000020000, none⟩, ⟨0, .io, 0, 1, e, none⟩] }
/-- With them every page of it is found, and the state stays as it is. -/
theorem warm_page {s : State} {e : W64} {p : Perm} {va : Nat} (hx : vget s.xl 0 .none0 = ⟨0x8000000000000000, 0, 0, 0, 1⟩) (h0 : s.rd64 0x10000 = 0x8000000000020000)
    (h1 : s.rd64 0x20000 = e) (hu : s.ue = []) (hr : s.excl = []) (hm0 : (warm s e).malformed 0 0 0x8000000000020000 = false) (hm : (warm s e).malformed 0 1 e = false)
    (he : e.getLsbD 63 = true ∧ e.getLsbD 62 = true ∧ e.getLsbD 53 = false ∧ e.getLsbD 56 = false ∧ e.getLsbD 52 = false ∧ fld e 16 28 * 65536 = 0x40000000 ∧ permOk p e = true)
    (hv : va < 1073741824) : (warm s e).pageOf (ioX 0) p va = .ok (0x40000000 + va / 65536 * 65536, e, warm s e) := by
  obtain ⟨e63, e62, e53, e56, e52, ef, ep⟩ := he
  have l0 : lvSpan 0 = 549755813888 := rfl
  have l1 : lvSpan 1 = 1073741824 := rfl
  have i0 : tblIndex 0 va = 0 := by show (va >>> 39) % 8192 = 0; rw [Nat.shiftRight_eq_div_pow, Nat.div_eq_of_lt (by omega)]
  have i1 : tblIndex 1 va = 0 := by show (va >>> 30) % 512 = 0; rw [Nat.shiftRight_eq_div_pow, Nat.div_eq_of_lt (by omega)]
  have b0 : va / lvSpan 0 * lvSpan 0 = 0 := by rw [l0, Nat.div_eq_of_lt (by omega), Nat.zero_mul]
  have b1 : va / lvSpan 1 * lvSpan 1 = 0 := by rw [l1, Nat.div_eq_of_lt hv, Nat.zero_mul]
  have m1 : va % lvSpan 1 = va := by rw [l1, Nat.mod_eq_of_lt hv]
  have hw : (warm s e).walkPages 0 8 va = (.leaf e 1, { warm s e with tlb := [⟨0, .io, 0, 1, e, none⟩, ⟨0, .walkCache 8, 0, 0, 0x8000000000020000, none⟩] }) := by
    have hx' : vget (warm s e).xl 0 .none0 = ⟨0x8000000000000000, 0, 0, 0, 1⟩ := hx
    unfold State.walkPages
    rw [hx']
    have s5 : (1 : BitVec 28).toNat * 65536 = 65536 := by decide
    have s3 : fld (0x8000000000020000 : W64) 8 36 * 256 = 131072 := by decide
    simp only [s5, show (!(0x8000000000000000 : W64).getLsbD 63) = false from by decide, Bool.false_eq_true, if_false]
    rw [walk_table (s := warm s e) (o := ⟨0, .walkCache 8, 0, 0, 0x8000000000020000, none⟩) (e := 0x8000000000020000) (by rw [b0]; rfl) (by rw [i0]; exact h0) rfl (show (warm s e).ue = [] from hu) (show (warm s e).excl = [] from hr) (by decide) hm0 (by decide), b0, s3]
    exact walk_leaf (by rw [b1]; rfl) (by rw [i1]; exact h1) hu hr e63 hm e62 e53
  have hl : (warm s e).leafOf (ioX 0) va = (.leaf e 1, warm s e) := by
    have hf : (List.find? (fun t : TlbEnt => t.part == 0 && t.unit == .io && decide (t.vbase ≤ va) && decide (va < t.vbase + lvSpan t.level))
        [⟨0, .io, 0, 1, e, none⟩, ⟨0, .walkCache 8, 0, 0, 0x8000000000020000, none⟩]) = some ⟨0, .io, 0, 1, e, none⟩ := by
      have : va < lvSpan 1 := by rw [l1]; exact hv
      simp [List.find?, this]
    unfold State.leafOf
    rw [show (ioX 0).part = 0 from rfl, show (ioX 0).die = 8 from rfl, show (ioX 0).unit = .io from rfl, hw]
    have hv' (u : State) : u.vecWord 8 e = none := by simp [-BitVec.getLsbD_eq_getElem, State.vecWord, e52]
    simp only [hf, hv', Found.isLeaf, beq_self_eq_true, Bool.and_self, if_true, b1]
    rfl
  unfold State.pageOf
  rw [hl]
  simp [-BitVec.getLsbD_eq_getElem, ep, State.leafPlace, State.leafFrame, e56, e52, ef, m1]
theorem warm_pages {s : State} {x : XCtx} {p : Perm} {l : List Nat} {acc : Snap} (h : ∀ va ∈ l, ∃ a e, s.pageOf x p va = .ok (a, e, s)) : ∃ sn, State.pagesGo l s x p acc = .ok (sn, s) := by
  induction l generalizing acc with
  | nil => exact ⟨_, rfl⟩
  | cons v r ih =>
    obtain ⟨a, e, hv⟩ := h v (by simp)
    unfold State.pagesGo
    split
    · exact ih fun va hm => h va (by simp [hm])
    · simp only [hv]
      exact ih fun va hm => h va (by simp [hm])
/-- Eight bytes or a whole save area at 1 MiB are reached. -/
theorem warm_area {s : State} {e : W64} {p : Perm} (hx : vget s.xl 0 .none0 = ⟨0x8000000000000000, 0, 0, 0, 1⟩) (h0 : s.rd64 0x10000 = 0x8000000000020000)
    (h1 : s.rd64 0x20000 = e) (hu : s.ue = []) (hr : s.excl = []) (hm0 : (warm s e).malformed 0 0 0x8000000000020000 = false) (hm : (warm s e).malformed 0 1 e = false)
    (he : e.getLsbD 63 = true ∧ e.getLsbD 62 = true ∧ e.getLsbD 53 = false ∧ e.getLsbD 56 = false ∧ e.getLsbD 52 = false ∧ fld e 16 28 * 65536 = 0x40000000 ∧ permOk p e = true) :
    ∃ sn, (warm s e).ioReach 0 p 0x100000 areaSize = .ok (sn, warm s e) := by
  have hb : ∀ a ∈ pageStarts 0x100000 areaSize, a < 1073741824 := by decide +kernel
  obtain ⟨sn, h⟩ := warm_pages (s := warm s e) (x := ioX 0) (p := p) (l := pageStarts 0x100000 areaSize) (acc := [])
    fun va hv => ⟨_, e, warm_page hx h0 h1 hu hr hm0 hm he (hb va hv)⟩
  refine ⟨sn, ?_⟩
  have hr : (warm s e).reach (ioX 0) p ((0x100000 : Nat) : Int) areaSize = State.pagesGo (pageStarts 0x100000 areaSize) (warm s e) (ioX 0) p [] := by
    unfold State.reach
    rw [if_neg (by decide +kernel), if_neg (by decide +kernel), if_neg (by decide +kernel)]
    have : spaceOf ((0x100000 : Nat) : Int).toNat = 0 := by decide
    simp only [this]
    rfl
  unfold State.ioReach
  rw [hr, h]
/-- GangsStart: a bound slot of a gang of one, on pinned pages, with its instance; and one bound by hand that names a saved context. -/
def slotOf (resume : W64) (is : List Inst) : State :=
  let s := keystone launchRec []
  warm { s with
    mem := s.mem.set 131078 0x40
    gangs := [gang0 [0]]
    insts := is
    saved := [(0, 0, .reset)]
    slots := vset s.slots 0 ⟨0x2000000001000000 ||| resume <<< 60, 0x0000000100000000, 0, 0x100000, 0, 0, 0⟩ } 0xF840000040000000
theorem slot_gang {r : W64} {is : List Inst}
    (e : ((slotOf r is).gangs.find? fun g => g.st == .bound && g.cores == [0] && g.uid % 2 ^ 16 = fld ((slotOf r is).slot 0).w0 32 16
      && [0].all fun d => ((slotOf r is).core d).gangUid.isNone) = some (gang0 [0])) : (slotOf r is).groupGang 0 [0] = (gang0 [0], slotOf r is) := by
  simp only [State.groupGang, e]
theorem hits_none {s : State} (h : ∀ c, c < 480 → (s.core c).nm.length = 0) (ps : List (Nat × Nat)) : s.nmHits ps = [] := by
  refine List.flatMap_eq_nil_iff.2 fun c hc => ?_
  rw [h c (List.mem_range.1 hc)]
  rfl
theorem hyp_gangQuiet (ps : List (Nat × Nat)) : (slotOf 0 [inst0]).nmHits ps = [] ∧ (slotOf 1 []).nmHits ps = [] ∧ (slotOf 0 [inst0]).ue = [] ∧ (slotOf 1 []).ue = [] :=
  ⟨hits_none (by decide +kernel) ps, hits_none (by decide +kernel) ps, by decide +kernel⟩
/-- GangsStart: no channel of the saved context was active. -/
theorem hyp_noChannels : ∀ n, n < 16 → (vget Core.reset.chans n .reset).state ≠ .active := by decide +kernel
theorem hyp_gangStarts : (slotOf 0 [inst0]).slotGroup 0 = some [0] ∧ (slotOf 0 [inst0]).groupGang 0 [0] = (gang0 [0], slotOf 0 [inst0])
    ∧ ((slotOf 0 [inst0]).slot 0).w0.getLsbD 60 = false ∧ (slotOf 0 [inst0]).mem.wf = true ∧ (slotOf 0 [inst0]).inst (gang0 [0]).inst = some inst0
    ∧ (slotOf 0 [inst0]).slotChecks (gang0 [0]) false = .ok :=
  ⟨by decide +kernel, slot_gang (by decide +kernel), by decide +kernel⟩
theorem hyp_gangResumes : (slotOf 1 []).slotGroup 0 = some [0] ∧ (slotOf 1 []).groupGang 0 [0] = (gang0 [0], slotOf 1 [])
    ∧ ((slotOf 1 []).slot 0).w0.getLsbD 60 = true ∧ (slotOf 1 []).slotChecks (gang0 [0]) true = .ok
    ∧ ((slotOf 1 []).saved.find? fun e => e.1 = 0 && e.2.1 = 0) = some (0, 0, .reset) ∧ (∃ p, (slotOf 1 []).ioReach 0 permRW 0x100000 areaSize = .ok p) :=
  ⟨by decide +kernel, slot_gang (by decide +kernel), by decide +kernel, by decide +kernel, rfl, by
    obtain ⟨sn, h⟩ := warm_area (s := slotOf 1 []) (e := 0xF840000040000000) (p := permRW) (by decide +kernel) (by decide +kernel) (by decide +kernel) (by decide +kernel) (by decide +kernel)
      (by decide +kernel) (by decide +kernel) (by decide +kernel)
    exact ⟨_, h⟩⟩
/-- GangsSaved: a gang to be saved whose core stands still, and one whose core runs; its area can be written. -/
def saving0 : Gang := { gang0 [0] with st := .preempting, saves := [0x100000] }
def saveS (r : Run) : State :=
  let s := slotS 0xA000000000000000 .preempting fun k => { k with wA := { k.wA with run := r }, wX := { k.wX with run := .held }, wS := { k.wS with run := .held } }
  warm { paged s with gangs := [saving0] } 0xF800000040000000
theorem saveRanks_one {g : Gang} {p : Nat} {n : W32} {c : Nat} {s : State} (h : ∃ x, s.areaSnap p (nth g.saves 0 0).toNat = .ok x) :
    ∃ u, State.saveRanks g p n [c] 0 s = .ok u := by
  obtain ⟨⟨sn, t⟩, h⟩ := h
  simp only [State.saveRanks, State.saveStep, h]
  exact ⟨_, rfl⟩
theorem hyp_gangSaved : ((saveS .held).gangs.find? fun g => g.st == .preempting && g.cores.contains 0) = some saving0 ∧ ((saveS .held).core 0).saveReady = true
      ∧ ((saveS .running).core 0).saveReady = false ∧ (∃ u, State.saveRanks saving0 0 0 [0] 0 (saveS .held) = .ok u) ∧ (saveS .held).inst saving0.inst = some inst0 ∧ inst0.fdom < 256 :=
  ⟨by decide +kernel, by decide +kernel, by decide +kernel, by
    obtain ⟨sn, h⟩ := warm_area (s := saveS .held) (e := 0xF800000040000000) (p := permW) (by decide +kernel) (by decide +kernel) (by decide +kernel) (by decide +kernel) (by decide +kernel)
      (by decide +kernel) (by decide +kernel) (by decide +kernel)
    exact saveRanks_one ⟨_, h⟩, by decide +kernel, by decide⟩
/-- GangsSaved: an area that no page maps. -/
def saveErr (x : Except (Option AccFail) State) : Option Bool :=
  match x with
  | .error e => some e.isSome
  | .ok _ => none
theorem hyp_saveFails : saveErr (State.saveRanks saving0 0 0 [0] 0 (slotS 0xA000000000000000 .preempting fun k => { k with gangUid := some 0 })) = some true
    ∧ saveErr (State.saveRanks saving0 0 0 [0] 0 { saveS .held with tlb := [], mem := (saveS .held).mem.set 131078 0x20 }) = some false
    ∧ ([saving0].map Gang.uid).Nodup ∧ saving0.cores.Nodup ∧ saving0.saves.Nodup ∧ saving0.saves.length = saving0.cores.length ∧ ∀ d, d ∈ saving0.cores → d < 480 := by
  decide +kernel
/-- GangScheduling: a gang that has waited since the tick before, with a threshold of 1 and 2. -/
def waiting0 : Gang := { gang0 [0] with st := .ready, cores := [], level := 1 }
def queueS (th : W64) (gs : List Gang) (sl : W64) : State :=
  let s := keystone launchRec []
  { s with gangs := gs, insts := [inst0], sched := vset s.sched 0 th, slots := .replicate 480 ⟨sl, 0, 0, 0, 0, 0, 0⟩ }
theorem sort_few {l m : List Gang} {le : Gang → Gang → Bool} (h : l = m) (hl : m.length ≤ 1) : l.mergeSort le = m := by
  rw [h]
  match m, hl with
  | [], _ => exact List.mergeSort_nil
  | [x], _ => exact List.mergeSort_singleton x
theorem sort_sorted {l m : List Gang} {le : Gang → Gang → Bool} (h : l = m) (hp : m.Pairwise fun a b => le a b = true) : l.mergeSort le = m := by
  rw [h]
  exact List.mergeSort_of_pairwise hp
theorem hyp_ageing : (queueS 2 [waiting0] 0).queued 0 1 = [waiting0] ∧ waiting0.boundSeq ≤ ((queueS 2 [waiting0] 0).readyOf 0 1).tick
    ∧ ((queueS 2 [waiting0] 0).readyOf 0 1).count + 1 < fld (vget (queueS 2 [waiting0] 0).sched 0 0) 0 16
    ∧ fld (vget (queueS 1 [waiting0] 0).sched 0 0) 0 16 ≤ ((queueS 1 [waiting0] 0).readyOf 0 1).count + 1 ∧ (queueS 2 [waiting0] 0).queued 0 2 = [] :=
  ⟨sort_few (by decide +kernel) (by decide), by decide +kernel, by decide +kernel, by decide +kernel, sort_few (by decide +kernel) (by decide)⟩
/-- The first queue with a gang, which binds on the one free core. -/
def first0 : Gang := { waiting0 with level := 7 }
def isBound (a : Attempt) : Bool :=
  match a with
  | .bound _ => true
  | _ => false
def isCores (a : Attempt) : Bool :=
  match a with
  | .cores => true
  | _ => false
theorem bound_of {a : Attempt} (h : isBound a = true) : ∃ t, a = .bound t := by
  cases a <;> first | exact ⟨_, rfl⟩ | cases h
theorem cores_of {a : Attempt} (h : isCores a = true) : a = .cores := by
  cases a <;> first | rfl | cases h
def bindS : State := { queueS 0 [first0] 0 with slots := vset (.replicate 480 ⟨0x4000000000000000, 0, 0, 0, 0, 0, 0⟩) 0 ⟨0, 0, 0, 0, 0, 0, 0⟩ }
theorem hyp_binds : bindS.levels 0 = [7, 6, 5, 4, 3, 2, 1, 0] ∧ bindS.queued 0 7 = [first0] ∧ inst0.whole = false
    ∧ ∃ t, bindS.tryGang first0 [] = .bound t :=
  ⟨List.mergeSort_of_pairwise (by decide +kernel), sort_few (by decide +kernel) (by decide), by decide +kernel, bound_of (by decide +kernel)⟩
/-- Behind a head that waits for carve-out, a gang of its queue binds; behind one whose instance still saves a gang, one of another queue. -/
def inst1 : Inst := { inst0 with id := 1, image := vset inst0.image 0 0x0111100000000000 }
def inst2 : Inst := { inst0 with id := 2, lrec := vset inst0.lrec 0 0x1800000000006800 }
def second0 (lv : Nat) : Gang := { first0 with uid := 2, readySeq := 9, level := lv }
def carveHead : Gang := { first0 with inst := 1, carveDie := some 7 }
def savingHead : Gang := { first0 with inst := 2 }
def headS (h : Gang) (lv : Nat) : State :=
  { bindS with gangs := [h, second0 lv, { gang0 [1] with uid := 5, inst := 2, cores := [1], st := .preempting }], insts := [inst0, inst1, inst2] }
def attemptIs (a : Attempt) : Nat :=
  match a with
  | .capped => 1
  | .held => 2
  | _ => 0
theorem capped_of {a : Attempt} (h : attemptIs a = 1) : a = .capped := by
  cases a <;> first | rfl | cases h
theorem held_of {a : Attempt} (h : attemptIs a = 2) : a = .held := by
  cases a <;> first | rfl | cases h
theorem hyp_behind : (headS carveHead 7).levels 0 = [7, 6, 5, 4, 3, 2, 1, 0] ∧ (headS carveHead 7).queued 0 7 = [carveHead, second0 7]
    ∧ (headS carveHead 7).tryGang carveHead [] = .capped ∧ ∃ t, (headS carveHead 7).tryGang (second0 7) [] = .bound t := by
  refine ⟨List.mergeSort_of_pairwise (by decide +kernel), ?_, capped_of (by decide +kernel), bound_of (by decide +kernel)⟩
  exact sort_sorted (by decide +kernel) (by decide +kernel)
theorem hyp_besides : (headS savingHead 6).levels 0 = [7, 6, 5, 4, 3, 2, 1, 0] ∧ (headS savingHead 6).queued 0 7 = [savingHead] ∧ (headS savingHead 6).queued 0 6 = [second0 6]
    ∧ (headS savingHead 6).tryGang savingHead [] = .held ∧ ∃ t, (headS savingHead 6).tryGang (second0 6) [] = .bound t :=
  ⟨List.mergeSort_of_pairwise (by decide +kernel), sort_few (by decide +kernel) (by decide), sort_few (by decide +kernel) (by decide), held_of (by decide +kernel), bound_of (by decide +kernel)⟩
/-- A head that lacks cores while none can be freed: no gang runs. -/
def stuckS : State := queueS 0 [waiting0] 0x4000000000000000
/-- A head at level 1 that lacks cores while a gang of level 0 runs. -/
def victim0 : Gang := { gang0 [0] with uid := 1 }
def fullS : State := queueS 0 [victim0, waiting0] 0x4000000000000000
def rootChain : Chain := [(0x30000, fullS.words 0x30000 16)]
theorem toOption_of {ε α : Type} {x : Except ε α} {a : α} (h : x.toOption = some a) : x = .ok a := by
  cases x with
  | ok b => cases h; rfl
  | error _ => cases h
theorem hyp_headStuck : ((State.bindGo (stuckS.levels 0) stuckS 0 []).2.find? fun e => !stuckS.wantHolds e.1) = some (waiting0, [])
    ∧ stuckS.inst waiting0.inst = some inst0 ∧ stuckS.chainOf inst0.part inst0.region = .ok rootChain ∧ stuckS.clearings 0 waiting0 inst0 rootChain [] = [] ∧ gangsApart stuckS := by
  have l : stuckS.levels 0 = [7, 6, 5, 4, 3, 2, 1, 0] := List.mergeSort_of_pairwise (by decide +kernel)
  have q (lv : Nat) (h : (stuckS.gangs.filter fun g => g.waits && g.level == lv && match stuckS.inst g.inst with
    | some i => i.part == 0 && i.ending.isNone
    | none => false) = []) : stuckS.queued 0 lv = [] := sort_few h (by decide)
  have q1 : stuckS.queued 0 1 = [waiting0] := sort_few (by decide +kernel) (by decide)
  have hc : stuckS.tryGang waiting0 [] = .cores := cores_of (by decide +kernel)
  have v (cl lv : Nat) : stuckS.victims 0 cl lv = [] := by
    unfold State.victims
    have e : stuckS.gangs = [waiting0] := rfl
    have n : (waiting0.st == .bound) = false := rfl
    simp only [e, List.filter_cons, List.filter_nil, n, Bool.false_and, Bool.false_eq_true, if_false]
    exact List.mergeSort_nil
  refine ⟨?_, by decide +kernel, toOption_of (by decide +kernel), ?_, by decide +kernel, fun g h hg hh hn => ?_⟩
  · simp only [l, State.bindGo, State.bindQueue, q1, q 0 (by decide +kernel), q 2 (by decide +kernel), q 3 (by decide +kernel), q 4 (by decide +kernel), q 5 (by decide +kernel),
      q 6 (by decide +kernel), q 7 (by decide +kernel), hc]
    rfl
  · simp only [State.clearings, v]
    decide +kernel
  · have e : stuckS.gangs = [waiting0] := rfl
    rw [e] at hg hh
    rw [List.mem_singleton] at hg hh
    exact absurd (congrArg Gang.uid (hg.trans hh.symm)) hn
theorem hyp_headLacks : ((State.bindGo (fullS.levels 0) fullS 0 []).2.find? fun e => !fullS.wantHolds e.1) = some (waiting0, []) := by
  have l : fullS.levels 0 = [7, 6, 5, 4, 3, 2, 1, 0] := List.mergeSort_of_pairwise (by decide +kernel)
  have q (lv : Nat) (h : (fullS.gangs.filter fun g => g.waits && g.level == lv && match fullS.inst g.inst with
    | some i => i.part == 0 && i.ending.isNone
    | none => false) = []) : fullS.queued 0 lv = [] := sort_few h (by decide)
  have q1 : fullS.queued 0 1 = [waiting0] := sort_few (by decide +kernel) (by decide)
  have hc : fullS.tryGang waiting0 [] = .cores := cores_of (by decide +kernel)
  simp only [l, State.bindGo, State.bindQueue, q1, q 0 (by decide +kernel), q 2 (by decide +kernel), q 3 (by decide +kernel), q 4 (by decide +kernel), q 5 (by decide +kernel),
    q 6 (by decide +kernel), q 7 (by decide +kernel), hc]
  rfl
theorem victims_few (cl lv : Nat) : fullS.victims 0 cl lv = fullS.gangs.filter fun g => g.st == .bound && decide (fullS.gangLevel 0 g < lv)
    && g.cores.any (fun c => decide (c / 12 = cl))
    && ((g.cores.all fun c => decide (fullS.slotState c = 2)) || g.cores.all fun c => decide (fullS.slotState c = 1)) := by
  unfold State.victims
  have e : fullS.gangs = [victim0, waiting0] := rfl
  have n : (waiting0.st == .bound) = false := rfl
  simp only [e, List.filter_cons, List.filter_nil, n, Bool.false_and, Bool.false_eq_true, if_false]
  split
  · exact List.mergeSort_singleton _
  · exact List.mergeSort_nil
theorem hyp_preempts : fullS.inst waiting0.inst = some inst0 ∧ fullS.chainOf inst0.part inst0.region = .ok rootChain ∧ fullS.clearings 0 waiting0 inst0 rootChain [] ≠ [] := by
  refine ⟨by decide +kernel, toOption_of (by decide +kernel), ?_⟩
  simp only [State.clearings, victims_few]
  decide +kernel
theorem hyp_apart : gangsApart fullS := by
  refine ⟨by decide +kernel, fun g h hg hh hn c hc hd => ?_⟩
  have e : fullS.gangs = [victim0, waiting0] := rfl
  rw [e] at hg hh
  simp only [List.mem_cons, List.not_mem_nil, or_false] at hg hh
  rcases hg with rfl | rfl <;> rcases hh with rfl | rfl <;> first | exact absurd rfl hn | exact absurd hd (by simp [waiting0]) | exact absurd hc (by simp [waiting0])
/-- Deadlines: none, one not yet passed, and one passed. -/
def lateS (deadline : Byte) (t : W64) : State :=
  let s := keystone launchRec []
  { s with gangs := [{ gang0 [0] with st := .preempting }], insts := [inst0], time := t, mem := s.mem.set 0x30008 deadline }
def deadlineOf (s : State) : Option Nat :=
  match s.chainOf inst0.part inst0.region with
  | .ok c => some (effective c 8)
  | .error _ => none
theorem hyp_deadlines : ((lateS 0 0).gangs.find? fun g => g.st == .preempting && g.cores.contains 0) = some { gang0 [0] with st := .preempting }
    ∧ (lateS 0 0).inst 0 = some inst0 ∧ inst0.part < 8 ∧ deadlineOf (lateS 0 0) = some 0 ∧ deadlineOf (lateS 1 0) = some 1 ∧ (lateS 1 1000).time - 0 = 1000
    ∧ (lateS 1 1001).time.toNat > 1000 * 1 := by decide +kernel

/-! ## Hypotheses met: partitions, translation contexts and pages -/

def partOk (x : Except RcbErr Bool) : Nat :=
  match x with
  | .ok true => 0
  | .ok false => 1
  | .error .edit => 2
  | .error _ => 3
/-- PartitionWrites: an invalid partition whose root RCB is good, is being edited, or whose dies are none. -/
def rootS (hi : Byte) : State :=
  let s := keystone launchRec []
  { s with parts := vset s.parts 0 ⟨0, 0x30000, 0, 0⟩, mem := s.mem.set 0x30007 hi }
theorem hyp_partitions : ((rootS 0x41).part 0).valid = false ∧ partOk ((rootS 0x41).partValidOk 0 0x8000000000000001 0x30000 0) = 0
    ∧ partOk ((rootS 0x41).partValidOk 0 0x8000000000000000 0x30000 0) = 1 ∧ partOk ((rootS 0x61).partValidOk 0 0x8000000000000001 0x30000 0) = 2
    ∧ (match (rootS 0x41).rcb 0x30000 with | .ok _ => true | .error _ => false) = true ∧ (rootS 0x41).cant = [] ∧ (rootS 0x41).excess = [] ∧ (rootS 0x41).domEnding 0 = false := by decide +kernel
/-- Shootdowns: none; one in progress that waits for a load's pages, and one that does not. -/
def shoot0 : ShootSt := { part := 0, lo := 0, hi := 0x10000, root := none }
theorem hyp_shootdowns : State.reset.shoot = none ∧ ({ State.reset with shoot := some shoot0 } : State).shootWaits shoot0 = false
    ∧ (onCore0 .A fun k => { k with loads := [loadOf none] }).shootWaits shoot0 = true ∧ fld (0x1_0000 : W64) 0 36 ≠ 0 := by decide +kernel
/-- Pages: the first GiB with its leaf's upper byte given, and a cantilever page of 2 MiB, early or late; pools of late frames and of cool frames, a hint. -/
def leafS (b : Byte) : State :=
  let s := keystone launchRec []
  { s with mem := s.mem.set 131078 b }
def pageS (b : Byte) : State :=
  let s := keystone launchRec []
  { s with
    mem := [(65538, 0x02), (65543, 0x80), (131073, 0x80), (131074, 0x02), (131079, 0x80), (163846, b), (163847, 0xF1), (208898, 0x20), (208903, 0x80)]
    xl := vset s.xl 0 ⟨0x8000000000000000, 0, 0x33000, 1, 1⟩ }
def leafIs (x : Except Nat Leaf) (p : Leaf → Bool) : Bool :=
  match x with
  | .ok l => p l
  | .error _ => false
def noLeaf (x : Except Nat Leaf) : Bool :=
  match x with
  | .ok _ => false
  | .error _ => true
theorem hyp_pageMoves : leafIs ((leafS 0).leafAt 0 0) (fun l => !l.pin && !l.cant && !l.repl && !l.bn && l.level == 1) = true ∧ leafIs ((leafS 0x40).leafAt 0 0) Leaf.pin = true
    ∧ leafIs ((pageS 0).leafAt 0 0) (fun l => !l.pin && l.cant && !l.late && l.hdie == 0) = true ∧ leafIs ((pageS 0x80).leafAt 0 0) (fun l => l.cant && l.late) = true
    ∧ noLeaf (State.reset.leafAt 0 0) = true ∧ (pageS 0x80).migr = none ∧ (pageS 0x80).mem.wf = true ∧ fld ((pageS 0x80).xlOf 0).w1 52 12 = 0
    ∧ 0 ∈ (pageS 0).partDies 0 ∧ 1 ∉ (pageS 0).partDies 0 ∧ ((pageS 0x80).takeLate 0 0 none).isSome = true ∧ besideDie 0 0x200000 = true ∧ besideDie 1 0x200000 = false := by
  decide +kernel
/-- A move of the first GiB to the frame at 4 GiB, before and after its shootdown; a command that pins its frame. -/
def move0 (started : Bool) : MigrSt := ⟨0, 0, 1, 0x100000000, 0, 0x20000, 1, 0xF800000040000000, false, started⟩
def moveS (started : Bool) : State := { leafS 0 with migr := some (move0 started) }
theorem hyp_movesComplete : (moveS false).migr = some (move0 false) ∧ (moveS true).shoot = none ∧ (moveS true).mem.wf = true ∧ (moveS true).cant = []
    ∧ ((moveS true).cores.toList.all fun k => k.bankQ.isEmpty) = true ∧ (move0 true).level ≤ 3 ∧ (move0 true).frame % 65536 = 0 ∧ (move0 true).frame < 2 ^ 40
    ∧ (move0 true).pteAt + 8 ≤ (move0 true).frame := by decide +kernel
/-- PageMoves, MovesComplete: nothing kept from a lowered reservation, no move of hart 3 and one; a die without room for the page's line, and with room. -/
def toDie : MigrSt := { move0 false with op := 2, tdie := 1 }
theorem hyp_movesRoom : (moveS true).excess = [] ∧ (moveS true).migrWait = false ∧ (moveS true).hart3Moves = false
    ∧ ({ moveS true with migr := some { move0 true with hart3 := true } } : State).hart3Moves = true ∧ toDie.tdie ≠ fld toDie.old 44 3
    ∧ ({ moveS false with cant := [(cantPlace 0 0 / 128, 0)] } : State).dieHolds 0 0 1 = false ∧ (moveS false).dieHolds 0 0 1 = true := by decide +kernel
theorem hyp_noPins (i : Nat) : (moveS false).pins i = 0 := by
  have h : (moveS false).bankCmds = [] := by decide +kernel
  simp [State.pins, h]
/-- PageMoves: another move under way, and one of hart 3; Shootdowns: a registration through a dropped leaf and one beside it. -/
theorem hyp_movesUnderWay : (moveS true).migr.isSome = true ∧ (moveS true).hart3Moves = false ∧ (move0 true).part < 8 ∧ (move0 true).va % 65536 = 0 ∧ (move0 true).va < 2 ^ 52
    ∧ fld (0x1000000000000000 : W64) 60 4 = 1 ∧ fld (0 : W64) 60 4 ≠ 1 ∧ (∃ f, (pageS 0x80).takeLate 0 0 none = some f)
    ∧ (∀ p ∈ (moveS true).shootSpans shoot0, p.2 ≤ 2 ^ 41) ∧ 2 ^ 41 ≤ 2 ^ 42 := by
  refine ⟨by decide +kernel, by decide +kernel, by decide +kernel, by decide +kernel, by decide +kernel, by decide +kernel, by decide +kernel, isSome_of (by decide +kernel), by decide +kernel, by decide⟩
/-- A hot stack with a hint for the first GiB, and a frame on the stack beside it. -/
def hotS : State :=
  let s := leafS 0
  { s with
    mem := s.mem ++ [] |>.setN 0x31000 (words [0x8000000000000000, 0x4000]) |>.setN 0x32000 (words [0x8000001000000000])
    xl := vset s.xl 0 ⟨0x8000000000000000, 0x0010000000031000, 0, 0, 1⟩
    pwrcfg := 0x8000000000000000
    zones := vset s.zones 0 { vget s.zones 0 .none0 with hot := true }
    coolW0 := 0x32000, coolW1 := 1 }
theorem hyp_hotPages : hotS.migr = none ∧ (∀ q, q < 8 → (hotS.hints q).2 = 0) ∧ hotS.stackMode = true ∧ (hotS.zone (0 / 2)).hot = true ∧ (∃ x, hotS.hotPage 0 0 = some x) ∧ (∀ q, q < 8 → q ≠ 0 → hotS.hotPage q 0 = none)
    ∧ hotS.mem.wf = true ∧ (∃ x, hotS.poolPick (fld hotS.coolW0 3 41 * 8) (fld hotS.coolW1 0 32) (fun f =>
      (Hint.targets ⟨0, 0, 0, 0x40000000⟩ (0 / 2)).any (fun t => onStack t f) && decide (f % lvSpan 1 = 0)) = some x) :=
  ⟨by decide +kernel, by decide +kernel, by decide +kernel, by decide +kernel, isSome_of (by decide +kernel), by decide +kernel, by decide +kernel, isSome_of (by decide +kernel)⟩

/-! ## Hypotheses met: service, errors, power -/

/-- ServiceOperations: a core with an instance of SERIAL 0 and one without; walkers stopped and not; a channel halted and not; a collective held and not. -/
def serviced (f : Core → Core) : State := slotS 0x4000000000000000 .bound f
def servedCore (k : Core) : Core :=
  let k := { k with wX := { k.wX with run := .stopped }, wS := { k.wS with run := .halted } }
  { k with chans := vset k.chans 0 { chan0 with state := .halted }, colls := vset k.colls 0 (some { coll0 with held := some (1, 0) }) }
theorem hyp_service : let s := serviced servedCore
    (s.core 0).gangUid.isSome = true ∧ fld (s.core 0).id.inst 32 32 = fld (0 : W64) 0 32 ∧ (s.core 0).anyStopped = true ∧ (s.core 0).preempt = false
      ∧ (vget (s.core 0).chans 0 .reset).state = .halted ∧ (vget (s.core 0).chans 1 .reset).state ≠ .halted ∧ s.gangAt 0 = some (gang0 [0]) ∧ s.inst (gang0 [0]).inst = some inst0
      ∧ inst0.ending = none ∧ inst0.whole = false ∧ s.slotState 0 = 2 ∧ s.collAt 0 0 = some { coll0 with held := some (1, 0) } ∧ coll0.held = none
      ∧ coll0.serial.toNat = fld (0 : W64) 0 32 ∧ (State.reset.core 0).gangUid = none ∧ ((serviced id).core 0).anyStopped = false := by decide +kernel
/-- BackgroundWork: a full collision table and one that is not; a line in it. -/
theorem hyp_collisions : State.reset.collisions 0 = 0 ∧ 256 ≤ ({ State.reset with collided := List.range 256 } : State).collisions 0
    ∧ 300 ∉ ({ State.reset with collided := List.range 256 } : State).collided := by decide +kernel
/-- A line of a compressed page whose bytes are zero, as every marker is at reset. -/
def compS : State :=
  let s := paged .reset
  { s with mem := s.mem.set 131079 0xFC }
theorem hyp_markers : compS.compLine 0 0 (0x40000000 / 128) = true ∧ compS.markerHit (0x40000000 / 128) = true ∧ State.reset.compLine 0 0 0 = false := by
  have h : ∀ k, k < 8 → (compS.rd64 (0x40000000 / 128 * 128 + 64 * 0 + 8 * k) == vget compS.markers (stackOf (0x40000000 / 128 * 128)) 0) = true := by decide +kernel
  refine ⟨by decide +kernel, ?_, by decide +kernel⟩
  unfold State.markerHit
  rw [List.any_cons, h _ (Nat.mod_lt _ (by decide)), Bool.true_or]
theorem hyp_lines : 0x40000000 < 2 ^ 40 ∧ ({ compS with collided := [8388608], refused := [0] } : State).refused = [0] ∧ stackOf (0 * 128) = stackOf (0x40000000 : Nat)
    ∧ stackOf (1 * 2 ^ 36) ≠ stackOf 0 ∧ ({ compS with collided := [8388608] } : State).collisions (stackOf 0x40000000) ≤ 256 := by decide +kernel
/-- A waiting event with a queue of 32 entries that has room, and with none. -/
def waitingS (w0 : W64) : State :=
  let e := { vget State.reset.evq 0 .none0 with w0 := w0, waiting := [List.replicate 16 7] }
  { State.reset with evq := vset State.reset.evq 0 e }
theorem hyp_deferred : (vget (waitingS 0x8050000000030000).evq 0 .none0).hasRoom = true ∧ (vget (waitingS 0).evq 0 .none0).hasRoom = false
    ∧ (vget (waitingS 0).evq 0 .none0).waiting = [List.replicate 16 7] ∧ (List.replicate 16 (7 : W64)).length = 16 := by decide +kernel
theorem hyp_scrubs : State.reset.mem.wf = true ∧ (vget State.reset.evq 8 .none0).cap = 0 ∧ State.reset.marked 0x1000 1 = false
    ∧ ({ State.reset with ue := [0x200] } : State).marked 0x1000 1 = true ∧ 2 ^ 60 ≤ carvePlace 0 0 ∧ 2 ^ 62 ≤ spadPlace 0 0 := by decide +kernel
theorem hyp_queueDamaged : (let s := serviced fun k => { k with wA := { k.wA with run := .running } }
      ((s.core 0).wk .A).run = .running ∧ s.gangAt 0 = some (gang0 [0]) ∧ s.inst (gang0 [0]).inst = some inst0 ∧ inst0.fdom < 256) := by decide +kernel
/-- BackgroundWork: a count that is due and one already summed up within the second; units of a core and of the module; a queue and the graph store. -/
def countedS (p : List (Nat × W64)) : State := { State.reset.countCorrected 1 2 none with summed := p }
theorem hyp_due : (countedS []).corrected = [(unitKey 1 2 none, 1)] ∧ unitKey 1 2 none / 512 = 1 * 16 + 2 ∧ ((countedS []).summed.find? fun e => e.1 = unitKey 1 2 none) = none
    ∧ ((countedS [(unitKey 1 2 none, 0)]).summed.find? fun e => e.1 = unitKey 1 2 none) = some (unitKey 1 2 none, 0) ∧ ((countedS []).time - 0).toNat < 1000000000
    ∧ State.reset.corrected = [] ∧ unitKey 3 0 (some 7) ≠ unitKey 3 0 (some 8) ∧ unitKey 3 0 (some 479) / 512 = 48
    ∧ (∀ c, some 479 = some c → c < 480) := by
  refine ⟨?_, ?_, ?_, ?_, ?_, ?_, ?_, ?_, fun c h => ?_⟩
  any_goals decide +kernel
  injection h with h
  omega
/-- PowerControl: thresholds in order and not; readings below, at and above them; a zone throttled for long enough; a core stretched and not. -/
theorem hyp_power : fld (0x0055644000000000 : W64) 40 8 ≤ fld (0x0064554000000000 : W64) 48 8 ∧ twarn 0x0055644000000000 < tcrit 0x0055644000000000
    ∧ ({ ZoneSt.none0 with thr := 4, below := 101, crit := false } : ZoneSt).thr ≠ 0 ∧ 0 ∈ ({ State.reset with stretched := [0] } : State).stretched
    ∧ State.reset.hart3Moves = false ∧ ({ State.reset with migr := some { move0 true with hart3 := true } } : State).hart3Moves = true
    ∧ State.reset.pwrWait = none ∧ (0x8055644000000000 : W64).getLsbD 63 ≠ State.reset.pwrcfg.getLsbD 63 ∧ 0 ∉ State.reset.stretched ∧ State.reset.stackMode = false ∧ ({ State.reset with pwrcfg := 0x8055644000000000 } : State).stackMode = true := by decide +kernel
theorem hyp_readings : ∃ l : List ZoneReading, l.length = 9 := ⟨List.replicate 9 ⟨20, 0⟩, rfl⟩

/-! ## Hypotheses met: the whole machine -/

theorem next_of {o : Host.Outcome State Fault Refusal} {s : State} (h : isNext o = true) : o = .next (nextOf o s) := by
  cases o <;> first | rfl | cases h
/-- Walker A at a bundle whose first slot is KADDI k5, k2, 3, and whose others are padding. -/
def kaddiWord : W32 := 0#2 ++ 0#2 ++ 3#6 ++ 5#6 ++ 2#6 ++ 3#10
def pad64 : W64 := padWord ++ padWord
noncomputable def stepS : State :=
  let s := pagedCore .A [(0x1000, [padWord ++ kaddiWord, pad64, pad64, pad64])] fun k => { k.setWk .A { k.wk .A with run := .running, pc := 0x1000 } with slip := 8 }
  { s with agenda := [.bundleFetch 0 .A] }
noncomputable def ticked : State := { stepS with agenda := [] }.tick
noncomputable def fetched : State := nextOf (execBundleFetch 0 .A ticked) ticked
noncomputable def issuing : State := fetched.rowsFirst
noncomputable def added : State := nextOf (execKaddi 0 5 2 3 (issuing.atSlot issuing.issue.words 0)) issuing
theorem fetched_runs : exec (.bundleFetch 0 .A) ticked = .next fetched := next_of (by decide +kernel)
theorem added_runs : exec (.kaddi 0 5 2 3) (issuing.atSlot issuing.issue.words 0) = .next added := next_of (by decide +kernel)
/-- StepRunsBundle: every hypothesis at once, with a syllable that is executed. -/
theorem hyp_stepAt : stepS.abut = none ∧ stepS.retry = false ∧ stepS.agenda = .bundleFetch 0 .A :: [] := ⟨rfl, rfl, rfl⟩
theorem hyp_stepLegal : fetched.issue.words ≠ [] ∧ bundleCause issuing.curW.ploop issuing.issue.words = none
    ∧ ownCause issuing.issue.w issuing.curW.ploop issuing.issue.words = none ∧ issuing.beforePloop issuing.issue.words = false ∧ issuing.gHeld = none ∧ issuing.markSlot = none
    ∧ (clearsFirst issuing.issue.words (ownSlots issuing.issue.w issuing.issue.words)).filter (fun j => acts issuing.curW.ploop (stageOf (nth issuing.issue.words j padWord))) = [0]
    ∧ okInstr (decode (nth issuing.issue.words 0 padWord)) (.kaddi 0 5 2 3) = true ∧ added.curW.run ≠ .stopped := by decide +kernel
theorem hyp_stepRan : Ran issuing.issue.words [(0, .kaddi 0 5 2 3)] issuing added :=
  .step 0 (.kaddi 0 5 2 3) [] issuing added added added_runs hyp_stepLegal.2.2.2.2.2.2.2.2 (.nil added)
/-- A and S at a bundle whose first slot is MARK; A passes it, and S with it. -/
def markWord : W32 := 0#2 ++ 0#2 ++ 0xD#6 ++ 0#22
noncomputable def markS : State :=
  let s := pagedCore .A [(0x1000, [padWord ++ markWord, pad64, pad64, pad64])] fun k =>
    { (k.setWk .A { k.wk .A with run := .running, pc := 0x1000 }).setWk .S { k.wk .S with run := .running, pc := 0x1000 } with slip := 8, arrivals := [(0, [.S])] }
  { s with agenda := [.bundleFetch 0 .A] }
noncomputable def markTick : State := { markS with agenda := [] }.tick
noncomputable def markFetched : State := nextOf (execBundleFetch 0 .A markTick) markTick
noncomputable def markRan : State := nextOf (execMark 0 (markFetched.atSlot markFetched.issue.words 0)) markFetched
theorem mark_decodes : okInstr (decode markWord) (.mark 0) = true := by decide +kernel
theorem mark_fetched : exec (.bundleFetch 0 .A) markTick = .next markFetched := next_of (by decide +kernel)
theorem mark_ran : exec (.mark 0) (markFetched.atSlot markFetched.issue.words 0) = .next markRan := next_of (by decide +kernel)
theorem hyp_markPasses : markFetched.markSlot = some 0 ∧ markFetched.gHeld = none ∧ (markFetched.settlePart markRan).curW.passed markFetched.walk = true
    ∧ isNext (markFetched.passMark (markFetched.settlePart markRan) 0) = true :=
  by decide +kernel
/-- PartsSettle: a partner that has passed a bundle, one that has not and may issue there, and one that may not. -/
theorem hyp_partners : ((onCore0 .A fun k => { k with wS := { k.wS with walk := 1 } }).cur.wk .S).passed 0 = true ∧ ((onCore0 .A id).cur.wk .S).passed 0 = false
    ∧ (onCore0 .A id).partnerReady .S 0 = false ∧ markFetched.partnerReady .S 0 = true ∧ encode (.hbmRefresh 0) = none := by decide +kernel
/-- The engine with a run whose bundle holds one syllable. -/
noncomputable def isSylAbut (w : W32) (i : Instr) : Bool :=
  match decodeAbut w with
  | some j => decide (j = i)
  | none => false
theorem hyp_abutRuns : engine.abut = some run0 ∧ engine.abutNow = true ∧ run0.skipped = false ∧ run0.ended = false ∧ run0.late = []
    ∧ ({ engine with abut := some { run0 with late := [(0, 0, false)] } } : State).abutNow = true ∧ isSylAbut 0x8E800000#32 .abend = true := by decide +kernel
/-- PartsSettle: a part that stops, one that waits, one that ends; causes of a bundle and of a syllable, and none. -/
theorem hyp_settles : (onCore0 .A id).issue.core < 480
    ∧ (onCore0 .A fun k => { k with wA := { k.wA with run := .stopped, stop := some (.replicate 8 0) } }).curW.stop = some (.replicate 8 0)
    ∧ ((onCore0 .A id).waitOn 7 0 1).issue.waits ≠ [] ∧ ((onCore0 .A id).waitOn 7 0 1).curW.run ≠ .stopped
    ∧ (onCore0 .A fun k => { k with wA := { k.wA with run := .running } }).curW.run = .running ∧ (onCore0 .A id).issue.waits = [] := by decide +kernel
def wordsS (ws : List W32) : State :=
  let s := onCore0 .A id
  { s with issue := { s.issue with words := ws } }
/-- PartsSettle: A drains to a stopping place and meets a legal bundle that opens a PLOOP. -/
def ploopWord : W32 := 0#2 ++ 0#2 ++ 7#6 ++ 1#6 ++ 2#2 ++ 0#1 ++ 1#13
def drainS : State :=
  let s := onCore0 .A fun k => { k with wA := { k.wA with k := vset k.wA.k 1 3, pre := .upTo 100 } }
  { s with issue := { s.issue with words := ploopWord :: List.replicate 7 padWord } }
theorem hyp_holds : drainS.rowsFirst.beforePloop drainS.rowsFirst.issue.words = true
    ∧ bundleCause drainS.rowsFirst.curW.ploop drainS.rowsFirst.issue.words = none := by decide +kernel
theorem hyp_causes : (bundleCause none [0, padWord, padWord, padWord, padWord, padWord, padWord, padWord]).isSome = true
    ∧ bundleCause none [kaddiWord, padWord, padWord, padWord, padWord, padWord, padWord, padWord] = none
    ∧ (ownCause .A none [0x4C000000#32, padWord, padWord, padWord, padWord, padWord, padWord, padWord]).isSome = true
    ∧ bundleCause none [0x4C000000#32, padWord, padWord, padWord, padWord, padWord, padWord, padWord] = none
    ∧ (twoReached .A .S).isFirst = true ∧ (onCore0 .S fun k => { k with arrivals := [(0, [.A, .S])] }).isFirst = false
    ∧ (wordsS [kaddiWord]).beforePloop [kaddiWord] = false ∧ isLimm 0x0FC00001#32 = true ∧ limmBase [0x0FC00001#32] 0 = none ∧ stageOf 0x0FC00001#32 = 0
    ∧ isSyl 0x10C50803#32 = true ∧ stageOf 0x10C50803#32 ≠ 0 ∧ 2 < ([kaddiWord, kaddiWord, kaddiWord].take 3).countP (fun x => isSyl x && decide (tagOf x = 0)) := by decide +kernel
/-- DecodeEncode, SyllablesComplete, ProgramsKeepControl: instructions with a word, in core text and in abutment programs. -/
theorem hyp_encodes : encode (.kaddi 0 5 2 3) = some kaddiWord ∧ (encode (.vrowldSlot 1 2)).isSome = true ∧ (encode (.vrowstSlot 1 2)).isSome = true
    ∧ (encode (.vbcastConst 2 1)).isSome = true ∧ (Instr.kaddi 0 5 2 3).wf = true := by decide +kernel
/-- MemoryCanonical: a step from a canonical state. -/
theorem hyp_canonical : stepS.mem.wf = true ∧ stepS.flash.wf = true := by decide +kernel
/-- Translation: a leaf at level 1 under good tables; not valid, malformed, in motion, without permission, beyond the frames, and a partition that is off. -/
def entryS (i : Nat) (b : Byte) : State :=
  let s := paged .reset
  { s with mem := s.mem.set (131072 + i) b }
theorem hyp_translation : let s := paged .reset
    let r := (s.xlOf 0).root.toNat * 65536
    let e (t : State) : W64 := t.entryAt r 0x1000 1
    s.tlb = [] ∧ s.ue = [] ∧ (s.xlOf 0).w0.getLsbD 63 = true ∧ (s.entryAt r 0x1000 0).getLsbD 63 = true ∧ (s.entryAt r 0x1000 0).getLsbD 62 = false
      ∧ s.malformed 0 0 (s.entryAt r 0x1000 0) = false ∧ (e s).getLsbD 63 = true ∧ (e s).getLsbD 62 = true ∧ s.malformed 0 1 (e s) = false ∧ (e s).getLsbD 53 = false
      ∧ permOk permW (e s) = true ∧ (e s).getLsbD 52 = false ∧ (e s).getLsbD 56 = false ∧ fld (e s) 16 28 * 65536 < 2 ^ 40
      ∧ (e (entryS 7 0x78)).getLsbD 63 = false ∧ (entryS 0 1).malformed 0 1 (e (entryS 0 1)) = true ∧ (e (entryS 6 0x20)).getLsbD 53 = true
      ∧ permOk permW (e (entryS 7 0xE8)) = false ∧ 2 ^ 40 ≤ fld (e (entryS 5 1)) 16 28 * 65536 ∧ (State.reset.xlOf 0).w0.getLsbD 63 = false := by decide +kernel
theorem hyp_reached : (∃ p, (paged .reset).reach (ioX 0) permW 0x1000 8 = .ok p) ∧ (∀ d, (ioX 0).unit ≠ .walkCache d) :=
  ⟨isOk_of (by decide +kernel), fun d h => by cases h⟩

/-! ## Words written out field by field from the encodings (06 R182, R183, R192 to R199 and the instruction chapters) -/

noncomputable def wordsOk (l : List (W32 × Instr)) : Bool := l.all fun p => okInstr (decode p.1) p.2 && p.2.wf && decide (encode p.2 = some p.1)
noncomputable def okAbut (w : W32) (i : Instr) : Bool := decide (decodeAbut w = some i ∧ encode i = some w)
theorem test_words_k : wordsOk [
    (0#2 ++ 2#2 ++ 1#6 ++ 0#22, .nop 2),
    (0#2 ++ 2#2 ++ 2#6 ++ 5#6 ++ 7#16, .kset 2 5 7),
    (0#2 ++ 2#2 ++ 3#6 ++ 5#6 ++ 7#6 ++ 9#10, .kaddi 2 5 7 9),
    (0#2 ++ 2#2 ++ 4#6 ++ 5#6 ++ 7#6 ++ 9#6 ++ 0#4, .kadd 2 5 7 9),
    (0#2 ++ 2#2 ++ 4#6 ++ 5#6 ++ 7#6 ++ 9#6 ++ 1#4, .ksub 2 5 7 9),
    (0#2 ++ 2#2 ++ 4#6 ++ 5#6 ++ 7#6 ++ 9#6 ++ 2#4, .kand 2 5 7 9),
    (0#2 ++ 2#2 ++ 4#6 ++ 5#6 ++ 7#6 ++ 9#6 ++ 3#4, .kor 2 5 7 9),
    (0#2 ++ 2#2 ++ 4#6 ++ 5#6 ++ 7#6 ++ 9#6 ++ 4#4, .kxor 2 5 7 9),
    (0#2 ++ 2#2 ++ 4#6 ++ 5#6 ++ 7#6 ++ 9#6 ++ 5#4, .kandn 2 5 7 9),
    (0#2 ++ 2#2 ++ 4#6 ++ 5#6 ++ 7#6 ++ 9#6 ++ 6#4, .kshl 2 5 7 9),
    (0#2 ++ 2#2 ++ 4#6 ++ 5#6 ++ 7#6 ++ 9#6 ++ 7#4, .kshr 2 5 7 9),
    (0#2 ++ 2#2 ++ 4#6 ++ 5#6 ++ 7#6 ++ 9#6 ++ 8#4, .ksra 2 5 7 9),
    (0#2 ++ 2#2 ++ 4#6 ++ 5#6 ++ 7#6 ++ 9#6 ++ 9#4, .kmin 2 5 7 9),
    (0#2 ++ 2#2 ++ 4#6 ++ 5#6 ++ 7#6 ++ 9#6 ++ 10#4, .kmax 2 5 7 9),
    (0#2 ++ 2#2 ++ 4#6 ++ 5#6 ++ 7#6 ++ 9#6 ++ 11#4, .kminu 2 5 7 9),
    (0#2 ++ 2#2 ++ 4#6 ++ 5#6 ++ 7#6 ++ 9#6 ++ 12#4, .kmaxu 2 5 7 9),
    (0#2 ++ 2#2 ++ 4#6 ++ 5#6 ++ 7#6 ++ 9#6 ++ 13#4, .kaddw 2 5 7 9),
    (0#2 ++ 2#2 ++ 4#6 ++ 5#6 ++ 7#6 ++ 9#6 ++ 14#4, .ksubw 2 5 7 9),
    (0#2 ++ 2#2 ++ 4#6 ++ 5#6 ++ 7#6 ++ 15#10, .kclz 2 5 7),
    (0#2 ++ 2#2 ++ 5#6 ++ 5#6 ++ 0#6 ++ 7#4 ++ 0#6, .kmovq 2 5 7),
    (0#2 ++ 2#2 ++ 6#6 ++ 5#6 ++ 0#2 ++ 1#1 ++ 9#13, .loop 2 5 1 9),
    (0#2 ++ 2#2 ++ 7#6 ++ 5#6 ++ 3#2 ++ 1#1 ++ 11#13, .ploop 2 5 3 1 11),
    (0#2 ++ 2#2 ++ 8#6 ++ 5#22, .br 2 5),
    (0#2 ++ 2#2 ++ 9#6 ++ 0#6 ++ 5#6 ++ 7#10, .beqz 2 5 7),
    (0#2 ++ 2#2 ++ 9#6 ++ 1#6 ++ 5#6 ++ 7#10, .bnez 2 5 7),
    (0#2 ++ 2#2 ++ 9#6 ++ 2#6 ++ 5#6 ++ 7#10, .bltz 2 5 7),
    (0#2 ++ 2#2 ++ 9#6 ++ 3#6 ++ 5#6 ++ 7#10, .bgez 2 5 7),
    (0#2 ++ 2#2 ++ 9#6 ++ 4#6 ++ 5#6 ++ 7#10, .bgtz 2 5 7),
    (0#2 ++ 2#2 ++ 9#6 ++ 5#6 ++ 5#6 ++ 7#10, .blez 2 5 7),
    (0#2 ++ 2#2 ++ 10#6 ++ 5#4 ++ 1#1 ++ 7#17, .brq 2 5 7),
    (0#2 ++ 2#2 ++ 10#6 ++ 5#4 ++ 0#1 ++ 7#17, .brqz 2 5 7),
    (0#2 ++ 2#2 ++ 11#6 ++ 5#22, .call 2 5),
    (0#2 ++ 2#2 ++ 12#6 ++ 0#22, .ret 2),
    (0#2 ++ 2#2 ++ 13#6 ++ 0#22, .mark 2),
    (0#2 ++ 2#2 ++ 14#6 ++ 0#12 ++ 5#4 ++ 0#6, .bara 2 5),
    (0#2 ++ 2#2 ++ 14#6 ++ 5#6 ++ 0#6 ++ 7#4 ++ 1#6, .barw 2 5 7),
    (0#2 ++ 2#2 ++ 14#6 ++ 0#12 ++ 5#4 ++ 2#6, .bar 2 5),
    (0#2 ++ 2#2 ++ 15#6 ++ 0#6 ++ 5#16, .slipset 2 5),
    (0#2 ++ 2#2 ++ 16#6 ++ 5#6 ++ 7#6 ++ 0#10, .tdef 2 5 7),
    (0#2 ++ 2#2 ++ 16#6 ++ 5#6 ++ 7#6 ++ 0#7 ++ 1#3, .tdefTable 2 5 7 1),
    (0#2 ++ 2#2 ++ 17#6 ++ 5#6 ++ 0#16, .tundef 2 5),
    (0#2 ++ 2#2 ++ 18#6 ++ 0#2 ++ 5#4 ++ 7#16, .budget 2 5 7),
    (0#2 ++ 2#2 ++ 19#6 ++ 0#6 ++ 5#16, .phase 2 5),
    (0#2 ++ 2#2 ++ 20#6 ++ 0#6 ++ 5#6 ++ 0#10, .kseed 2 5),
    (0#2 ++ 2#2 ++ 20#6 ++ 0#6 ++ 5#6 ++ 1#10, .kseedx 2 5),
    (0#2 ++ 2#2 ++ 21#6 ++ 0#22, .endK 2),
    (3#2 ++ 2#2 ++ 63#6 ++ 7#22, .limm 3 2 7)] = true := by decide +kernel
theorem test_words_a : wordsOk [
    (1#2 ++ 2#2 ++ 2#6 ++ 5#6 ++ 7#6 ++ 9#6 ++ 0#4, .aadd 2 5 7 9),
    (1#2 ++ 2#2 ++ 2#6 ++ 5#6 ++ 7#6 ++ 9#6 ++ 1#4, .asub 2 5 7 9),
    (1#2 ++ 2#2 ++ 2#6 ++ 5#6 ++ 7#6 ++ 9#6 ++ 2#4, .aand 2 5 7 9),
    (1#2 ++ 2#2 ++ 2#6 ++ 5#6 ++ 7#6 ++ 9#6 ++ 3#4, .aor 2 5 7 9),
    (1#2 ++ 2#2 ++ 2#6 ++ 5#6 ++ 7#6 ++ 9#6 ++ 4#4, .axor 2 5 7 9),
    (1#2 ++ 2#2 ++ 2#6 ++ 5#6 ++ 7#6 ++ 9#6 ++ 5#4, .aandn 2 5 7 9),
    (1#2 ++ 2#2 ++ 2#6 ++ 5#6 ++ 7#6 ++ 9#6 ++ 6#4, .ashl 2 5 7 9),
    (1#2 ++ 2#2 ++ 2#6 ++ 5#6 ++ 7#6 ++ 9#6 ++ 7#4, .ashr 2 5 7 9),
    (1#2 ++ 2#2 ++ 2#6 ++ 5#6 ++ 7#6 ++ 9#6 ++ 8#4, .asra 2 5 7 9),
    (1#2 ++ 2#2 ++ 2#6 ++ 5#6 ++ 7#6 ++ 9#6 ++ 9#4, .amin 2 5 7 9),
    (1#2 ++ 2#2 ++ 2#6 ++ 5#6 ++ 7#6 ++ 9#6 ++ 10#4, .amax 2 5 7 9),
    (1#2 ++ 2#2 ++ 2#6 ++ 5#6 ++ 7#6 ++ 9#6 ++ 11#4, .aminu 2 5 7 9),
    (1#2 ++ 2#2 ++ 2#6 ++ 5#6 ++ 7#6 ++ 9#6 ++ 12#4, .amaxu 2 5 7 9),
    (1#2 ++ 2#2 ++ 2#6 ++ 5#6 ++ 7#6 ++ 9#6 ++ 13#4, .aaddw 2 5 7 9),
    (1#2 ++ 2#2 ++ 2#6 ++ 5#6 ++ 7#6 ++ 9#6 ++ 14#4, .asubw 2 5 7 9),
    (1#2 ++ 2#2 ++ 2#6 ++ 5#6 ++ 7#6 ++ 15#10, .aclz 2 5 7),
    (1#2 ++ 2#2 ++ 3#6 ++ 5#6 ++ 7#6 ++ 9#10, .aaddi 2 5 7 9),
    (1#2 ++ 2#2 ++ 4#6 ++ 5#6 ++ 7#16, .ali 2 5 7),
    (1#2 ++ 2#2 ++ 5#6 ++ 5#6 ++ 7#6 ++ 9#6 ++ 11#4, .amovk 2 5 7 9 11),
    (1#2 ++ 2#2 ++ 6#6 ++ 5#6 ++ 0#6 ++ 7#4 ++ 0#6, .aqpop 2 5 7),
    (1#2 ++ 2#2 ++ 8#6 ++ 5#6 ++ 7#6 ++ 9#6 ++ 2#2 ++ 1#1 ++ 1#1, .ld 2 5 7 9 2 1 1),
    (1#2 ++ 2#2 ++ 9#6 ++ 63#6 ++ 5#6 ++ 7#6 ++ 1#2 ++ 1#1 ++ 1#1, .lds 2 5 7 1 1 1),
    (1#2 ++ 2#2 ++ 10#6 ++ 5#6 ++ 7#6 ++ 0#10, .tld 2 5 7),
    (1#2 ++ 2#2 ++ 10#6 ++ 5#6 ++ 7#6 ++ 1#10, .tldp 2 5 7)] = true := by decide +kernel
theorem test_words_moving : wordsOk [
    (1#2 ++ 2#2 ++ 11#6 ++ 5#6 ++ 7#6 ++ 0#10, .tlds 2 5 7),
    (1#2 ++ 2#2 ++ 12#6 ++ 5#6 ++ 7#6 ++ 0#10, .tldsc 2 5 7),
    (1#2 ++ 2#2 ++ 13#6 ++ 0#6 ++ 5#6 ++ 7#4 ++ 0#2 ++ 9#4, .tcopy 2 5 7 9),
    (1#2 ++ 2#2 ++ 14#6 ++ 0#6 ++ 5#6 ++ 7#4 ++ 0#2 ++ 9#4, .tgath 2 5 7 9),
    (1#2 ++ 2#2 ++ 14#6 ++ 5#6 ++ 7#6 ++ 9#4 ++ 1#2 ++ 11#4, .tgathTile 2 5 7 9 11),
    (1#2 ++ 2#2 ++ 15#6 ++ 0#6 ++ 5#6 ++ 7#4 ++ 0#2 ++ 9#4, .txp 2 5 7 9),
    (1#2 ++ 2#2 ++ 15#6 ++ 5#6 ++ 7#6 ++ 9#4 ++ 1#2 ++ 11#4, .txpTile 2 5 7 9 11),
    (1#2 ++ 2#2 ++ 16#6 ++ 1#2 ++ 0#4 ++ 7#6 ++ 9#6 ++ 1#1 ++ 1#1 ++ 0#2, .atomSwap 2 1 7 9 1),
    (1#2 ++ 2#2 ++ 16#6 ++ 1#2 ++ 1#4 ++ 7#6 ++ 9#6 ++ 1#1 ++ 1#1 ++ 0#2, .atomCas 2 1 7 9 1),
    (1#2 ++ 2#2 ++ 16#6 ++ 1#2 ++ 2#4 ++ 7#6 ++ 9#6 ++ 1#1 ++ 1#1 ++ 0#2, .atomAdd 2 1 7 9 1),
    (1#2 ++ 2#2 ++ 16#6 ++ 1#2 ++ 3#4 ++ 7#6 ++ 9#6 ++ 1#1 ++ 1#1 ++ 0#2, .atomAnd 2 1 7 9 1),
    (1#2 ++ 2#2 ++ 16#6 ++ 1#2 ++ 4#4 ++ 7#6 ++ 9#6 ++ 1#1 ++ 1#1 ++ 0#2, .atomOr 2 1 7 9 1),
    (1#2 ++ 2#2 ++ 16#6 ++ 1#2 ++ 5#4 ++ 7#6 ++ 9#6 ++ 1#1 ++ 1#1 ++ 0#2, .atomXor 2 1 7 9 1),
    (1#2 ++ 2#2 ++ 16#6 ++ 1#2 ++ 6#4 ++ 7#6 ++ 9#6 ++ 1#1 ++ 1#1 ++ 0#2, .atomMin 2 1 7 9 1),
    (1#2 ++ 2#2 ++ 16#6 ++ 1#2 ++ 7#4 ++ 7#6 ++ 9#6 ++ 1#1 ++ 1#1 ++ 0#2, .atomMax 2 1 7 9 1),
    (1#2 ++ 2#2 ++ 16#6 ++ 1#2 ++ 8#4 ++ 7#6 ++ 9#6 ++ 1#1 ++ 1#1 ++ 0#2, .atomMinu 2 1 7 9 1),
    (1#2 ++ 2#2 ++ 16#6 ++ 1#2 ++ 9#4 ++ 7#6 ++ 9#6 ++ 1#1 ++ 1#1 ++ 0#2, .atomMaxu 2 1 7 9 1),
    (1#2 ++ 2#2 ++ 16#6 ++ 1#2 ++ 10#4 ++ 7#6 ++ 9#6 ++ 1#1 ++ 1#1 ++ 0#2, .atomIncw 2 1 7 9 1),
    (1#2 ++ 2#2 ++ 16#6 ++ 1#2 ++ 11#4 ++ 7#6 ++ 9#6 ++ 1#1 ++ 1#1 ++ 0#2, .atomDecw 2 1 7 9 1),
    (1#2 ++ 2#2 ++ 16#6 ++ 1#2 ++ 12#4 ++ 7#6 ++ 9#6 ++ 1#1 ++ 1#1 ++ 0#2, .atomFaddb 2 1 7 9 1),
    (1#2 ++ 2#2 ++ 16#6 ++ 1#2 ++ 13#4 ++ 7#6 ++ 9#6 ++ 1#1 ++ 1#1 ++ 0#2, .atomFaddt 2 1 7 9 1),
    (1#2 ++ 2#2 ++ 16#6 ++ 1#2 ++ 14#4 ++ 7#6 ++ 9#6 ++ 8#4, .atomFaddF32 2 1 7 9),
    (1#2 ++ 2#2 ++ 16#6 ++ 1#2 ++ 15#4 ++ 7#6 ++ 9#6 ++ 8#4, .atomFmaxF32 2 1 7 9),
    (1#2 ++ 2#2 ++ 17#6 ++ 5#6 ++ 7#6 ++ 9#4 ++ 0#5 ++ 1#1, .await 2 5 7 9 1),
    (1#2 ++ 2#2 ++ 18#6 ++ 0#5 ++ 1#1 ++ 7#6 ++ 9#6 ++ 3#2 ++ 0#1 ++ 1#1, .pref 2 1 7 9 3 1),
    (1#1 ++ 1#1 ++ 2#2 ++ 19#6 ++ 7#6 ++ 1#3 ++ 0#13, .rinit 1 2 7 1),
    (1#1 ++ 1#1 ++ 2#2 ++ 19#6 ++ 7#6 ++ 9#6 ++ 11#4 ++ 1#6, .rclaim 1 2 7 9 11),
    (1#1 ++ 1#1 ++ 2#2 ++ 19#6 ++ 7#6 ++ 9#6 ++ 2#10, .rpub 1 2 7 9),
    (1#1 ++ 1#1 ++ 2#2 ++ 19#6 ++ 0#6 ++ 7#3 ++ 0#3 ++ 9#4 ++ 3#6, .rwaitf 1 2 7 9),
    (1#1 ++ 1#1 ++ 2#2 ++ 19#6 ++ 0#6 ++ 7#3 ++ 4#13, .rrel 1 2 7),
    (1#2 ++ 2#2 ++ 20#6 ++ 5#6 ++ 7#6 ++ 0#10, .nmred 2 5 7),
    (1#2 ++ 2#2 ++ 22#6 ++ 0#22, .invl1 2),
    (1#2 ++ 2#2 ++ 22#6 ++ 0#6 ++ 5#6 ++ 7#6 ++ 1#4, .invl1r 2 5 7)] = true := by decide +kernel
theorem test_words_x1 : wordsOk [
    (2#2 ++ 2#2 ++ 2#6 ++ 5#6 ++ 7#6 ++ 9#6 ++ 0#4, .add 2 5 7 9),
    (2#2 ++ 2#2 ++ 2#6 ++ 5#6 ++ 7#6 ++ 9#6 ++ 1#4, .sub 2 5 7 9),
    (2#2 ++ 2#2 ++ 2#6 ++ 5#6 ++ 7#6 ++ 9#6 ++ 2#4, .and 2 5 7 9),
    (2#2 ++ 2#2 ++ 2#6 ++ 5#6 ++ 7#6 ++ 9#6 ++ 3#4, .or 2 5 7 9),
    (2#2 ++ 2#2 ++ 2#6 ++ 5#6 ++ 7#6 ++ 9#6 ++ 4#4, .xor 2 5 7 9),
    (2#2 ++ 2#2 ++ 2#6 ++ 5#6 ++ 7#6 ++ 9#6 ++ 5#4, .andn 2 5 7 9),
    (2#2 ++ 2#2 ++ 2#6 ++ 5#6 ++ 7#6 ++ 9#6 ++ 6#4, .shl 2 5 7 9),
    (2#2 ++ 2#2 ++ 2#6 ++ 5#6 ++ 7#6 ++ 9#6 ++ 7#4, .shr 2 5 7 9),
    (2#2 ++ 2#2 ++ 2#6 ++ 5#6 ++ 7#6 ++ 9#6 ++ 8#4, .sra 2 5 7 9),
    (2#2 ++ 2#2 ++ 2#6 ++ 5#6 ++ 7#6 ++ 9#6 ++ 9#4, .min 2 5 7 9),
    (2#2 ++ 2#2 ++ 2#6 ++ 5#6 ++ 7#6 ++ 9#6 ++ 10#4, .max 2 5 7 9),
    (2#2 ++ 2#2 ++ 2#6 ++ 5#6 ++ 7#6 ++ 9#6 ++ 11#4, .minu 2 5 7 9),
    (2#2 ++ 2#2 ++ 2#6 ++ 5#6 ++ 7#6 ++ 9#6 ++ 12#4, .maxu 2 5 7 9),
    (2#2 ++ 2#2 ++ 2#6 ++ 5#6 ++ 7#6 ++ 9#6 ++ 13#4, .addw 2 5 7 9),
    (2#2 ++ 2#2 ++ 2#6 ++ 5#6 ++ 7#6 ++ 9#6 ++ 14#4, .subw 2 5 7 9),
    (2#2 ++ 2#2 ++ 2#6 ++ 5#6 ++ 7#6 ++ 15#10, .clz 2 5 7),
    (2#2 ++ 2#2 ++ 3#6 ++ 5#6 ++ 7#6 ++ 9#6 ++ 0#4, .mul 2 5 7 9),
    (2#2 ++ 2#2 ++ 3#6 ++ 5#6 ++ 7#6 ++ 9#6 ++ 1#4, .mulh 2 5 7 9),
    (2#2 ++ 2#2 ++ 3#6 ++ 5#6 ++ 7#6 ++ 9#6 ++ 2#4, .mulhu 2 5 7 9),
    (2#2 ++ 2#2 ++ 3#6 ++ 5#6 ++ 7#6 ++ 9#6 ++ 3#4, .mulhsu 2 5 7 9),
    (2#2 ++ 2#2 ++ 3#6 ++ 5#6 ++ 7#6 ++ 9#6 ++ 4#4, .div 2 5 7 9),
    (2#2 ++ 2#2 ++ 3#6 ++ 5#6 ++ 7#6 ++ 9#6 ++ 5#4, .divu 2 5 7 9),
    (2#2 ++ 2#2 ++ 3#6 ++ 5#6 ++ 7#6 ++ 9#6 ++ 6#4, .rem 2 5 7 9),
    (2#2 ++ 2#2 ++ 3#6 ++ 5#6 ++ 7#6 ++ 9#6 ++ 7#4, .remu 2 5 7 9),
    (2#2 ++ 2#2 ++ 3#6 ++ 5#6 ++ 7#6 ++ 9#6 ++ 8#4, .mulw 2 5 7 9),
    (2#2 ++ 2#2 ++ 3#6 ++ 5#6 ++ 7#6 ++ 9#6 ++ 9#4, .divw 2 5 7 9),
    (2#2 ++ 2#2 ++ 3#6 ++ 5#6 ++ 7#6 ++ 9#6 ++ 10#4, .divuw 2 5 7 9),
    (2#2 ++ 2#2 ++ 3#6 ++ 5#6 ++ 7#6 ++ 9#6 ++ 11#4, .remw 2 5 7 9),
    (2#2 ++ 2#2 ++ 3#6 ++ 5#6 ++ 7#6 ++ 9#6 ++ 12#4, .remuw 2 5 7 9),
    (2#2 ++ 2#2 ++ 4#6 ++ 5#6 ++ 7#6 ++ 9#10, .addi 2 5 7 9),
    (2#2 ++ 2#2 ++ 5#6 ++ 5#6 ++ 0#6 ++ 7#10, .andi 2 5 7),
    (2#2 ++ 2#2 ++ 5#6 ++ 5#6 ++ 1#6 ++ 7#10, .ori 2 5 7),
    (2#2 ++ 2#2 ++ 5#6 ++ 5#6 ++ 2#6 ++ 7#10, .xori 2 5 7),
    (2#2 ++ 2#2 ++ 5#6 ++ 5#6 ++ 3#6 ++ 7#10, .andni 2 5 7),
    (2#2 ++ 2#2 ++ 6#6 ++ 5#6 ++ 0#6 ++ 7#10, .shli 2 5 7),
    (2#2 ++ 2#2 ++ 6#6 ++ 5#6 ++ 1#6 ++ 7#10, .shri 2 5 7),
    (2#2 ++ 2#2 ++ 6#6 ++ 5#6 ++ 2#6 ++ 7#10, .srai 2 5 7),
    (2#2 ++ 2#2 ++ 6#6 ++ 5#6 ++ 3#6 ++ 7#10, .rori 2 5 7),
    (2#2 ++ 2#2 ++ 7#6 ++ 5#6 ++ 7#16, .li 2 5 7),
    (2#2 ++ 2#2 ++ 8#6 ++ 5#6 ++ 7#6 ++ 9#6 ++ 0#4, .seq 2 5 7 9),
    (2#2 ++ 2#2 ++ 8#6 ++ 5#6 ++ 7#6 ++ 9#6 ++ 1#4, .sne 2 5 7 9),
    (2#2 ++ 2#2 ++ 8#6 ++ 5#6 ++ 7#6 ++ 9#6 ++ 2#4, .slt 2 5 7 9),
    (2#2 ++ 2#2 ++ 8#6 ++ 5#6 ++ 7#6 ++ 9#6 ++ 3#4, .sltu 2 5 7 9),
    (2#2 ++ 2#2 ++ 8#6 ++ 5#6 ++ 7#6 ++ 9#6 ++ 4#4, .sle 2 5 7 9),
    (2#2 ++ 2#2 ++ 8#6 ++ 5#6 ++ 7#6 ++ 9#6 ++ 5#4, .sleu 2 5 7 9),
    (2#2 ++ 2#2 ++ 8#6 ++ 5#6 ++ 7#6 ++ 9#6 ++ 6#4, .sel 2 5 7 9),
    (2#2 ++ 2#2 ++ 9#6 ++ 5#6 ++ 0#16, .pushs 2 5),
    (2#2 ++ 2#2 ++ 9#6 ++ 5#6 ++ 1#16, .pusha 2 5),
    (2#2 ++ 2#2 ++ 9#6 ++ 5#6 ++ 2#16, .pushb 2 5),
    (2#2 ++ 2#2 ++ 9#6 ++ 5#6 ++ 3#16, .pushk 2 5)] = true := by decide +kernel
theorem test_words_x2 : wordsOk [
    (2#2 ++ 2#2 ++ 9#6 ++ 5#6 ++ 0#6 ++ 7#4 ++ 4#6, .popl 2 5 7),
    (2#2 ++ 2#2 ++ 9#6 ++ 5#6 ++ 7#6 ++ 9#4 ++ 5#6, .qpopf 2 5 7 9),
    (2#2 ++ 2#2 ++ 10#6 ++ 5#6 ++ 0#16, .chk 2 5),
    (2#2 ++ 2#2 ++ 10#6 ++ 5#6 ++ 1#16, .chkt 2 5),
    (2#2 ++ 2#2 ++ 11#6 ++ 5#6 ++ 7#6 ++ 9#6 ++ 0#4, .fadd 2 5 7 9),
    (2#2 ++ 2#2 ++ 11#6 ++ 5#6 ++ 7#6 ++ 9#6 ++ 1#4, .fsub 2 5 7 9),
    (2#2 ++ 2#2 ++ 11#6 ++ 5#6 ++ 7#6 ++ 9#6 ++ 2#4, .fmul 2 5 7 9),
    (2#2 ++ 2#2 ++ 11#6 ++ 5#6 ++ 7#6 ++ 9#6 ++ 3#4, .fmac 2 5 7 9),
    (2#2 ++ 2#2 ++ 11#6 ++ 5#6 ++ 7#6 ++ 9#6 ++ 4#4, .fmin 2 5 7 9),
    (2#2 ++ 2#2 ++ 11#6 ++ 5#6 ++ 7#6 ++ 9#6 ++ 5#4, .fmax 2 5 7 9),
    (2#2 ++ 2#2 ++ 11#6 ++ 5#6 ++ 7#6 ++ 9#6 ++ 6#4, .feq 2 5 7 9),
    (2#2 ++ 2#2 ++ 11#6 ++ 5#6 ++ 7#6 ++ 9#6 ++ 7#4, .flt 2 5 7 9),
    (2#2 ++ 2#2 ++ 11#6 ++ 5#6 ++ 7#6 ++ 9#6 ++ 8#4, .fle 2 5 7 9),
    (2#2 ++ 2#2 ++ 11#6 ++ 5#6 ++ 7#6 ++ 9#10, .fcvtif 2 5 7),
    (2#2 ++ 2#2 ++ 11#6 ++ 5#6 ++ 7#6 ++ 10#10, .fcvtfi 2 5 7),
    (2#2 ++ 2#2 ++ 11#6 ++ 5#6 ++ 7#6 ++ 11#10, .fabs 2 5 7),
    (2#2 ++ 2#2 ++ 11#6 ++ 5#6 ++ 7#6 ++ 12#10, .fneg 2 5 7),
    (2#2 ++ 2#2 ++ 12#6 ++ 5#6 ++ 0#2 ++ 71#14, .rdsys 2 5 71),
    (2#2 ++ 2#2 ++ 12#6 ++ 5#6 ++ 1#2 ++ 71#14, .wrsys 2 5 71),
    (2#2 ++ 2#2 ++ 12#6 ++ 2#8 ++ 5#14, .trap 2 5),
    (2#2 ++ 2#2 ++ 12#6 ++ 3#8 ++ 5#14, .ebreak 2 5)] = true := by decide +kernel
theorem test_words_lanes1 : wordsOk [
    (2#2 ++ 2#2 ++ 16#6 ++ 5#5 ++ 7#5 ++ 9#5 ++ 3#3 ++ 0#4, .vfadd 2 5 7 9 3),
    (2#2 ++ 2#2 ++ 16#6 ++ 5#5 ++ 7#5 ++ 9#5 ++ 3#3 ++ 1#4, .vfsub 2 5 7 9 3),
    (2#2 ++ 2#2 ++ 16#6 ++ 5#5 ++ 7#5 ++ 9#5 ++ 3#3 ++ 2#4, .vfmul 2 5 7 9 3),
    (2#2 ++ 2#2 ++ 16#6 ++ 5#5 ++ 7#5 ++ 9#5 ++ 3#3 ++ 3#4, .vfmin 2 5 7 9 3),
    (2#2 ++ 2#2 ++ 16#6 ++ 5#5 ++ 7#5 ++ 9#5 ++ 3#3 ++ 4#4, .vfmax 2 5 7 9 3),
    (2#2 ++ 2#2 ++ 16#6 ++ 5#5 ++ 7#5 ++ 0#5 ++ 1#3 ++ 5#4, .vfabs 2 5 7 1),
    (2#2 ++ 2#2 ++ 16#6 ++ 5#5 ++ 7#5 ++ 0#5 ++ 1#3 ++ 6#4, .vfneg 2 5 7 1),
    (2#2 ++ 2#2 ++ 17#6 ++ 5#5 ++ 7#5 ++ 9#5 ++ 11#5 ++ 0#2, .vfma 2 5 7 9 11),
    (2#2 ++ 2#2 ++ 17#6 ++ 5#5 ++ 7#5 ++ 9#5 ++ 11#5 ++ 1#2, .vfms 2 5 7 9 11),
    (2#2 ++ 2#2 ++ 17#6 ++ 5#5 ++ 7#5 ++ 9#5 ++ 11#5 ++ 2#2, .vfnma 2 5 7 9 11),
    (2#2 ++ 2#2 ++ 17#6 ++ 5#5 ++ 7#5 ++ 9#5 ++ 11#5 ++ 3#2, .vfnms 2 5 7 9 11),
    (2#2 ++ 2#2 ++ 18#6 ++ 5#5 ++ 7#5 ++ 9#5 ++ 3#3 ++ 0#4, .vadd 2 5 7 9 3),
    (2#2 ++ 2#2 ++ 18#6 ++ 5#5 ++ 7#5 ++ 9#5 ++ 3#3 ++ 1#4, .vsub 2 5 7 9 3),
    (2#2 ++ 2#2 ++ 18#6 ++ 5#5 ++ 7#5 ++ 9#5 ++ 3#3 ++ 2#4, .vmul 2 5 7 9 3),
    (2#2 ++ 2#2 ++ 18#6 ++ 5#5 ++ 7#5 ++ 9#5 ++ 3#3 ++ 3#4, .vmulh 2 5 7 9 3),
    (2#2 ++ 2#2 ++ 18#6 ++ 5#5 ++ 7#5 ++ 9#5 ++ 3#3 ++ 4#4, .vmin 2 5 7 9 3),
    (2#2 ++ 2#2 ++ 18#6 ++ 5#5 ++ 7#5 ++ 9#5 ++ 3#3 ++ 5#4, .vmax 2 5 7 9 3),
    (2#2 ++ 2#2 ++ 18#6 ++ 5#5 ++ 7#5 ++ 9#5 ++ 3#3 ++ 6#4, .vminu 2 5 7 9 3),
    (2#2 ++ 2#2 ++ 18#6 ++ 5#5 ++ 7#5 ++ 9#5 ++ 3#3 ++ 7#4, .vmaxu 2 5 7 9 3),
    (2#2 ++ 2#2 ++ 18#6 ++ 5#5 ++ 7#5 ++ 9#5 ++ 3#3 ++ 8#4, .vand 2 5 7 9 3),
    (2#2 ++ 2#2 ++ 18#6 ++ 5#5 ++ 7#5 ++ 9#5 ++ 3#3 ++ 9#4, .vor 2 5 7 9 3),
    (2#2 ++ 2#2 ++ 18#6 ++ 5#5 ++ 7#5 ++ 9#5 ++ 3#3 ++ 10#4, .vxor 2 5 7 9 3),
    (2#2 ++ 2#2 ++ 18#6 ++ 5#5 ++ 7#5 ++ 9#5 ++ 3#3 ++ 11#4, .vandn 2 5 7 9 3),
    (2#2 ++ 2#2 ++ 18#6 ++ 5#5 ++ 7#5 ++ 9#5 ++ 3#3 ++ 12#4, .vadds 2 5 7 9 3),
    (2#2 ++ 2#2 ++ 18#6 ++ 5#5 ++ 7#5 ++ 9#5 ++ 3#3 ++ 13#4, .vsubs 2 5 7 9 3),
    (2#2 ++ 2#2 ++ 18#6 ++ 5#5 ++ 7#5 ++ 0#5 ++ 1#3 ++ 14#4, .vabs 2 5 7 1),
    (2#2 ++ 2#2 ++ 18#6 ++ 5#5 ++ 7#5 ++ 0#5 ++ 1#3 ++ 15#4, .vpopc 2 5 7 1),
    (2#2 ++ 2#2 ++ 19#6 ++ 5#5 ++ 7#5 ++ 9#5 ++ 3#3 ++ 0#4, .vshl 2 5 7 9 3),
    (2#2 ++ 2#2 ++ 19#6 ++ 5#5 ++ 7#5 ++ 9#5 ++ 3#3 ++ 1#4, .vshr 2 5 7 9 3),
    (2#2 ++ 2#2 ++ 19#6 ++ 5#5 ++ 7#5 ++ 9#5 ++ 3#3 ++ 2#4, .vsra 2 5 7 9 3),
    (2#2 ++ 2#2 ++ 19#6 ++ 5#5 ++ 7#5 ++ 9#5 ++ 3#3 ++ 3#4, .vrot 2 5 7 9 3),
    (2#2 ++ 2#2 ++ 19#6 ++ 5#5 ++ 7#5 ++ 9#5 ++ 3#3 ++ 4#4, .vshli 2 5 7 9 3),
    (2#2 ++ 2#2 ++ 19#6 ++ 5#5 ++ 7#5 ++ 9#5 ++ 3#3 ++ 5#4, .vshri 2 5 7 9 3),
    (2#2 ++ 2#2 ++ 19#6 ++ 5#5 ++ 7#5 ++ 9#5 ++ 3#3 ++ 6#4, .vsrai 2 5 7 9 3),
    (2#2 ++ 2#2 ++ 20#6 ++ 0#2 ++ 5#3 ++ 7#5 ++ 9#5 ++ 3#3 ++ 0#4, .vfeq 2 5 7 9 3),
    (2#2 ++ 2#2 ++ 20#6 ++ 0#2 ++ 5#3 ++ 7#5 ++ 9#5 ++ 3#3 ++ 1#4, .vflt 2 5 7 9 3),
    (2#2 ++ 2#2 ++ 20#6 ++ 0#2 ++ 5#3 ++ 7#5 ++ 9#5 ++ 3#3 ++ 2#4, .vfle 2 5 7 9 3),
    (2#2 ++ 2#2 ++ 20#6 ++ 0#2 ++ 5#3 ++ 7#5 ++ 9#5 ++ 3#3 ++ 3#4, .vfunord 2 5 7 9 3),
    (2#2 ++ 2#2 ++ 20#6 ++ 0#2 ++ 5#3 ++ 7#5 ++ 9#5 ++ 3#3 ++ 4#4, .veq 2 5 7 9 3),
    (2#2 ++ 2#2 ++ 20#6 ++ 0#2 ++ 5#3 ++ 7#5 ++ 9#5 ++ 3#3 ++ 5#4, .vne 2 5 7 9 3),
    (2#2 ++ 2#2 ++ 20#6 ++ 0#2 ++ 5#3 ++ 7#5 ++ 9#5 ++ 3#3 ++ 6#4, .vlt 2 5 7 9 3),
    (2#2 ++ 2#2 ++ 20#6 ++ 0#2 ++ 5#3 ++ 7#5 ++ 9#5 ++ 3#3 ++ 7#4, .vltu 2 5 7 9 3),
    (2#2 ++ 2#2 ++ 20#6 ++ 0#2 ++ 5#3 ++ 7#5 ++ 9#5 ++ 3#3 ++ 8#4, .vle 2 5 7 9 3),
    (2#2 ++ 2#2 ++ 20#6 ++ 0#2 ++ 5#3 ++ 7#5 ++ 9#5 ++ 3#3 ++ 9#4, .vleu 2 5 7 9 3),
    (2#2 ++ 2#2 ++ 21#6 ++ 5#5 ++ 7#5 ++ 9#5 ++ 3#3 ++ 0#4, .vsel 2 5 7 9 3),
    (2#2 ++ 2#2 ++ 22#6 ++ 5#5 ++ 7#5 ++ 0#5 ++ 1#3 ++ 0#4, .vexp2 2 5 7 1),
    (2#2 ++ 2#2 ++ 22#6 ++ 5#5 ++ 7#5 ++ 0#5 ++ 1#3 ++ 1#4, .vlog2 2 5 7 1),
    (2#2 ++ 2#2 ++ 22#6 ++ 5#5 ++ 7#5 ++ 0#5 ++ 1#3 ++ 2#4, .vrcp 2 5 7 1),
    (2#2 ++ 2#2 ++ 22#6 ++ 5#5 ++ 7#5 ++ 0#5 ++ 1#3 ++ 3#4, .vrsq 2 5 7 1),
    (2#2 ++ 2#2 ++ 22#6 ++ 5#5 ++ 7#5 ++ 0#5 ++ 1#3 ++ 4#4, .vsqrt 2 5 7 1)] = true := by decide +kernel
theorem test_words_lanes2 : wordsOk [
    (2#2 ++ 2#2 ++ 23#6 ++ 5#5 ++ 7#5 ++ 0#5 ++ 1#3 ++ 0#4, .vcvtF32Bf16 2 5 7 1),
    (2#2 ++ 2#2 ++ 23#6 ++ 5#5 ++ 7#5 ++ 0#5 ++ 1#3 ++ 1#4, .vcvtF32F16 2 5 7 1),
    (2#2 ++ 2#2 ++ 23#6 ++ 5#5 ++ 7#5 ++ 0#5 ++ 1#3 ++ 2#4, .vcvtF32E4m3 2 5 7 1),
    (2#2 ++ 2#2 ++ 23#6 ++ 5#5 ++ 7#5 ++ 0#5 ++ 1#3 ++ 3#4, .vcvtF32E5m2 2 5 7 1),
    (2#2 ++ 2#2 ++ 23#6 ++ 5#5 ++ 7#5 ++ 0#5 ++ 1#3 ++ 4#4, .vcvtF32E2m1 2 5 7 1),
    (2#2 ++ 2#2 ++ 23#6 ++ 5#5 ++ 7#5 ++ 0#5 ++ 1#3 ++ 5#4, .vcvtBf16F32 2 5 7 1),
    (2#2 ++ 2#2 ++ 23#6 ++ 5#5 ++ 7#5 ++ 0#5 ++ 1#3 ++ 6#4, .vcvtF16F32 2 5 7 1),
    (2#2 ++ 2#2 ++ 23#6 ++ 5#5 ++ 7#5 ++ 0#5 ++ 1#3 ++ 7#4, .vcvtE4m3F32Sat 2 5 7 1),
    (2#2 ++ 2#2 ++ 23#6 ++ 5#5 ++ 7#5 ++ 0#5 ++ 1#3 ++ 8#4, .vcvtE4m3F32 2 5 7 1),
    (2#2 ++ 2#2 ++ 23#6 ++ 5#5 ++ 7#5 ++ 0#5 ++ 1#3 ++ 9#4, .vcvtE5m2F32Sat 2 5 7 1),
    (2#2 ++ 2#2 ++ 23#6 ++ 5#5 ++ 7#5 ++ 0#5 ++ 1#3 ++ 10#4, .vcvtE5m2F32 2 5 7 1),
    (2#2 ++ 2#2 ++ 23#6 ++ 5#5 ++ 7#5 ++ 0#5 ++ 1#3 ++ 11#4, .vcvtE2m1F32 2 5 7 1),
    (2#2 ++ 2#2 ++ 23#6 ++ 5#5 ++ 7#5 ++ 0#5 ++ 1#3 ++ 12#4, .vcvtF32I32 2 5 7 1),
    (2#2 ++ 2#2 ++ 23#6 ++ 5#5 ++ 7#5 ++ 0#5 ++ 1#3 ++ 13#4, .vcvtI32F32 2 5 7 1),
    (2#2 ++ 2#2 ++ 23#6 ++ 5#5 ++ 7#5 ++ 0#5 ++ 1#3 ++ 14#4, .vcvtF32E8m0 2 5 7 1),
    (2#2 ++ 2#2 ++ 23#6 ++ 5#5 ++ 7#5 ++ 0#5 ++ 1#3 ++ 15#4, .vcvtE8m0F32 2 5 7 1),
    (2#2 ++ 2#2 ++ 24#6 ++ 5#5 ++ 7#5 ++ 9#5 ++ 3#3 ++ 0#4, .vcvtsrBf16 2 5 7 9 3),
    (2#2 ++ 2#2 ++ 24#6 ++ 5#5 ++ 7#5 ++ 9#5 ++ 3#3 ++ 1#4, .vcvtsrF16 2 5 7 9 3),
    (2#2 ++ 2#2 ++ 24#6 ++ 5#5 ++ 7#5 ++ 9#5 ++ 3#3 ++ 2#4, .vcvtsrE4m3Sat 2 5 7 9 3),
    (2#2 ++ 2#2 ++ 24#6 ++ 5#5 ++ 7#5 ++ 9#5 ++ 3#3 ++ 3#4, .vcvtsrE4m3 2 5 7 9 3),
    (2#2 ++ 2#2 ++ 24#6 ++ 5#5 ++ 7#5 ++ 9#5 ++ 3#3 ++ 4#4, .vcvtsrE5m2Sat 2 5 7 9 3),
    (2#2 ++ 2#2 ++ 24#6 ++ 5#5 ++ 7#5 ++ 9#5 ++ 3#3 ++ 5#4, .vcvtsrE5m2 2 5 7 9 3),
    (2#2 ++ 2#2 ++ 24#6 ++ 5#5 ++ 7#5 ++ 9#5 ++ 3#3 ++ 6#4, .vcvtsrE2m1 2 5 7 9 3),
    (2#2 ++ 2#2 ++ 25#6 ++ 5#5 ++ 7#5 ++ 0#5 ++ 1#3 ++ 0#4, .vredfadd 2 5 7 1),
    (2#2 ++ 2#2 ++ 25#6 ++ 5#5 ++ 7#5 ++ 0#5 ++ 1#3 ++ 1#4, .vredfmax 2 5 7 1),
    (2#2 ++ 2#2 ++ 25#6 ++ 5#5 ++ 7#5 ++ 0#5 ++ 1#3 ++ 2#4, .vredfmin 2 5 7 1),
    (2#2 ++ 2#2 ++ 25#6 ++ 5#5 ++ 7#5 ++ 0#5 ++ 1#3 ++ 3#4, .vredadd 2 5 7 1),
    (2#2 ++ 2#2 ++ 25#6 ++ 5#5 ++ 7#5 ++ 0#5 ++ 1#3 ++ 4#4, .vredmax 2 5 7 1),
    (2#2 ++ 2#2 ++ 25#6 ++ 5#5 ++ 7#5 ++ 0#5 ++ 1#3 ++ 5#4, .vredmin 2 5 7 1),
    (2#2 ++ 2#2 ++ 25#6 ++ 5#5 ++ 7#5 ++ 0#5 ++ 1#3 ++ 6#4, .vredmaxu 2 5 7 1),
    (2#2 ++ 2#2 ++ 25#6 ++ 5#5 ++ 7#5 ++ 0#5 ++ 1#3 ++ 7#4, .vredminu 2 5 7 1),
    (2#2 ++ 2#2 ++ 25#6 ++ 5#5 ++ 7#5 ++ 0#5 ++ 1#3 ++ 8#4, .vredand 2 5 7 1),
    (2#2 ++ 2#2 ++ 25#6 ++ 5#5 ++ 7#5 ++ 0#5 ++ 1#3 ++ 9#4, .vredor 2 5 7 1),
    (2#2 ++ 2#2 ++ 25#6 ++ 5#5 ++ 7#5 ++ 0#5 ++ 1#3 ++ 10#4, .vredxor 2 5 7 1),
    (2#2 ++ 2#2 ++ 26#6 ++ 5#6 ++ 0#1 ++ 7#5 ++ 9#4 ++ 1#1 ++ 13#5, .vrowld 2 5 7 9 1 13),
    (2#2 ++ 2#2 ++ 26#6 ++ 5#6 ++ 1#1 ++ 7#5 ++ 0#4 ++ 1#1 ++ 11#5, .vrowst 2 5 7 1 11),
    (2#2 ++ 2#2 ++ 27#6 ++ 5#5 ++ 7#5 ++ 9#5 ++ 11#5 ++ 0#2, .vperm 2 5 7 9 11),
    (2#2 ++ 2#2 ++ 27#6 ++ 5#5 ++ 7#5 ++ 1#12, .vxpose8 2 5 7),
    (2#2 ++ 2#2 ++ 28#6 ++ 5#5 ++ 7#5 ++ 9#5 ++ 3#3 ++ 0#4, .vsrbits 2 5 7 9 3),
    (2#2 ++ 2#2 ++ 28#6 ++ 5#5 ++ 0#10 ++ 7#3 ++ 1#4, .vlane 2 5 7),
    (2#2 ++ 2#2 ++ 29#6 ++ 0#2 ++ 5#3 ++ 0#2 ++ 7#3 ++ 0#2 ++ 1#3 ++ 0#7, .mand 2 5 7 1),
    (2#2 ++ 2#2 ++ 29#6 ++ 0#2 ++ 5#3 ++ 0#2 ++ 7#3 ++ 0#2 ++ 1#3 ++ 1#7, .mor 2 5 7 1),
    (2#2 ++ 2#2 ++ 29#6 ++ 0#2 ++ 5#3 ++ 0#2 ++ 7#3 ++ 0#2 ++ 1#3 ++ 2#7, .mxor 2 5 7 1),
    (2#2 ++ 2#2 ++ 29#6 ++ 0#2 ++ 5#3 ++ 0#2 ++ 7#3 ++ 0#2 ++ 1#3 ++ 3#7, .mandn 2 5 7 1),
    (2#2 ++ 2#2 ++ 29#6 ++ 0#2 ++ 5#3 ++ 0#2 ++ 7#3 ++ 4#12, .mnot 2 5 7),
    (2#2 ++ 2#2 ++ 29#6 ++ 0#2 ++ 5#3 ++ 0#2 ++ 7#3 ++ 5#12, .mfirst 2 5 7),
    (2#2 ++ 2#2 ++ 29#6 ++ 0#2 ++ 5#3 ++ 7#5 ++ 6#12, .mfromv 2 5 7),
    (2#2 ++ 2#2 ++ 29#6 ++ 5#5 ++ 0#2 ++ 7#3 ++ 7#12, .mtov 2 5 7),
    (2#2 ++ 2#2 ++ 30#6 ++ 0#1 ++ 5#5 ++ 7#6 ++ 0#10, .vbcast 2 5 7),
    (2#2 ++ 2#2 ++ 30#6 ++ 5#6 ++ 0#1 ++ 7#5 ++ 9#6 ++ 1#4, .vext 2 5 7 9)] = true := by decide +kernel
theorem test_words_lanes3 : wordsOk [
    (2#2 ++ 2#2 ++ 30#6 ++ 0#1 ++ 5#5 ++ 7#6 ++ 9#6 ++ 2#4, .vins 2 5 7 9),
    (2#2 ++ 2#2 ++ 30#6 ++ 5#6 ++ 0#3 ++ 7#3 ++ 3#10, .mcount 2 5 7),
    (2#2 ++ 2#2 ++ 30#6 ++ 5#6 ++ 0#3 ++ 7#3 ++ 4#10, .mfind 2 5 7)] = true := by decide +kernel
theorem test_words_matrix : wordsOk [
    (2#2 ++ 2#2 ++ 32#6 ++ 0#2 ++ 5#6 ++ 37#6 ++ 9#4 ++ 1#1 ++ 0#3, .wld 2 5 37 9 1),
    (2#2 ++ 2#2 ++ 33#6 ++ 0#2 ++ 5#6 ++ 37#6 ++ 9#4 ++ 1#1 ++ 0#3, .wldx 2 5 37 9 1),
    (2#2 ++ 2#2 ++ 34#6 ++ 0#22, .wswap 2),
    (2#2 ++ 2#2 ++ 35#6 ++ 0#10 ++ 5#4 ++ 0#8, .ashape 2 5),
    (2#2 ++ 2#2 ++ 36#6 ++ 1#2 ++ 7#6 ++ 37#6 ++ 11#4 ++ 1#1 ++ 0#1 ++ 1#1 ++ 1#1, .mm 2 1 7 37 11 1 1 1),
    (2#2 ++ 2#2 ++ 37#6 ++ 1#2 ++ 7#6 ++ 37#6 ++ 11#4 ++ 1#1 ++ 0#1 ++ 1#1 ++ 1#1, .mmt 2 1 7 37 11 1 1 1),
    (2#2 ++ 2#2 ++ 38#6 ++ 1#2 ++ 7#6 ++ 9#6 ++ 11#4 ++ 1#1 ++ 0#2 ++ 1#1, .mmu 2 1 7 9 11 1 1),
    (2#2 ++ 2#2 ++ 39#6 ++ 1#2 ++ 7#6 ++ 9#6 ++ 11#4 ++ 1#1 ++ 0#2 ++ 1#1, .mmus 2 1 7 9 11 1 1),
    (2#2 ++ 2#2 ++ 40#6 ++ 1#2 ++ 0#20, .mmz 2 1),
    (2#2 ++ 2#2 ++ 40#6 ++ 1#22, .mmzAll 2),
    (2#2 ++ 2#2 ++ 41#6 ++ 1#2 ++ 7#6 ++ 0#10 ++ 1#1 ++ 0#3, .drnF32 2 1 7 1),
    (2#2 ++ 2#2 ++ 41#6 ++ 1#2 ++ 7#6 ++ 0#10 ++ 1#1 ++ 1#3, .drnBf16 2 1 7 1),
    (2#2 ++ 2#2 ++ 41#6 ++ 1#2 ++ 7#6 ++ 9#6 ++ 0#4 ++ 1#1 ++ 2#3, .drnBf16Sr 2 1 7 9 1),
    (2#2 ++ 2#2 ++ 42#6 ++ 1#2 ++ 7#6 ++ 0#10 ++ 1#1 ++ 0#3, .drnE4m3Sat 2 1 7 1),
    (2#2 ++ 2#2 ++ 42#6 ++ 1#2 ++ 7#6 ++ 0#10 ++ 1#1 ++ 1#3, .drnE4m3 2 1 7 1),
    (2#2 ++ 2#2 ++ 42#6 ++ 1#2 ++ 7#6 ++ 9#6 ++ 0#4 ++ 1#1 ++ 2#3, .drnE4m3SrSat 2 1 7 9 1),
    (2#2 ++ 2#2 ++ 42#6 ++ 1#2 ++ 7#6 ++ 9#6 ++ 0#4 ++ 1#1 ++ 3#3, .drnE4m3Sr 2 1 7 9 1),
    (2#2 ++ 2#2 ++ 42#6 ++ 1#2 ++ 7#6 ++ 0#10 ++ 1#1 ++ 4#3, .drnE5m2Sat 2 1 7 1),
    (2#2 ++ 2#2 ++ 42#6 ++ 1#2 ++ 7#6 ++ 0#10 ++ 1#1 ++ 5#3, .drnE5m2 2 1 7 1),
    (2#2 ++ 2#2 ++ 42#6 ++ 1#2 ++ 7#6 ++ 9#6 ++ 0#4 ++ 1#1 ++ 6#3, .drnE5m2SrSat 2 1 7 9 1),
    (2#2 ++ 2#2 ++ 42#6 ++ 1#2 ++ 7#6 ++ 9#6 ++ 0#4 ++ 1#1 ++ 7#3, .drnE5m2Sr 2 1 7 9 1),
    (2#2 ++ 2#2 ++ 43#6 ++ 1#2 ++ 7#6 ++ 0#10 ++ 1#1 ++ 0#3, .drnMx8e4 2 1 7 1),
    (2#2 ++ 2#2 ++ 43#6 ++ 1#2 ++ 7#6 ++ 9#6 ++ 0#4 ++ 1#1 ++ 1#3, .drnMx8e4Sr 2 1 7 9 1),
    (2#2 ++ 2#2 ++ 43#6 ++ 1#2 ++ 7#6 ++ 0#10 ++ 1#1 ++ 2#3, .drnMx8e5 2 1 7 1),
    (2#2 ++ 2#2 ++ 43#6 ++ 1#2 ++ 7#6 ++ 9#6 ++ 0#4 ++ 1#1 ++ 3#3, .drnMx8e5Sr 2 1 7 9 1),
    (2#2 ++ 2#2 ++ 43#6 ++ 1#2 ++ 7#6 ++ 0#10 ++ 1#1 ++ 4#3, .drnMx4 2 1 7 1),
    (2#2 ++ 2#2 ++ 43#6 ++ 1#2 ++ 7#6 ++ 9#6 ++ 0#4 ++ 1#1 ++ 5#3, .drnMx4Sr 2 1 7 9 1),
    (2#2 ++ 2#2 ++ 43#6 ++ 1#2 ++ 7#6 ++ 0#10 ++ 1#1 ++ 6#3, .drnBx24 2 1 7 1),
    (2#2 ++ 2#2 ++ 44#6 ++ 1#2 ++ 7#6 ++ 0#6 ++ 9#4 ++ 1#1 ++ 0#3, .drna 2 1 7 9 1),
    (2#2 ++ 2#2 ++ 45#6 ++ 5#6 ++ 0#16, .merrq 2 5),
    (2#2 ++ 2#2 ++ 45#6 ++ 5#6 ++ 1#16, .merrs 2 5),
    (2#2 ++ 2#2 ++ 45#6 ++ 2#22, .merrc 2)] = true := by decide +kernel
theorem test_words_xMem : wordsOk [
    (2#2 ++ 2#2 ++ 48#6 ++ 5#6 ++ 7#3 ++ 0#13, .rinitX 2 5 7),
    (2#2 ++ 2#2 ++ 48#6 ++ 5#6 ++ 7#6 ++ 9#4 ++ 1#6, .rclaimX 2 5 7 9),
    (2#2 ++ 2#2 ++ 48#6 ++ 5#6 ++ 7#6 ++ 2#10, .rpubX 2 5 7),
    (2#2 ++ 2#2 ++ 48#6 ++ 0#6 ++ 5#3 ++ 0#3 ++ 7#4 ++ 3#6, .rwaitfX 2 5 7),
    (2#2 ++ 2#2 ++ 48#6 ++ 0#6 ++ 5#3 ++ 4#13, .rrelX 2 5),
    (2#2 ++ 2#2 ++ 49#6 ++ 5#6 ++ 7#6 ++ 0#10, .semadd 2 5 7),
    (2#2 ++ 2#2 ++ 49#6 ++ 5#6 ++ 1#16, .semclr 2 5),
    (2#2 ++ 0#2 ++ 56#6 ++ 0#1 ++ 3#5 ++ 0#16, .gland 3),
    (2#2 ++ 0#2 ++ 56#6 ++ 0#1 ++ 3#5 ++ 1#16, .glrd 3),
    (2#2 ++ 0#2 ++ 56#6 ++ 0#1 ++ 3#5 ++ 2#16, .glst 3),
    (2#2 ++ 0#2 ++ 57#6 ++ 0#22, .skipz),
    (2#2 ++ 0#2 ++ 57#6 ++ 1#22, .skipzAcc),
    (2#2 ++ 0#2 ++ 58#6 ++ 0#22, .abend)] = true := by decide +kernel
theorem test_words_s1 : wordsOk [
    (3#2 ++ 2#2 ++ 2#6 ++ 5#6 ++ 7#6 ++ 9#6 ++ 0#4, .sadd 2 5 7 9),
    (3#2 ++ 2#2 ++ 2#6 ++ 5#6 ++ 7#6 ++ 9#6 ++ 1#4, .ssub 2 5 7 9),
    (3#2 ++ 2#2 ++ 2#6 ++ 5#6 ++ 7#6 ++ 9#6 ++ 2#4, .sand 2 5 7 9),
    (3#2 ++ 2#2 ++ 2#6 ++ 5#6 ++ 7#6 ++ 9#6 ++ 3#4, .sor 2 5 7 9),
    (3#2 ++ 2#2 ++ 2#6 ++ 5#6 ++ 7#6 ++ 9#6 ++ 4#4, .sxor 2 5 7 9),
    (3#2 ++ 2#2 ++ 2#6 ++ 5#6 ++ 7#6 ++ 9#6 ++ 5#4, .sandn 2 5 7 9),
    (3#2 ++ 2#2 ++ 2#6 ++ 5#6 ++ 7#6 ++ 9#6 ++ 6#4, .sshl 2 5 7 9),
    (3#2 ++ 2#2 ++ 2#6 ++ 5#6 ++ 7#6 ++ 9#6 ++ 7#4, .sshr 2 5 7 9),
    (3#2 ++ 2#2 ++ 2#6 ++ 5#6 ++ 7#6 ++ 9#6 ++ 8#4, .ssra 2 5 7 9),
    (3#2 ++ 2#2 ++ 2#6 ++ 5#6 ++ 7#6 ++ 9#6 ++ 9#4, .smin 2 5 7 9),
    (3#2 ++ 2#2 ++ 2#6 ++ 5#6 ++ 7#6 ++ 9#6 ++ 10#4, .smax 2 5 7 9),
    (3#2 ++ 2#2 ++ 2#6 ++ 5#6 ++ 7#6 ++ 9#6 ++ 11#4, .sminu 2 5 7 9),
    (3#2 ++ 2#2 ++ 2#6 ++ 5#6 ++ 7#6 ++ 9#6 ++ 12#4, .smaxu 2 5 7 9),
    (3#2 ++ 2#2 ++ 2#6 ++ 5#6 ++ 7#6 ++ 9#6 ++ 13#4, .saddw 2 5 7 9),
    (3#2 ++ 2#2 ++ 2#6 ++ 5#6 ++ 7#6 ++ 9#6 ++ 14#4, .ssubw 2 5 7 9),
    (3#2 ++ 2#2 ++ 2#6 ++ 5#6 ++ 7#6 ++ 15#10, .sclz 2 5 7),
    (3#2 ++ 2#2 ++ 3#6 ++ 5#6 ++ 7#6 ++ 9#10, .saddi 2 5 7 9),
    (3#2 ++ 2#2 ++ 4#6 ++ 5#6 ++ 7#16, .sli 2 5 7),
    (3#2 ++ 2#2 ++ 5#6 ++ 5#6 ++ 7#6 ++ 9#6 ++ 11#4, .smovk 2 5 7 9 11),
    (3#2 ++ 2#2 ++ 8#6 ++ 63#6 ++ 7#6 ++ 9#4 ++ 3#2 ++ 13#4, .st 2 63 7 9 3 13),
    (3#2 ++ 2#2 ++ 10#6 ++ 5#6 ++ 7#6 ++ 9#4 ++ 1#1 ++ 0#5, .tst 2 5 7 9 1),
    (3#2 ++ 2#2 ++ 11#6 ++ 5#6 ++ 7#6 ++ 9#4 ++ 1#1 ++ 0#5, .tscat 2 5 7 9 1),
    (3#2 ++ 2#2 ++ 12#6 ++ 5#6 ++ 7#6 ++ 9#4 ++ 1#1 ++ 0#5, .stash 2 5 7 9 1),
    (3#2 ++ 2#2 ++ 12#6 ++ 0#6 ++ 5#6 ++ 1#10, .stashdrop 2 5),
    (3#2 ++ 2#2 ++ 16#6 ++ 1#1 ++ 0#5 ++ 7#6 ++ 9#6 ++ 1#1 ++ 1#1 ++ 0#2, .atomnrSwap 2 1 7 9 1),
    (3#2 ++ 2#2 ++ 16#6 ++ 1#1 ++ 1#5 ++ 7#6 ++ 9#6 ++ 1#1 ++ 1#1 ++ 0#2, .atomnrCas 2 1 7 9 1),
    (3#2 ++ 2#2 ++ 16#6 ++ 1#1 ++ 2#5 ++ 7#6 ++ 9#6 ++ 1#1 ++ 1#1 ++ 0#2, .atomnrAdd 2 1 7 9 1),
    (3#2 ++ 2#2 ++ 16#6 ++ 1#1 ++ 3#5 ++ 7#6 ++ 9#6 ++ 1#1 ++ 1#1 ++ 0#2, .atomnrAnd 2 1 7 9 1),
    (3#2 ++ 2#2 ++ 16#6 ++ 1#1 ++ 4#5 ++ 7#6 ++ 9#6 ++ 1#1 ++ 1#1 ++ 0#2, .atomnrOr 2 1 7 9 1),
    (3#2 ++ 2#2 ++ 16#6 ++ 1#1 ++ 5#5 ++ 7#6 ++ 9#6 ++ 1#1 ++ 1#1 ++ 0#2, .atomnrXor 2 1 7 9 1),
    (3#2 ++ 2#2 ++ 16#6 ++ 1#1 ++ 6#5 ++ 7#6 ++ 9#6 ++ 1#1 ++ 1#1 ++ 0#2, .atomnrMin 2 1 7 9 1),
    (3#2 ++ 2#2 ++ 16#6 ++ 1#1 ++ 7#5 ++ 7#6 ++ 9#6 ++ 1#1 ++ 1#1 ++ 0#2, .atomnrMax 2 1 7 9 1),
    (3#2 ++ 2#2 ++ 16#6 ++ 1#1 ++ 8#5 ++ 7#6 ++ 9#6 ++ 1#1 ++ 1#1 ++ 0#2, .atomnrMinu 2 1 7 9 1),
    (3#2 ++ 2#2 ++ 16#6 ++ 1#1 ++ 9#5 ++ 7#6 ++ 9#6 ++ 1#1 ++ 1#1 ++ 0#2, .atomnrMaxu 2 1 7 9 1),
    (3#2 ++ 2#2 ++ 16#6 ++ 1#1 ++ 10#5 ++ 7#6 ++ 9#6 ++ 1#1 ++ 1#1 ++ 0#2, .atomnrIncw 2 1 7 9 1),
    (3#2 ++ 2#2 ++ 16#6 ++ 1#1 ++ 11#5 ++ 7#6 ++ 9#6 ++ 1#1 ++ 1#1 ++ 0#2, .atomnrDecw 2 1 7 9 1),
    (3#2 ++ 2#2 ++ 16#6 ++ 1#1 ++ 12#5 ++ 7#6 ++ 9#6 ++ 1#1 ++ 1#1 ++ 0#2, .atomnrFaddb 2 1 7 9 1),
    (3#2 ++ 2#2 ++ 16#6 ++ 1#1 ++ 13#5 ++ 7#6 ++ 9#6 ++ 1#1 ++ 1#1 ++ 0#2, .atomnrFaddt 2 1 7 9 1),
    (3#2 ++ 2#2 ++ 16#6 ++ 1#1 ++ 14#5 ++ 7#6 ++ 9#6 ++ 8#4, .atomnrFaddF32 2 1 7 9),
    (3#2 ++ 2#2 ++ 16#6 ++ 1#1 ++ 15#5 ++ 7#6 ++ 9#6 ++ 8#4, .atomnrFmaxF32 2 1 7 9),
    (3#2 ++ 2#2 ++ 17#6 ++ 63#6 ++ 7#6 ++ 9#4 ++ 2#2 ++ 11#4, .nmadd 2 63 7 9 11),
    (3#2 ++ 2#2 ++ 18#6 ++ 0#22, .nmfence 2),
    (3#2 ++ 2#2 ++ 20#6 ++ 0#6 ++ 5#6 ++ 0#10, .bkcopy 2 5),
    (3#2 ++ 2#2 ++ 20#6 ++ 0#6 ++ 5#6 ++ 1#10, .bkfill 2 5),
    (3#2 ++ 2#2 ++ 20#6 ++ 0#6 ++ 5#6 ++ 2#10, .bkand 2 5),
    (3#2 ++ 2#2 ++ 20#6 ++ 0#6 ++ 5#6 ++ 3#10, .bkor 2 5),
    (3#2 ++ 2#2 ++ 20#6 ++ 0#6 ++ 5#6 ++ 4#10, .bknot 2 5),
    (3#2 ++ 2#2 ++ 20#6 ++ 0#6 ++ 5#6 ++ 5#10, .bkmaj 2 5),
    (3#2 ++ 2#2 ++ 21#6 ++ 5#6 ++ 7#6 ++ 9#4 ++ 0#6, .bkwait 2 5 7 9),
    (3#2 ++ 2#2 ++ 22#6 ++ 5#6 ++ 7#6 ++ 0#10, .semsig 2 5 7)] = true := by decide +kernel
theorem test_words_s2 : wordsOk [
    (3#2 ++ 2#2 ++ 23#6 ++ 0#6 ++ 5#6 ++ 7#6 ++ 0#4, .discard 2 5 7),
    (3#2 ++ 2#2 ++ 23#6 ++ 0#6 ++ 5#6 ++ 7#6 ++ 1#4, .clean 2 5 7),
    (3#2 ++ 2#2 ++ 24#6 ++ 0#6 ++ 5#6 ++ 7#4 ++ 0#6, .crs 2 5 7),
    (3#2 ++ 2#2 ++ 24#6 ++ 0#6 ++ 5#6 ++ 7#4 ++ 1#6, .crsl 2 5 7),
    (3#2 ++ 2#2 ++ 24#6 ++ 0#6 ++ 5#6 ++ 7#4 ++ 2#6, .cag 2 5 7),
    (3#2 ++ 2#2 ++ 24#6 ++ 0#6 ++ 5#6 ++ 7#4 ++ 3#6, .cput 2 5 7),
    (3#2 ++ 2#2 ++ 24#6 ++ 0#6 ++ 5#6 ++ 7#4 ++ 4#6, .cget 2 5 7),
    (3#2 ++ 2#2 ++ 24#6 ++ 5#6 ++ 7#6 ++ 9#4 ++ 5#6, .cwait 2 5 7 9)] = true := by decide +kernel
theorem test_word_vrowldSlot : okAbut (2#2 ++ 0#2 ++ 26#6 ++ 3#6 ++ 0#11 ++ 5#5) (.vrowldSlot 3 5) = true := by decide +kernel
theorem test_word_vrowstSlot : okAbut (2#2 ++ 0#2 ++ 26#6 ++ 3#6 ++ 1024#11 ++ 5#5) (.vrowstSlot 3 5) = true := by decide +kernel
theorem test_word_vbcastConst : okAbut (2#2 ++ 0#2 ++ 30#6 ++ 0#1 ++ 3#5 ++ 0#2 ++ 5#4 ++ 0#10) (.vbcastConst 3 5) = true := by decide +kernel

/-! ## Ill-formed terms, one for each check, and illegal words, one for each cause a decoder gives (06 R184 to R188, R205) -/

theorem test_ill_k_destination : (Instr.kset 0 16 0).wf = false := by decide +kernel
theorem test_ill_k_source : (Instr.kaddi 0 1 20 0).wf = false := by decide +kernel
theorem test_ill_a_source : (Instr.aadd 0 1 54 2).wf = false := by decide +kernel
theorem test_ill_a_destination : (Instr.ali 0 48 0).wf = false := by decide +kernel
theorem test_ill_a_group : (Instr.tld 0 1 30).wf = false := by decide +kernel
theorem test_ill_s_source : (Instr.sadd 0 1 54 2).wf = false := by decide +kernel
theorem test_ill_s_group : (Instr.tscat 0 1 13 0 0).wf = false := by decide +kernel
theorem test_ill_budget : (Instr.budget 0 0 5).wf = false := by decide +kernel
theorem test_ill_system_number : (Instr.rdsys 0 1 0x3FFF).wf = false := by decide +kernel
theorem test_ill_semaphore_field : (Instr.wld 0 1 7 0 0).wf = false := by decide +kernel
theorem test_ill_semaphore : (Instr.semclr 0 32).wf = false := by decide +kernel
theorem test_ill_register_pair : (Instr.mmu 0 0 1 63 0 0 0).wf = false := by decide +kernel
theorem test_ill_extension_size : (Instr.ld 0 5 7 9 3 1 0).wf = false := by decide +kernel
theorem test_ill_store_queue : (Instr.st 0 5 7 1 3 0).wf = false := by decide +kernel
theorem test_ill_table_form : (Instr.tdefTable 0 1 2 5).wf = false ∧ (Instr.tdefTable 0 1 2 0).wf = false := by decide +kernel
theorem test_bad_major : badWord (decode 0) 1 = true := by decide +kernel
theorem test_bad_sub : badWord (decode (1#2 ++ 0#2 ++ 48#6 ++ 0#22)) 2 = true := by decide +kernel
theorem test_bad_system : badWord (decode (2#2 ++ 0#2 ++ 12#6 ++ 9#6 ++ 0#2 ++ 0x3FFF#14)) 3 = true := by decide +kernel
theorem test_bad_register : badWord (decode (0#2 ++ 0#2 ++ 3#6 ++ 1#6 ++ 20#6 ++ 0#10)) 4 = true := by decide +kernel
theorem test_bad_reserved : badWord (decode (0#2 ++ 0#2 ++ 13#6 ++ 1#22)) 5 = true := by decide +kernel

/-! ## A word placed where the next step fetches it (log 9), and the steps that run it -/

theorem test_table_word : decodeTableWord 32 0x10C50803 = some (.kaddi 1 5 2 3) := by decide +kernel
theorem test_placed_k : isNext (step (State.reset.withFetchWord 32 0x00850007)) = true := by decide +kernel
theorem test_placed_k_result : vget ((nextOf (step (State.reset.withFetchWord 32 0x00850007)) State.reset).core 0).wA.k 5 0 = 7 := by decide +kernel
theorem test_placed_a : vget ((nextOf (step (State.reset.withFetchWord 32 0x41050007)) State.reset).core 0).a 5 0 = 7 := by decide +kernel
theorem test_placed_s : vget ((nextOf (step (State.reset.withFetchWord 32 0xC1050007)) State.reset).core 0).s 5 0 = 7 := by decide +kernel
theorem test_placed_x : vget ((nextOf (step (State.reset.withFetchWord 32 0x81C50007)) State.reset).core 0).g 5 ⟨0, false⟩ = ⟨7, false⟩ := by decide +kernel
theorem test_placed_trap : ((nextOf (step (State.reset.withFetchWord 32 0x83008003)) State.reset).core 0).wX.run = .stopped := by decide +kernel
theorem test_placed_illegal : ((nextOf (step (State.reset.withFetchWord 32 0)) State.reset).core 0).wA.run = .stopped := by decide +kernel

end Sys2Proof.Tests
end

section
/-! # K-stream results and shared control (07 R219 to R241)

The rules of the operations that the statements speak of come first: what a change of the issuing walker does, what the integer
operations of R219 compute, what a result leaves alone, what a branch does to the walker. The statements are then settled from them. -/

namespace Sys2Proof.Machine

/-! ## Changing the issuing walker -/

/-- A change of the issuing core counts only by what it makes of that core. -/
theorem State.modCur_congr (s : State) {f g : Core → Core} (h : f s.cur = g s.cur) : s.modCur f = s.modCur g :=
  congrArg (s.setCore s.issue.core) h

theorem Core.modWk_congr (k : Core) (w : Walker) {f g : WalkerSt → WalkerSt} (h : f (k.wk w) = g (k.wk w)) :
    k.modWk w f = k.modWk w g := congrArg (k.setWk w) h

theorem State.modW_congr (s : State) {f g : WalkerSt → WalkerSt} (h : f s.curW = g s.curW) : s.modW f = s.modW g :=
  s.modCur_congr (s.cur.modWk_congr s.issue.w h)

/-- A change that leaves the issuing walker as it is leaves the machine as it is. -/
theorem State.modW_fixed (s : State) {f : WalkerSt → WalkerSt} (h : f s.curW = s.curW) : s.modW f = s := by
  have hk : s.cur.modWk s.issue.w f = s.cur :=
    (congrArg (s.cur.setWk s.issue.w) h).trans (Core.setWk_wk s.cur s.issue.w)
  calc s.modW f = s.setCore s.issue.core s.cur := congrArg (s.setCore s.issue.core) hk
    _ = s := by simp [State.setCore, State.cur, State.core]

/-- A change of the issuing walker leaves KQ as it is (R57). -/
theorem State.modW_cur_kq (s : State) (f : WalkerSt → WalkerSt) (h : s.issue.core < 480) : (s.modW f).cur.kq = s.cur.kq := by
  rw [State.cur_modW s f h, Core.modWk_kq]

/-! ## The integer operations of R219 -/

/-- The model's two-source integer operations, in the order of R219's rows 0 to 14. -/
def aluOps : List (W64 → W64 → W64) :=
  [fun x y => x + y, fun x y => x - y, fun x y => x &&& y, fun x y => x ||| y, fun x y => x ^^^ y, aluAndn, aluShl, aluShr, aluSra,
   aluMin, aluMax, aluMinu, aluMaxu, aluAddw, aluSubw]

theorem shAmt_eq (y : W64) : shAmt y = y.toNat % 64 := by simp [shAmt, fld]

theorem aluShl_eq (x y : W64) : aluShl x y = BitVec.ofNat 64 (x.toNat * 2 ^ (y.toNat % 64)) := by
  apply BitVec.eq_of_toNat_eq
  simp [aluShl, shAmt_eq, Nat.shiftLeft_eq]

theorem aluShr_eq (x y : W64) : aluShr x y = BitVec.ofNat 64 (x.toNat / 2 ^ (y.toNat % 64)) := by
  have hlt : x.toNat / 2 ^ (y.toNat % 64) < 2 ^ 64 := (Nat.div_le_self _ _).trans_lt x.isLt
  apply BitVec.eq_of_toNat_eq
  rw [BitVec.toNat_ofNat, Nat.mod_eq_of_lt hlt, aluShr, shAmt_eq, BitVec.toNat_ushiftRight, Nat.shiftRight_eq_div_pow]

theorem aluSra_eq (x y : W64) : aluSra x y = BitVec.ofInt 64 (x.toInt / 2 ^ (y.toNat % 64)) := by
  rw [aluSra, shAmt_eq, BitVec.sshiftRight, Int.shiftRight_eq_div_pow, Nat.cast_pow, Nat.cast_ofNat]

/-- The model's operations give the results that R219 lists. -/
theorem aluOps_results (x y : W64) : aluOps.map (fun f => f x y) = aluTable x y := by
  simp only [aluOps, aluTable, List.map_cons, List.map_nil, aluShl_eq, aluShr_eq, aluSra_eq]
  rfl

/-- KALU's syllables, in R219's order, write the model's results to kd. -/
theorem exec_kAluOps {s : State} {st : BitVec 2} {d a b : BitVec 6} {i : Instr} {v : W64}
    (h : (i, v) ∈ (kAluOps st d a b).zip (aluTable (s.srcK st a) (s.srcK st b))) : exec i s = kResult s d v := by
  rw [← aluOps_results] at h
  simp only [kAluOps, aluOps, List.map_cons, List.map_nil, List.zip_cons_cons, List.zip_nil_left, List.mem_cons, List.not_mem_nil, or_false,
    Prod.mk.injEq] at h
  rcases h with ⟨rfl, rfl⟩ | ⟨rfl, rfl⟩ | ⟨rfl, rfl⟩ | ⟨rfl, rfl⟩ | ⟨rfl, rfl⟩ | ⟨rfl, rfl⟩ | ⟨rfl, rfl⟩ | ⟨rfl, rfl⟩ | ⟨rfl, rfl⟩
    | ⟨rfl, rfl⟩ | ⟨rfl, rfl⟩ | ⟨rfl, rfl⟩ | ⟨rfl, rfl⟩ | ⟨rfl, rfl⟩ | ⟨rfl, rfl⟩ <;> rfl

/-- R219 (clz): for x ≠ 0 the highest set bit of x is its binary logarithm. -/
theorem aluClz_leadingZeros (x : W64) : ∃ n, leadingZeros x n ∧ aluClz x = BitVec.ofNat 64 n := by
  by_cases h : x = 0
  · exact ⟨64, by simp [leadingZeros, h], by rw [aluClz, if_pos h]; rfl⟩
  · have h0 : x.toNat ≠ 0 := fun e => h (BitVec.eq_of_toNat_eq e)
    have hlog : Nat.log2 x.toNat < 64 := (Nat.log2_lt h0).mpr x.isLt
    refine ⟨63 - Nat.log2 x.toNat, ⟨by omega, ?_, fun _ => ?_⟩, by rw [aluClz, if_neg h]⟩
    · rw [show 64 - (63 - Nat.log2 x.toNat) = Nat.log2 x.toNat + 1 by omega]
      exact Nat.lt_log2_self
    · rw [show 63 - (63 - Nat.log2 x.toNat) = Nat.log2 x.toNat by omega]
      exact Nat.log2_self_le h0

/-- A sum with an immediate of any size is the sum of the numbers, modulo 2^64. -/
theorem add_immW (x : W64) (v : Int) : x + immW v = BitVec.ofInt 64 (x.toInt + v) := by
  rw [BitVec.ofInt_add, BitVec.ofInt_toInt, immW]

/-! ## A result of the K stream -/

/-- kd reads the value written; k0 reads zero (R60). -/
theorem State.wrK_kNow (s : State) (d : BitVec 6) (v : W64) (h : s.issue.core < 480) (hd : d.toNat < 16) :
    (s.wrK d v).kNow d = if d = 0 then 0 else v := by
  unfold State.kNow
  split_ifs with h0
  · rfl
  · rw [State.wrK_vget s d v _ h hd h0, if_pos rfl]

/-- A write of kd changes nothing else. -/
theorem State.wrK_onlyK (s : State) (d : BitVec 6) (v : W64) (h : s.issue.core < 480) (hd : d.toNat < 16) :
    onlyK s (s.wrK d v) [d.toNat] := by
  by_cases h0 : d = 0
  · subst h0
    exact ⟨(s.modW_fixed rfl).symm, fun _ _ => rfl, fun _ => rfl⟩
  · refine ⟨?_, fun j hj => ?_, fun l => by rw [State.wrK_mem]⟩
    · rw [State.wrK_curW_k s d v h, if_neg h0, State.wrK, if_neg h0]
      exact s.modW_congr rfl
    · rw [State.wrK_vget s d v j h hd h0, if_neg fun e => hj (by simp [e])]

/-- What a syllable that ends in `kResult` does. -/
theorem kResult_spec (s : State) (d : BitVec 6) (v : W64) (h : s.issue.core < 480) (hd : d.toNat < 16) :
    ∃ t, kResult s d v = .next t ∧ t.kNow d = (if d = 0 then 0 else v) ∧ onlyK s t [d.toNat] ∧ (d = 0 → t = s) :=
  ⟨s.wrK d v, rfl, s.wrK_kNow d v h hd, s.wrK_onlyK d v h hd, fun h0 => by rw [h0, State.wrK_zero]⟩

/-! ## K registers settled -/

/-- Settles O1: every syllable of it ends in `kResult`, with R219's result. -/
theorem kRegisterResults : Obligations.KRegisterResults := by
  unfold Obligations.KRegisterResults
  refine ⟨fun s st d a b i v hc hd hi => ?_, fun s st d a hc hd => ⟨?_, fun i => ?_, fun i => ?_⟩⟩
  · rw [exec_kAluOps hi]
    exact kResult_spec s d v hc hd
  · obtain ⟨n, hn, hv⟩ := aluClz_leadingZeros (s.srcK st a)
    obtain ⟨t, ht, hk, honly, -⟩ := kResult_spec s d (BitVec.ofNat 64 n) hc hd
    exact ⟨t, n, (congrArg (kResult s d) hv).trans ht, hn, hk, honly⟩
  · obtain ⟨t, ht, hk, honly, -⟩ := kResult_spec s d (immW (immVal i.toNat 16 true s.issue.exts)) hc hd
    exact ⟨t, ht, hk, honly⟩
  · obtain ⟨t, ht, hk, honly, -⟩ := kResult_spec s d _ hc hd
    exact ⟨t, (congrArg (kResult s d) (add_immW _ _)).trans ht, hk, honly⟩

/-! ## Controls of the core and of the walker (R53, R236, R237, R241) -/

/-- R53: the model's clamp is the nearer bound of [4, 4096]. -/
theorem clampSlip_natCast (v : Nat) : clampSlip v = max 4 (min 4096 v) := by
  unfold clampSlip
  split_ifs <;> omega

/-- SLIPSET on walker A (R51, R236). -/
theorem exec_slipset_A (s : State) (st : BitVec 2) (i : BitVec 16) (hw : s.issue.w = .A) : exec (.slipset st i) s
    = .next (s.modCur fun k => { k with slip := BitVec.ofNat 13 (clampSlip (immVal i.toNat 16 false s.issue.exts)) }) := by
  show execSlipset st i s = _
  simp only [execSlipset, hw]

/-- SLIPSET on the other walkers (R51). -/
theorem exec_slipset_other (s : State) (st : BitVec 2) (i : BitVec 16) (hw : s.issue.w ≠ .A) : exec (.slipset st i) s = .next s := by
  show execSlipset st i s = _
  unfold execSlipset
  split
  next h => exact absurd h hw
  next => rfl

/-- KSEED takes the operand, KSEEDX the exclusive or of it with SRKEY as the part found it (R47, R241). -/
theorem exec_kseed (st : BitVec 2) (a : BitVec 6) (s : State) : exec (.kseed st a) s = kseed (fun _ v => v) st a s := rfl
theorem exec_kseedx (st : BitVec 2) (a : BitVec 6) (s : State) : exec (.kseedx st a) s = kseed (fun k v => k ^^^ v) st a s := rfl

/-- KSEED and KSEEDX on walker X (R51, R241). -/
theorem kseed_X (f : W64 → W64 → W64) (st : BitVec 2) (a : BitVec 6) (s : State) (hw : s.issue.w = .X) :
    kseed f st a s = .next (s.modCur fun k => { k with srkey := f s.issue.pre.srkey (s.srcK st a) }) := by
  simp only [kseed, hw]

/-- KSEED and KSEEDX on the other walkers (R51). -/
theorem kseed_other (f : W64 → W64 → W64) (st : BitVec 2) (a : BitVec 6) (s : State) (hw : s.issue.w ≠ .X) :
    kseed f st a s = .next s := by
  unfold kseed
  split
  next h => exact absurd h hw
  next => rfl

theorem slipset_A_spec (s : State) (st : BitVec 2) (i : BitVec 16) (v : Nat) (hc : s.issue.core < 480) (hw : s.issue.w = .A)
    (hv : immVal i.toNat 16 false s.issue.exts = v) :
    ∃ t, exec (.slipset st i) s = .next t ∧ t.cur.slip.toNat = max 4 (min 4096 v)
      ∧ t = s.modCur fun k => { k with slip := t.cur.slip } := by
  refine ⟨_, exec_slipset_A s st i hw, ?_, ?_⟩
  · rw [State.cur_modCur _ _ hc, hv, clampSlip_natCast, BitVec.toNat_ofNat]
    omega
  · rw [State.cur_modCur _ _ hc]

theorem budget_spec (s : State) (st : BitVec 2) (n : BitVec 4) (i : BitVec 16) (v : Nat) (hc : s.issue.core < 480)
    (hv : immVal i.toNat 16 false s.issue.exts = v) :
    ∃ t, exec (.budget st n i) s = .next t ∧ (vget t.curW.wb n.toNat 0).toNat = min v 0xFFFFFFFF
      ∧ (∀ m, m ≠ n.toNat → vget t.curW.wb m 0 = vget s.curW.wb m 0) ∧ t = s.modW fun x => { x with wb := t.curW.wb } := by
  refine ⟨_, rfl, ?_, fun m hm => ?_, ?_⟩
  · rw [State.curW_modW _ _ hc, vget_vset, if_pos ⟨rfl, n.isLt⟩, hv, BitVec.toNat_ofNat]
    exact Nat.mod_eq_of_lt (Nat.lt_of_le_of_lt (Nat.min_le_right _ _) (by decide))
  · rw [State.curW_modW _ _ hc, vget_vset, if_neg fun h => hm h.1.symm]
  · rw [State.curW_modW _ _ hc]
    exact s.modW_congr rfl

/-! ## Branches (R181, R229) -/

@[simp] theorem WalkerSt.leaveLoop_bqPos (x : WalkerSt) (l : Loop) : (x.leaveLoop l).bqPos = x.bqPos := by
  unfold WalkerSt.leaveLoop
  split <;> rfl

/-- Closing loops leaves the walker's position in BQ. -/
theorem closeLoops_bqPos (base : Nat) (keep : Loop → Bool) (f : Nat) (x : WalkerSt) : (closeLoops f x base keep).bqPos = x.bqPos := by
  induction f generalizing x with
  | zero => rfl
  | succ f ih =>
    unfold closeLoops
    split
    next => rfl
    next l _ =>
      split
      next => rfl
      next => rw [ih, WalkerSt.leaveLoop_bqPos]

/-- A taken branch leaves the walker's position in BQ. -/
theorem takeBranch_bqPos (s : State) (t : VA) (h : s.issue.core < 480) : (takeBranch s t).curW.bqPos = s.curW.bqPos := by
  show (s.modW _).curW.bqPos = _
  rw [State.curW_modW _ _ h, closeLoops_bqPos]

theorem takeBranch_next (s : State) (t : VA) : (takeBranch s t).issue.next = some t := rfl

theorem takeBranch_mem (s : State) (t : VA) : (takeBranch s t).mem = s.mem := rfl

theorem branchIf_false (s : State) (off : Int) : branchIf s false off = .ok s := rfl

/-- A branch taken to a target in translated space (R181). -/
theorem branchIf_true (s : State) (off : Int) (g : Nat) (ht : s.issue.addr.toNat + 32 * off = g) (hg : g < 0xE * 2 ^ 48) :
    branchIf s true off = .ok (takeBranch s (BitVec.ofNat 52 g)) := by
  have hcheck : checkTarget s g = .ok (BitVec.ofNat 52 g) := if_pos ⟨Int.natCast_nonneg g, Int.ofNat_lt.mpr hg⟩
  rw [branchIf, if_pos rfl, target, ht, hcheck]
  rfl

/-! ## Entries of KQ and BQ at the walker's own position (R57) -/

/-- The machine after the issuing walker took an entry of BQ, or of KQ. -/
def State.pastBQ (s : State) : State := s.modW fun x => { x with bqPos := x.bqPos + 1 }
def State.pastKQ (s : State) : State := s.modW fun x => { x with kqPos := x.kqPos + 1 }

theorem State.popBQ_past (s : State) (w : Nat) (b : Bool) (h : s.issue.pre.bq[s.curW.bqPos]? = some b) :
    s.popBQ w = .ok (b, s.pastBQ) := by
  rw [State.popBQ_some s w b h, State.pastBQ]
  exact congrArg (fun u => Except.ok (b, u)) (s.modW_congr rfl)

theorem State.popKQ_past (s : State) (w : Nat) (v : W64) (h : s.issue.pre.kq[s.curW.kqPos]? = some v) :
    s.popKQ w = .ok (v, s.pastKQ) := by
  rw [State.popKQ_some s w v h, State.pastKQ]
  exact congrArg (fun u => Except.ok (v, u)) (s.modW_congr rfl)

/-- KMOVQ with an entry writes it to kd (R224). -/
theorem exec_kmovq_entry (s : State) (st : BitVec 2) (d : BitVec 6) (w : BitVec 4) (v : W64)
    (h : s.issue.pre.kq[s.curW.kqPos]? = some v) : exec (.kmovq st d w) s = kResult s.pastKQ d v := by
  show execKmovq st d w s = _
  rw [execKmovq, State.popKQ_past s _ v h]
  rfl

/-- KMOVQ without an entry waits under RES 4 (R58). -/
theorem exec_kmovq_empty (s : State) (st : BitVec 2) (d : BitVec 6) (w : BitVec 4)
    (h : s.issue.pre.kq[s.curW.kqPos]? = none) : exec (.kmovq st d w) s = .next (s.waitOn 4 0 w.toNat) := by
  show execKmovq st d w s = _
  rw [execKmovq, State.popKQ_none s _ h]
  rfl

/-- BRQ and BRQZ branch, past the entry, when it is the bit that they look for (R230). -/
theorem brqSense_entry (s : State) (sense b : Bool) (w : BitVec 4) (o : BitVec 17) (h : s.issue.pre.bq[s.curW.bqPos]? = some b) :
    brqSense sense w o s = done (branchIf s.pastBQ (b == sense) (immVal o.toNat 17 true s.issue.exts)) := by
  rw [brqSense, State.popBQ_past s _ b h]
  rfl

/-- The syllable that branches on the bit b. -/
theorem exec_brq_sense (b : Bool) (st : BitVec 2) (w : BitVec 4) (o : BitVec 17) (s : State) :
    exec (if b then .brq st w o else .brqz st w o) s = brqSense b w o s := by cases b <;> rfl

theorem brqSense_taken (s : State) (b : Bool) (w : BitVec 4) (o : BitVec 17) (g : Nat) (hc : s.issue.core < 480)
    (hb : s.issue.pre.bq[s.curW.bqPos]? = some b) (ht : s.issue.addr.toNat + 32 * immVal o.toNat 17 true s.issue.exts = g)
    (hg : g < 0xE * 2 ^ 48) :
    ∃ t, brqSense b w o s = .next t ∧ t.issue.next = some (BitVec.ofNat 52 g) ∧ t.curW.bqPos = s.curW.bqPos + 1 ∧ sameMem s t := by
  refine ⟨takeBranch s.pastBQ (BitVec.ofNat 52 g), ?_, takeBranch_next _ _, ?_, fun l => by rw [takeBranch_mem]; rfl⟩
  · rw [brqSense_entry s b b w o hb, beq_self_eq_true, branchIf_true s.pastBQ _ g ht hg]
    rfl
  · rw [takeBranch_bqPos s.pastBQ _ hc, State.pastBQ, State.curW_modW _ _ hc]

/-! ## Shared control settled -/

/-- Settles O8: clause by clause from the rules above. -/
theorem sharedControl : Obligations.SharedControl := by
  unfold Obligations.SharedControl
  refine ⟨fun s st a n i v hc _ hv => ⟨?_, ?_, ?_, ?_, ?_⟩, fun s st d w o hc => ⟨?_, ?_, ?_, ?_, ?_⟩⟩
  · exact fun hw => slipset_A_spec s st i v hc hw hv
  · exact exec_slipset_other s st i
  · intro hw
    rw [exec_kseed, exec_kseedx, kseed_X _ st a s hw, kseed_X _ st a s hw]
    exact ⟨rfl, rfl⟩
  · intro hw
    rw [exec_kseed, exec_kseedx, kseed_other _ st a s hw, kseed_other _ st a s hw]
    exact ⟨rfl, rfl⟩
  · exact budget_spec s st n i v hc hv
  · intro v hd hq
    obtain ⟨t, ht, hk, honly, -⟩ := kResult_spec s.pastKQ d v hc hd
    refine ⟨t, (exec_kmovq_entry s st d w v hq).trans ht, hk, ?_, honly⟩
    obtain ⟨hframe, -, -⟩ := honly
    rw [hframe, State.modW_cur_kq s.pastKQ _ hc, State.pastKQ, State.modW_cur_kq s _ hc]
  · exact exec_kmovq_empty s st d w
  · exact fun hq => brqSense_entry s true false w o hq
  · exact fun hq => brqSense_entry s false true w o hq
  · intro b hq g _ ht hg
    rw [exec_brq_sense]
    exact brqSense_taken s b w o g hc hq ht hg

end Sys2Proof.Machine
end
